-- ==== Sys2Proof/Word.lean ====
section
/-! DEFINITION. The word types of the Glerogrim G9 and the plainest reading of bits out of a number
(00_scope R4 to R9). -/

namespace Sys2Proof

/-- A byte; memory is byte-addressed (R4). -/
abbrev Byte := BitVec 8

/-- A 32-bit word: the value one vector register holds in one lane (R99). -/
abbrev W32 := BitVec 32

/-- A 64-bit scalar (R57). -/
abbrev W64 := BitVec 64

/-- A lane mask, bit L for lane L (R29). -/
abbrev Mask := BitVec 32

/-- A vector register v0 to v63 (R57). -/
abbrev VReg := Fin 64

/-- A scalar register s0 to s63 (R57). -/
abbrev SReg := Fin 64

/-- A mask register m0 to m7 (R57). -/
abbrev MReg := Fin 8

/-- A capability register k0 to k15 (R57). -/
abbrev KReg := Fin 16

/-- An accumulator tile a0 to a15 (R57). -/
abbrev AReg := Fin 16

/-- Bits [lo + n - 1 : lo] of a number. -/
def field (w lo n : Nat) : Nat := w / 2 ^ lo % 2 ^ n

/-- A field of a number as a bounded number. -/
def fieldFin (n : Nat) [NeZero n] (w lo : Nat) : Fin n := Fin.ofNat n (w / 2 ^ lo)

/-- One bit of a number. -/
def fieldBit (w lo : Nat) : Bool := w / 2 ^ lo % 2 == 1

/-- A truth value as a number. -/
def bit (b : Bool) : Nat := if b then 1 else 0

end Sys2Proof
end

