-- ==== Sys2Proof/Machine/Bits.lean ====
section
/-! DEFINITION. Bit counts, reversals and the reading of a number as signed, by the width in bits, as the scalar and
vector entries use them (R100, R391, R404, R406). -/

namespace Sys2Proof.Machine

/-- The set bits among the `n` low bits. -/
def popc : Nat → Nat → Nat
  | 0, _ => 0
  | n + 1, w => w % 2 + popc n (w / 2)

/-- Leading zeros of an `n`-bit number; `n` for zero (R406). -/
def clz : Nat → Nat → Nat
  | 0, _ => 0
  | n + 1, w => if w.testBit n then 0 else 1 + clz n w

/-- Trailing zeros of an `n`-bit number; `n` for zero (R406). -/
def ctz : Nat → Nat → Nat
  | 0, _ => 0
  | n + 1, w => if w % 2 = 1 then 0 else 1 + ctz n (w / 2)

/-- The `n` low bits reversed. -/
def brev : Nat → Nat → Nat
  | 0, _ => 0
  | n + 1, w => w % 2 * 2 ^ n + brev n (w / 2)

/-- The `n` low bytes reversed. -/
def bswap : Nat → Nat → Nat
  | 0, _ => 0
  | n + 1, w => w % 256 * 256 ^ n + bswap n (w / 256)

/-- An `n`-bit number read as two's complement. -/
def asInt (n w : Nat) : Int := if w < 2 ^ (n - 1) then (w : Int) else (w : Int) - 2 ^ n

/-- An integer modulo 2 to the power n. -/
def wrap (n : Nat) (i : Int) : Nat := (i % 2 ^ n).toNat

/-- An integer clamped to a range. -/
def clampInt (lo hi i : Int) : Int := if i < lo then lo else if hi < i then hi else i

/-- The lowest set bit of a mask, none for an empty one. -/
def lowestBit (m : Mask) : Option Nat := if m = 0 then none else some (ctz 32 m.toNat)

/-- The lanes of a mask, ascending. -/
def lanesOf (m : Mask) : List (Fin 32) := (List.finRange 32).filter fun L => m.getLsbD L.val

/-- A mask from a predicate on lanes. -/
def maskOf (p : Fin 32 → Bool) : Mask :=
  BitVec.ofNat 32 ((List.finRange 32).foldr (fun L acc => acc + bit (p L) * 2 ^ L.val) 0)

/-- The lanes below `n`. -/
def lowLanes (n : Nat) : Mask := BitVec.ofNat 32 (2 ^ (min n 32) - 1)

/-- The bits of a mask that lie in no lane of another. -/
def Mask.without (a b : Mask) : Mask := a &&& ~~~b

/-- The number of set lanes. -/
def Mask.count (m : Mask) : Nat := popc 32 m.toNat

/-- The floor of the square root of `n`, bit by bit from bit `k - 1` above the root found so far. -/
def isqrtFrom : Nat → Nat → Nat → Nat
  | 0, r, _ => r
  | k + 1, r, n => if (r + 2 ^ k) * (r + 2 ^ k) ≤ n then isqrtFrom k (r + 2 ^ k) n else isqrtFrom k r n

/-- The floor of the square root. -/
def isqrt (n : Nat) : Nat := isqrtFrom (Nat.log2 n / 2 + 1) 0 n

end Sys2Proof.Machine
end

