-- ==== Sys2Proof/Syntax.lean ====
section
/-! DEFINITION. The instructions of Malnex and the steps that have no encoding: one constructor per row of the
opcode table. The operands are the decoded fields of the encodings (04_encoding), the marker `mk` is bit 1 (R76),
and an event row carries what the step is given from outside the machine or what it acts on. -/

namespace Sys2Proof

/-- Integer element types T, codes 0 to 7 (R82). -/
inductive IntType where
  | i32 | n32 | i16x2 | n16x2 | i8x4 | n8x4 | i64 | n64
deriving DecidableEq, Repr

/-- The code of `IntType` in its field. -/
def IntType.code : IntType → Nat
  | .i32 => 0
  | .n32 => 1
  | .i16x2 => 2
  | .n16x2 => 3
  | .i8x4 => 4
  | .n8x4 => 5
  | .i64 => 6
  | .n64 => 7

/-- The `IntType` a field holds; a code the table does not list is none. -/
def IntType.ofCode : Nat → Option IntType
  | 0 => some .i32
  | 1 => some .n32
  | 2 => some .i16x2
  | 3 => some .n16x2
  | 4 => some .i8x4
  | 5 => some .n8x4
  | 6 => some .i64
  | 7 => some .n64
  | _ => none

/-- Floating-point element types FT, codes 0 to 3 (R82). -/
inductive FltType where
  | f32 | f64 | bf16x2 | f16x2
deriving DecidableEq, Repr

/-- The code of `FltType` in its field. -/
def FltType.code : FltType → Nat
  | .f32 => 0
  | .f64 => 1
  | .bf16x2 => 2
  | .f16x2 => 3

/-- The `FltType` a field holds; a code the table does not list is none. -/
def FltType.ofCode : Nat → Option FltType
  | 0 => some .f32
  | 1 => some .f64
  | 2 => some .bf16x2
  | 3 => some .f16x2
  | _ => none

/-- Compare conditions (Table 4.5). -/
inductive CmpCond where
  | eq | ne | lt | le | gt | ge | uo | ord
deriving DecidableEq, Repr

/-- The code of `CmpCond` in its field. -/
def CmpCond.code : CmpCond → Nat
  | .eq => 0
  | .ne => 1
  | .lt => 2
  | .le => 3
  | .gt => 4
  | .ge => 5
  | .uo => 6
  | .ord => 7

/-- The `CmpCond` a field holds; a code the table does not list is none. -/
def CmpCond.ofCode : Nat → Option CmpCond
  | 0 => some .eq
  | 1 => some .ne
  | 2 => some .lt
  | 3 => some .le
  | 4 => some .gt
  | 5 => some .ge
  | 6 => some .uo
  | 7 => some .ord
  | _ => none

/-- Branch and select conditions (Table 4.6). -/
inductive BrCond where
  | al | eq | ne | lt | ge | le | gt | ltn | gen | ps | pc | ks | kc
deriving DecidableEq, Repr

/-- The code of `BrCond` in its field. -/
def BrCond.code : BrCond → Nat
  | .al => 0
  | .eq => 1
  | .ne => 2
  | .lt => 3
  | .ge => 4
  | .le => 5
  | .gt => 6
  | .ltn => 7
  | .gen => 8
  | .ps => 9
  | .pc => 10
  | .ks => 11
  | .kc => 12

/-- The `BrCond` a field holds; a code the table does not list is none. -/
def BrCond.ofCode : Nat → Option BrCond
  | 0 => some .al
  | 1 => some .eq
  | 2 => some .ne
  | 3 => some .lt
  | 4 => some .ge
  | 5 => some .le
  | 6 => some .gt
  | 7 => some .ltn
  | 8 => some .gen
  | 9 => some .ps
  | 10 => some .pc
  | 11 => some .ks
  | 12 => some .kc
  | _ => none

/-- The functions of VIDX, FN 3 to 6 (Table 4.7). -/
inductive LaneIndex where
  | lane | tlane | tile | team
deriving DecidableEq, Repr

/-- The code of `LaneIndex` in its field. -/
def LaneIndex.code : LaneIndex → Nat
  | .lane => 3
  | .tlane => 4
  | .tile => 5
  | .team => 6

/-- The `LaneIndex` a field holds; a code the table does not list is none. -/
def LaneIndex.ofCode : Nat → Option LaneIndex
  | 3 => some .lane
  | 4 => some .tlane
  | 5 => some .tile
  | 6 => some .team
  | _ => none

/-- The functions of VBIT, FN 8 to 12 less 8 (Table 4.7). -/
inductive VBitFn where
  | clz | popc | ctz | brev | bswap
deriving DecidableEq, Repr

/-- The code of `VBitFn` in its field. -/
def VBitFn.code : VBitFn → Nat
  | .clz => 0
  | .popc => 1
  | .ctz => 2
  | .brev => 3
  | .bswap => 4

/-- The `VBitFn` a field holds; a code the table does not list is none. -/
def VBitFn.ofCode : Nat → Option VBitFn
  | 0 => some .clz
  | 1 => some .popc
  | 2 => some .ctz
  | 3 => some .brev
  | 4 => some .bswap
  | _ => none

/-- The functions of SBIT, F 19 to 22 (Table 4.9). -/
inductive SBitFn where
  | clz | popc | ctz | brev
deriving DecidableEq, Repr

/-- The code of `SBitFn` in its field. -/
def SBitFn.code : SBitFn → Nat
  | .clz => 19
  | .popc => 20
  | .ctz => 21
  | .brev => 22

/-- The `SBitFn` a field holds; a code the table does not list is none. -/
def SBitFn.ofCode : Nat → Option SBitFn
  | 19 => some .clz
  | 20 => some .popc
  | 21 => some .ctz
  | 22 => some .brev
  | _ => none

/-- The modes of VSHFL (Table 4.4). -/
inductive ShflOp where
  | idx | up | down | xor
deriving DecidableEq, Repr

/-- The code of `ShflOp` in its field. -/
def ShflOp.code : ShflOp → Nat
  | .idx => 0
  | .up => 1
  | .down => 2
  | .xor => 3

/-- The `ShflOp` a field holds; a code the table does not list is none. -/
def ShflOp.ofCode : Nat → Option ShflOp
  | 0 => some .idx
  | 1 => some .up
  | 2 => some .down
  | 3 => some .xor
  | _ => none

/-- The functions of VVOTE (Table 4.7). -/
inductive VoteOp where
  | ballot | any | all | uniform
deriving DecidableEq, Repr

/-- The code of `VoteOp` in its field. -/
def VoteOp.code : VoteOp → Nat
  | .ballot => 0
  | .any => 1
  | .all => 2
  | .uniform => 3

/-- The `VoteOp` a field holds; a code the table does not list is none. -/
def VoteOp.ofCode : Nat → Option VoteOp
  | 0 => some .ballot
  | 1 => some .any
  | 2 => some .all
  | 3 => some .uniform
  | _ => none

/-- The operations of VRED and VSCAN (Table 4.7). -/
inductive RedOp where
  | add | mins | minn | maxs | maxn | and | or | xor | fadd | fmin | fmax
deriving DecidableEq, Repr

/-- The code of `RedOp` in its field. -/
def RedOp.code : RedOp → Nat
  | .add => 0
  | .mins => 2
  | .minn => 3
  | .maxs => 4
  | .maxn => 5
  | .and => 6
  | .or => 7
  | .xor => 8
  | .fadd => 16
  | .fmin => 17
  | .fmax => 18

/-- The `RedOp` a field holds; a code the table does not list is none. -/
def RedOp.ofCode : Nat → Option RedOp
  | 0 => some .add
  | 2 => some .mins
  | 3 => some .minn
  | 4 => some .maxs
  | 5 => some .maxn
  | 6 => some .and
  | 7 => some .or
  | 8 => some .xor
  | 16 => some .fadd
  | 17 => some .fmin
  | 18 => some .fmax
  | _ => none

/-- The special functions of VSFN (Table 4.7). -/
inductive SfnOp where
  | rcp | rsqrt | sqrt | exp2 | log2 | sinpi | cospi | tanh
deriving DecidableEq, Repr

/-- The code of `SfnOp` in its field. -/
def SfnOp.code : SfnOp → Nat
  | .rcp => 0
  | .rsqrt => 1
  | .sqrt => 2
  | .exp2 => 3
  | .log2 => 4
  | .sinpi => 5
  | .cospi => 6
  | .tanh => 7

/-- The `SfnOp` a field holds; a code the table does not list is none. -/
def SfnOp.ofCode : Nat → Option SfnOp
  | 0 => some .rcp
  | 1 => some .rsqrt
  | 2 => some .sqrt
  | 3 => some .exp2
  | 4 => some .log2
  | 5 => some .sinpi
  | 6 => some .cospi
  | 7 => some .tanh
  | _ => none

/-- The element types of VSFN: F 0 and 3 (Table 4.7). -/
inductive SfnType where
  | f32 | f16x2
deriving DecidableEq, Repr

/-- The code of `SfnType` in its field. -/
def SfnType.code : SfnType → Nat
  | .f32 => 0
  | .f16x2 => 3

/-- The `SfnType` a field holds; a code the table does not list is none. -/
def SfnType.ofCode : Nat → Option SfnType
  | 0 => some .f32
  | 3 => some .f16x2
  | _ => none

/-- The formats of VCVT (Table 4.7). -/
inductive CvtFmt where
  | f32 | f64 | bf16 | f16 | e4m3 | e5m2 | e2m1 | i32
deriving DecidableEq, Repr

/-- The code of `CvtFmt` in its field. -/
def CvtFmt.code : CvtFmt → Nat
  | .f32 => 0
  | .f64 => 1
  | .bf16 => 2
  | .f16 => 3
  | .e4m3 => 4
  | .e5m2 => 5
  | .e2m1 => 6
  | .i32 => 7

/-- The `CvtFmt` a field holds; a code the table does not list is none. -/
def CvtFmt.ofCode : Nat → Option CvtFmt
  | 0 => some .f32
  | 1 => some .f64
  | 2 => some .bf16
  | 3 => some .f16
  | 4 => some .e4m3
  | 5 => some .e5m2
  | 6 => some .e2m1
  | 7 => some .i32
  | _ => none

/-- The roundings of VCVT (Table 4.7). -/
inductive CvtRound where
  | rne | rtz | rdn | rup | rnes | rtzs
deriving DecidableEq, Repr

/-- The code of `CvtRound` in its field. -/
def CvtRound.code : CvtRound → Nat
  | .rne => 0
  | .rtz => 1
  | .rdn => 2
  | .rup => 3
  | .rnes => 4
  | .rtzs => 5

/-- The `CvtRound` a field holds; a code the table does not list is none. -/
def CvtRound.ofCode : Nat → Option CvtRound
  | 0 => some .rne
  | 1 => some .rtz
  | 2 => some .rdn
  | 3 => some .rup
  | 4 => some .rnes
  | 5 => some .rtzs
  | _ => none

/-- The patterns of CMPRS (Table 4.4). -/
inductive SparsePat where
  | n2m4 | n4m8 | n6m24 | n8m24 | n12m24
deriving DecidableEq, Repr

/-- The code of `SparsePat` in its field. -/
def SparsePat.code : SparsePat → Nat
  | .n2m4 => 0
  | .n4m8 => 1
  | .n6m24 => 2
  | .n8m24 => 3
  | .n12m24 => 4

/-- The `SparsePat` a field holds; a code the table does not list is none. -/
def SparsePat.ofCode : Nat → Option SparsePat
  | 0 => some .n2m4
  | 1 => some .n4m8
  | 2 => some .n6m24
  | 3 => some .n8m24
  | 4 => some .n12m24
  | _ => none

/-- The two-source operations of MLOG (Table 4.8). -/
inductive MaskOp where
  | and | or | xor | andn
deriving DecidableEq, Repr

/-- The code of `MaskOp` in its field. -/
def MaskOp.code : MaskOp → Nat
  | .and => 0
  | .or => 1
  | .xor => 2
  | .andn => 3

/-- The `MaskOp` a field holds; a code the table does not list is none. -/
def MaskOp.ofCode : Nat → Option MaskOp
  | 0 => some .and
  | 1 => some .or
  | 2 => some .xor
  | 3 => some .andn
  | _ => none

/-- The functions of MCNT, F 5 to 7 (Table 4.8). -/
inductive MaskCount where
  | popc | first | last
deriving DecidableEq, Repr

/-- The code of `MaskCount` in its field. -/
def MaskCount.code : MaskCount → Nat
  | .popc => 5
  | .first => 6
  | .last => 7

/-- The `MaskCount` a field holds; a code the table does not list is none. -/
def MaskCount.ofCode : Nat → Option MaskCount
  | 5 => some .popc
  | 6 => some .first
  | 7 => some .last
  | _ => none

/-- Access widths W of the memory instructions (Table 4.10). -/
inductive Width where
  | b8 | b16 | b32 | b64 | b128
deriving DecidableEq, Repr

/-- The code of `Width` in its field. -/
def Width.code : Width → Nat
  | .b8 => 0
  | .b16 => 1
  | .b32 => 2
  | .b64 => 3
  | .b128 => 4

/-- The `Width` a field holds; a code the table does not list is none. -/
def Width.ofCode : Nat → Option Width
  | 0 => some .b8
  | 1 => some .b16
  | 2 => some .b32
  | 3 => some .b64
  | 4 => some .b128
  | _ => none

/-- Scopes SC 0 to 5 (Table 2.8). -/
inductive Scope where
  | core | quad | die | pkg | pod | sys
deriving DecidableEq, Repr

/-- The code of `Scope` in its field. -/
def Scope.code : Scope → Nat
  | .core => 0
  | .quad => 1
  | .die => 2
  | .pkg => 3
  | .pod => 4
  | .sys => 5

/-- The `Scope` a field holds; a code the table does not list is none. -/
def Scope.ofCode : Nat → Option Scope
  | 0 => some .core
  | 1 => some .quad
  | 2 => some .die
  | 3 => some .pkg
  | 4 => some .pod
  | 5 => some .sys
  | _ => none

/-- The operations of the atomics (Table 4.10). -/
inductive AtomOp where
  | add | and | or | xor | mins | minn | maxs | maxn | xchg | cas | fadd
deriving DecidableEq, Repr

/-- The code of `AtomOp` in its field. -/
def AtomOp.code : AtomOp → Nat
  | .add => 0
  | .and => 1
  | .or => 2
  | .xor => 3
  | .mins => 4
  | .minn => 5
  | .maxs => 6
  | .maxn => 7
  | .xchg => 8
  | .cas => 9
  | .fadd => 10

/-- The `AtomOp` a field holds; a code the table does not list is none. -/
def AtomOp.ofCode : Nat → Option AtomOp
  | 0 => some .add
  | 1 => some .and
  | 2 => some .or
  | 3 => some .xor
  | 4 => some .mins
  | 5 => some .minn
  | 6 => some .maxs
  | 7 => some .maxn
  | 8 => some .xchg
  | 9 => some .cas
  | 10 => some .fadd
  | _ => none

/-- The kinds of FENCE (Table 4.11). -/
inductive FenceKind where
  | mem | eng | all
deriving DecidableEq, Repr

/-- The code of `FenceKind` in its field. -/
def FenceKind.code : FenceKind → Nat
  | .mem => 0
  | .eng => 1
  | .all => 2

/-- The `FenceKind` a field holds; a code the table does not list is none. -/
def FenceKind.ofCode : Nat → Option FenceKind
  | 0 => some .mem
  | 1 => some .eng
  | 2 => some .all
  | _ => none

/-- The selectors of CINFO (Table 7.3). -/
inductive CapField where
  | id | base | len | rights | flags | gen
deriving DecidableEq, Repr

/-- The code of `CapField` in its field. -/
def CapField.code : CapField → Nat
  | .id => 0
  | .base => 1
  | .len => 2
  | .rights => 3
  | .flags => 4
  | .gen => 5

/-- The `CapField` a field holds; a code the table does not list is none. -/
def CapField.ofCode : Nat → Option CapField
  | 0 => some .id
  | 1 => some .base
  | 2 => some .len
  | 3 => some .rights
  | 4 => some .flags
  | 5 => some .gen
  | _ => none

/-- Element formats, codes 0 to 10 (Table 5.1). -/
inductive ElemFmt where
  | fp64 | fp32 | bf16 | fp16 | e4m3 | e5m2 | e2m1 | int8 | nat8 | int4 | cb2
deriving DecidableEq, Repr

/-- The code of `ElemFmt` in its field. -/
def ElemFmt.code : ElemFmt → Nat
  | .fp64 => 0
  | .fp32 => 1
  | .bf16 => 2
  | .fp16 => 3
  | .e4m3 => 4
  | .e5m2 => 5
  | .e2m1 => 6
  | .int8 => 7
  | .nat8 => 8
  | .int4 => 9
  | .cb2 => 10

/-- The `ElemFmt` a field holds; a code the table does not list is none. -/
def ElemFmt.ofCode : Nat → Option ElemFmt
  | 0 => some .fp64
  | 1 => some .fp32
  | 2 => some .bf16
  | 3 => some .fp16
  | 4 => some .e4m3
  | 5 => some .e5m2
  | 6 => some .e2m1
  | 7 => some .int8
  | 8 => some .nat8
  | 9 => some .int4
  | 10 => some .cb2
  | _ => none

/-- The modes of POST (Table 9.4). -/
inductive PostMode where
  | all | part | trap
deriving DecidableEq, Repr

/-- The code of `PostMode` in its field. -/
def PostMode.code : PostMode → Nat
  | .all => 0
  | .part => 1
  | .trap => 2

/-- The `PostMode` a field holds; a code the table does not list is none. -/
def PostMode.ofCode : Nat → Option PostMode
  | 0 => some .all
  | 1 => some .part
  | 2 => some .trap
  | _ => none

/-- The operations of AUTCTL (Table 10.5). -/
inductive AutCtlOp where
  | en | dis | unload | quota
deriving DecidableEq, Repr

/-- The code of `AutCtlOp` in its field. -/
def AutCtlOp.code : AutCtlOp → Nat
  | .en => 0
  | .dis => 1
  | .unload => 2
  | .quota => 3

/-- The `AutCtlOp` a field holds; a code the table does not list is none. -/
def AutCtlOp.ofCode : Nat → Option AutCtlOp
  | 0 => some .en
  | 1 => some .dis
  | 2 => some .unload
  | 3 => some .quota
  | _ => none

/-- The values AUTQ returns (Table 10.5). -/
inductive AutQuery where
  | state | beads | drops | exp
deriving DecidableEq, Repr

/-- The code of `AutQuery` in its field. -/
def AutQuery.code : AutQuery → Nat
  | .state => 0
  | .beads => 1
  | .drops => 2
  | .exp => 3

/-- The `AutQuery` a field holds; a code the table does not list is none. -/
def AutQuery.ofCode : Nat → Option AutQuery
  | 0 => some .state
  | 1 => some .beads
  | 2 => some .drops
  | 3 => some .exp
  | _ => none

/-- Lane-tile codes 1 to 5 (Table 2.7). -/
inductive TileCode where
  | l2 | l4 | l8 | l16 | l32
deriving DecidableEq, Repr

/-- The code of `TileCode` in its field. -/
def TileCode.code : TileCode → Nat
  | .l2 => 1
  | .l4 => 2
  | .l8 => 3
  | .l16 => 4
  | .l32 => 5

/-- The `TileCode` a field holds; a code the table does not list is none. -/
def TileCode.ofCode : Nat → Option TileCode
  | 1 => some .l2
  | 2 => some .l4
  | 3 => some .l8
  | 4 => some .l16
  | 5 => some .l32
  | _ => none

/-- Widths of LDP, W 0 to 2 (Table 4.10). -/
inductive ParamWidth where
  | b32 | b64 | b128
deriving DecidableEq, Repr

/-- The code of a `ParamWidth`. -/
def ParamWidth.code : ParamWidth → Nat
  | .b32 => 0
  | .b64 => 1
  | .b128 => 2

/-- The width a field of LDP holds; 3 is none. -/
def ParamWidth.ofCode : Nat → Option ParamWidth
  | 0 => some .b32
  | 1 => some .b64
  | 2 => some .b128
  | _ => none

/-- Bytes of an LDP (R367). -/
def ParamWidth.bytes : ParamWidth → Nat
  | .b32 => 4
  | .b64 => 8
  | .b128 => 16

/-- Bytes of an access, 2 to the power W (R363). -/
def Width.bytes (w : Width) : Nat := 2 ^ w.code

/-- The system registers (Table 17.11). -/
inductive SysReg where
  | wstat | wid | tid | ltile | fpmode | fpflags | repc | splits | poolw | role | pdead | prq | tvec | tcause | trec | tsib | tpar | tepc | taddr | dumpobj | traceobj
  | cntsel (n : Fin 8)
deriving DecidableEq, Repr

/-- The number of a system register (Table 17.11). -/
def SysReg.code : SysReg → Nat
  | .wstat => 0x000
  | .wid => 0x001
  | .tid => 0x002
  | .ltile => 0x003
  | .fpmode => 0x004
  | .fpflags => 0x005
  | .repc => 0x006
  | .splits => 0x007
  | .poolw => 0x008
  | .role => 0x009
  | .pdead => 0x010
  | .prq => 0x011
  | .tvec => 0x020
  | .tcause => 0x021
  | .trec => 0x022
  | .tsib => 0x023
  | .tpar => 0x024
  | .tepc => 0x025
  | .taddr => 0x026
  | .dumpobj => 0x030
  | .traceobj => 0x031
  | .cntsel n => 0x040 + n.val

/-- The system register a NUM field names; a number that Table 17.11 does not assign is none. -/
def SysReg.ofCode : Nat → Option SysReg
  | 0x000 => some .wstat
  | 0x001 => some .wid
  | 0x002 => some .tid
  | 0x003 => some .ltile
  | 0x004 => some .fpmode
  | 0x005 => some .fpflags
  | 0x006 => some .repc
  | 0x007 => some .splits
  | 0x008 => some .poolw
  | 0x009 => some .role
  | 0x010 => some .pdead
  | 0x011 => some .prq
  | 0x020 => some .tvec
  | 0x021 => some .tcause
  | 0x022 => some .trec
  | 0x023 => some .tsib
  | 0x024 => some .tpar
  | 0x025 => some .tepc
  | 0x026 => some .taddr
  | 0x030 => some .dumpobj
  | 0x031 => some .traceobj
  | 0x040 => some (.cntsel 0)
  | 0x041 => some (.cntsel 1)
  | 0x042 => some (.cntsel 2)
  | 0x043 => some (.cntsel 3)
  | 0x044 => some (.cntsel 4)
  | 0x045 => some (.cntsel 5)
  | 0x046 => some (.cntsel 6)
  | 0x047 => some (.cntsel 7)
  | _ => none

/-- Where a COLL contribution comes from (R342): an admitted command of a core, by its place in the core's list, or a
participant on another module of the pod. -/
inductive Contrib where
  | own (die : Fin 4) (core index : Nat)
  | pod (ctx : Nat) (die : Fin 4) (group : BitVec 32) (q : Bool) (np op len rank : Nat) (data : List (BitVec 8))
deriving DecidableEq, Repr

/-- An access of a party that names physical addresses, or of another module. -/
inductive BusOp where
  | load (n : Nat)
  | store (bytes : List (BitVec 8))
  | atomic (op : AtomOp) (wide : Bool) (operand compare : Nat)
deriving DecidableEq, Repr

/-- A configuration image in a flash slot (R25): its version, whether its signature checks against the boot key, whether
it fits the hardware's working cores and repairs, whether memory trains with it, and per die its disabled physical cores
(13 row + column), its quads as two pairs of physical cores, and its relocation table from reference coordinates to
physical ones (16 row + column, R17, R61). -/
structure FlashImage where
  version : Nat
  signed : Bool
  fits : Bool
  trains : Bool
  disabled : Vector (List Nat) 4
  quads : Vector (List ((Nat × Nat) × (Nat × Nat))) 4
  reloc : Vector (List (Nat × Nat)) 4
deriving DecidableEq, Repr

/-- A register that a debugger may change in a stopped team (R314). -/
inductive DebugReg where
  | v (n : Fin 64)
  | s (n : Fin 64)
  | m (n : Fin 8)
  | k (n : Fin 16)
  | a (n : Fin 16)
deriving DecidableEq, Repr

/-- A change that a debugger has made to a stopped team: the wave, the register and its bytes. -/
structure DebugEdit where
  wave : Nat
  reg : DebugReg
  value : List (BitVec 8)
deriving DecidableEq, Repr

/-- What the firmware gives a context it creates (R42, R130, R155, R212, R264, R284, R293, R310, R312): its object table, the
constants of p7, the service capability, the reset values of TVEC and PDEAD, ALLOWT, whether it is debuggable, TRACE and DUMP; and
its fault stream: 2^logn slots, home die, rights, where its leaves stand and its first physical page. What is not named takes its
default. -/
structure CtxSpec where
  tableBase : Nat
  tableLen : Nat
  consts : List (BitVec 8)
  service : BitVec 128
  tvecObj : BitVec 24
  tvecEntry : BitVec 34
  pdead : Option (BitVec 32)
  allowT : Option Nat
  debuggable : Bool
  trace : BitVec 64
  dump : BitVec 64
  logn : Option Nat
  home : Option (Fin 4)
  rights : Option Nat
  leafPa : Nat
  page : Nat
deriving DecidableEq, Repr

/-- The kind of a relocated field (R61). -/
inductive RelocKind where
  | imm10 | imm12 | imm16 | half | word | dword
deriving DecidableEq, Repr

/-- A kernel of a code object (R71, R73, R240): its entry in the text, its `.team` and `.pool`, and its safe-point table. -/
structure KernelDecl where
  entry : Nat
  lanes : Nat
  paired : Bool
  vregs : Nat
  scru : Nat
  accu : Nat
  safe : List (BitVec 8)
deriving DecidableEq, Repr

/-- A pre-filled event (`.event`); its producer is the loader, which chooses SRC (R180). -/
structure EventDecl where
  kind : BitVec 8
  src : BitVec 16
  key : BitVec 32
  stamp : BitVec 48
  payload : List (BitVec 32)
deriving DecidableEq, Repr

/-- A stream over an object (`.stream`): 2^logn slots, its kind, depth and flag, and its pre-filled events. -/
structure StreamDecl where
  logn : Nat
  kind : Nat
  depth : Nat
  stamped : Bool
  events : List EventDecl
deriving DecidableEq, Repr

/-- A declared object (`.object`, R72): its flags, where its leaves stand, its first physical page, what `.data` fills it with
(offset, bytes and relocated items), and its stream. -/
structure ObjDecl where
  size : Nat
  ro : Bool
  alias_ : Bool
  tent : Bool
  pub : Bool
  lp6 : Bool
  home : Fin 4
  leafPa : Nat
  page : Nat
  data : List (Nat × List (BitVec 8) × List (Nat × RelocKind))
  stream : Option StreamDecl
deriving DecidableEq, Repr

/-- An automaton of a code object: its image, and by number of the declared object its streams, its static capabilities (N − 1 of
kN with the object) and its completion stream. -/
structure AutDecl where
  image : List (BitVec 8)
  streams : List Nat
  caps : List (Nat × Nat)
  done : Option Nat
deriving DecidableEq, Repr

/-- A code object as the loader is given it (R61, R426): its text, the relocated fields, the pairs of cores it names, its kernels,
objects and automata, and where the leaves and pages of its own object stand. -/
structure CodeImage where
  text : List (BitVec 8)
  relocs : List (Nat × RelocKind)
  pairs : List (Nat × Nat)
  kernels : List KernelDecl
  objects : List ObjDecl
  automata : List AutDecl
  leafPa : Nat
  page : Nat
deriving DecidableEq, Repr

/-- The instructions and steps of the G9: one constructor for each row of the opcode table. -/
inductive Instr where
  /-- VADD (R404). -/
  | vadd (t : IntType) (m : MReg) (b : VReg) (a : VReg) (d : VReg) (mk : Bool)
  /-- VSUB (R404). -/
  | vsub (t : IntType) (m : MReg) (b : VReg) (a : VReg) (d : VReg) (mk : Bool)
  /-- VMUL (R404). -/
  | vmul (t : IntType) (m : MReg) (b : VReg) (a : VReg) (d : VReg) (mk : Bool)
  /-- VMIN (R404). -/
  | vmin (t : IntType) (m : MReg) (b : VReg) (a : VReg) (d : VReg) (mk : Bool)
  /-- VMAX (R404). -/
  | vmax (t : IntType) (m : MReg) (b : VReg) (a : VReg) (d : VReg) (mk : Bool)
  /-- VSHL (R404). -/
  | vshl (t : IntType) (m : MReg) (b : VReg) (a : VReg) (d : VReg) (mk : Bool)
  /-- VSHR (R404). -/
  | vshr (t : IntType) (m : MReg) (b : VReg) (a : VReg) (d : VReg) (mk : Bool)
  /-- VAND (R404). -/
  | vand (m : MReg) (b : VReg) (a : VReg) (d : VReg) (mk : Bool)
  /-- VOR (R404). -/
  | vor (m : MReg) (b : VReg) (a : VReg) (d : VReg) (mk : Bool)
  /-- VXOR (R404). -/
  | vxor (m : MReg) (b : VReg) (a : VReg) (d : VReg) (mk : Bool)
  /-- VCMP (R408). -/
  | vcmp (t : IntType) (m : MReg) (b : VReg) (a : VReg) (c : CmpCond) (md : MReg) (mk : Bool)
  /-- VSEL (R415). -/
  | vsel (m : MReg) (b : VReg) (a : VReg) (d : VReg) (mk : Bool)
  /-- VMAD (R404). -/
  | vmad (c : VReg) (b : VReg) (a : VReg) (d : VReg) (mk : Bool)
  /-- VADD_IMM (R404). -/
  | vaddImm (imm : BitVec 12) (a : VReg) (d : VReg) (mk : Bool)
  /-- VMOV (R406). -/
  | vmov (m : MReg) (a : VReg) (d : VReg) (mk : Bool)
  /-- VMOV_BCAST (R406). -/
  | vmovBcast (m : MReg) (a : SReg) (d : VReg) (mk : Bool)
  /-- VMOV_MASK (R406). -/
  | vmovMask (m : MReg) (a : MReg) (d : VReg) (mk : Bool)
  /-- VIDX (R406). -/
  | vidx (m : MReg) (fn : LaneIndex) (d : VReg) (mk : Bool)
  /-- VBIT (R406). -/
  | vbit (t : IntType) (m : MReg) (fn : VBitFn) (a : VReg) (d : VReg) (mk : Bool)
  /-- VSHFL (R417). -/
  | vshfl (op : ShflOp) (m : MReg) (b : VReg) (a : VReg) (d : VReg) (mk : Bool)
  /-- VVOTE (R413). -/
  | vvote (m : MReg) (op : VoteOp) (a : VReg) (d : SReg) (mk : Bool)
  /-- VRED (R414). -/
  | vred (m : MReg) (op : RedOp) (a : VReg) (d : VReg) (mk : Bool)
  /-- VSCAN (R414). -/
  | vscan (excl : Bool) (m : MReg) (op : RedOp) (a : VReg) (d : VReg) (mk : Bool)
  /-- VFADD (R411). -/
  | vfadd (t : FltType) (m : MReg) (b : VReg) (a : VReg) (d : VReg) (mk : Bool)
  /-- VFSUB (R411). -/
  | vfsub (t : FltType) (m : MReg) (b : VReg) (a : VReg) (d : VReg) (mk : Bool)
  /-- VFMUL (R411). -/
  | vfmul (t : FltType) (m : MReg) (b : VReg) (a : VReg) (d : VReg) (mk : Bool)
  /-- VFMIN (R411). -/
  | vfmin (t : FltType) (m : MReg) (b : VReg) (a : VReg) (d : VReg) (mk : Bool)
  /-- VFMAX (R411). -/
  | vfmax (t : FltType) (m : MReg) (b : VReg) (a : VReg) (d : VReg) (mk : Bool)
  /-- VFCMP (R408). -/
  | vfcmp (t : FltType) (m : MReg) (b : VReg) (a : VReg) (c : CmpCond) (md : MReg) (mk : Bool)
  /-- VFMA (R411). -/
  | vfma (c : VReg) (b : VReg) (a : VReg) (d : VReg) (mk : Bool)
  /-- VFMA_F64 (R411). -/
  | vfmaF64 (c : VReg) (b : VReg) (a : VReg) (d : VReg) (mk : Bool)
  /-- VSFN (R416). -/
  | vsfn (t : SfnType) (m : MReg) (fn : SfnOp) (a : VReg) (d : VReg) (mk : Bool)
  /-- VCVT (R108). -/
  | vcvt (rnd : CvtRound) (m : MReg) (dst : CvtFmt) (src : CvtFmt) (a : VReg) (d : VReg) (mk : Bool)
  /-- SMXU (R243). -/
  | smxu (m : MReg) (b : VReg) (a : VReg) (d : VReg) (mk : Bool)
  /-- SMXF (R243). -/
  | smxf (m : MReg) (a : VReg) (d : VReg) (mk : Bool)
  /-- CMPRS (R239). -/
  | cmprs (pat : SparsePat) (b : SReg) (a : SReg) (d : VReg) (mk : Bool)
  /-- SADD (R391). -/
  | sadd (b : SReg) (a : SReg) (d : SReg) (mk : Bool)
  /-- SSUB (R391). -/
  | ssub (b : SReg) (a : SReg) (d : SReg) (mk : Bool)
  /-- SMUL (R391). -/
  | smul (b : SReg) (a : SReg) (d : SReg) (mk : Bool)
  /-- SMULH (R391). -/
  | smulh (nat : Bool) (b : SReg) (a : SReg) (d : SReg) (mk : Bool)
  /-- SDIV (R391). -/
  | sdiv (nat : Bool) (b : SReg) (a : SReg) (d : SReg) (mk : Bool)
  /-- SREM (R391). -/
  | srem (nat : Bool) (b : SReg) (a : SReg) (d : SReg) (mk : Bool)
  /-- SAND (R391). -/
  | sand (b : SReg) (a : SReg) (d : SReg) (mk : Bool)
  /-- SOR (R391). -/
  | sor (b : SReg) (a : SReg) (d : SReg) (mk : Bool)
  /-- SXOR (R391). -/
  | sxor (b : SReg) (a : SReg) (d : SReg) (mk : Bool)
  /-- SSHL (R391). -/
  | sshl (b : SReg) (a : SReg) (d : SReg) (mk : Bool)
  /-- SSHR (R391). -/
  | sshr (arith : Bool) (b : SReg) (a : SReg) (d : SReg) (mk : Bool)
  /-- SMIN (R391). -/
  | smin (nat : Bool) (b : SReg) (a : SReg) (d : SReg) (mk : Bool)
  /-- SMAX (R391). -/
  | smax (nat : Bool) (b : SReg) (a : SReg) (d : SReg) (mk : Bool)
  /-- SBIT (R391). -/
  | sbit (fn : SBitFn) (a : SReg) (d : SReg) (mk : Bool)
  /-- SMOV (R391). -/
  | smov (a : SReg) (d : SReg) (mk : Bool)
  /-- SCMP (R391). -/
  | scmp (nat : Bool) (b : SReg) (a : SReg) (mk : Bool)
  /-- SSEL (R391). -/
  | ssel (c : BrCond) (b : SReg) (a : SReg) (d : SReg) (mk : Bool)
  /-- SADD_IMM (R391). -/
  | saddImm (imm : BitVec 10) (a : SReg) (d : SReg) (mk : Bool)
  /-- SAND_IMM (R391). -/
  | sandImm (imm : BitVec 10) (a : SReg) (d : SReg) (mk : Bool)
  /-- SOR_IMM (R391). -/
  | sorImm (imm : BitVec 10) (a : SReg) (d : SReg) (mk : Bool)
  /-- SXOR_IMM (R391). -/
  | sxorImm (imm : BitVec 10) (a : SReg) (d : SReg) (mk : Bool)
  /-- SCMP_IMM (R391). -/
  | scmpImm (imm : BitVec 12) (a : SReg) (nat : Bool) (mk : Bool)
  /-- SLI (R391). -/
  | sli (imm : BitVec 16) (h : Fin 4) (d : SReg) (mk : Bool)
  /-- SMOV_V (R394). -/
  | smovV (lane : Fin 32) (a : VReg) (d : SReg) (mk : Bool)
  /-- SMOV_M (R394). -/
  | smovM (a : MReg) (d : SReg) (mk : Bool)
  /-- SMOV_CC_READ (R394). -/
  | smovCcRead (d : SReg) (mk : Bool)
  /-- SMOV_CC_WRITE (R394). -/
  | smovCcWrite (a : SReg) (mk : Bool)
  /-- MLOG (R371). -/
  | mlog (op : MaskOp) (b : MReg) (a : MReg) (d : MReg) (mk : Bool)
  /-- MLOG_NOT (R371). -/
  | mlogNot (a : MReg) (d : MReg) (mk : Bool)
  /-- MCNT (R371). -/
  | mcnt (fn : MaskCount) (a : MReg) (d : SReg) (mk : Bool)
  /-- MSET (R379). -/
  | mset (a : SReg) (md : MReg) (mk : Bool)
  /-- MSET_ALL (R379). -/
  | msetAll (md : MReg) (mk : Bool)
  /-- MSET_NONE (R379). -/
  | msetNone (md : MReg) (mk : Bool)
  /-- MSET_FIRST (R379). -/
  | msetFirst (md : MReg) (mk : Bool)
  /-- BR (R335). -/
  | br (off : BitVec 20) (c : BrCond) (mk : Bool)
  /-- BMZ (R336). -/
  | bmz (off : BitVec 20) (z : Bool) (m : MReg) (mk : Bool)
  /-- CALL (R337). -/
  | call (off : BitVec 24) (mk : Bool)
  /-- FORK (R30). -/
  | fork (off : BitVec 20) (m : MReg) (mk : Bool)
  /-- NOP (R353). -/
  | nop (mk : Bool)
  /-- JOIN (R31). -/
  | join (mk : Bool)
  /-- EXIT (R46). -/
  | exit (mk : Bool)
  /-- KILLPT (R270). -/
  | killpt (mk : Bool)
  /-- RET (R353). -/
  | ret (t : SReg) (mk : Bool)
  /-- YIELD (R295). -/
  | yieldWave (u : Bool) (lm : SReg) (mk : Bool)
  /-- REP (R90). -/
  | rep (stride : Fin 4) (stepB : Bool) (stepA : Bool) (stepD : Bool) (count : Fin 64) (mk : Bool)
  /-- LD (R363). -/
  | ld (sc : Scope) (o : Bool) (w : Width) (xs : Bool) (x : VReg) (k : KReg) (d : VReg) (mk : Bool)
  /-- LD_SCALAR (R363). -/
  | ldScalar (sc : Scope) (o : Bool) (w : Width) (xs : Bool) (x : SReg) (k : KReg) (d : SReg) (mk : Bool)
  /-- ST (R397). -/
  | st (sc : Scope) (o : Bool) (w : Width) (xs : Bool) (x : VReg) (k : KReg) (d : VReg) (mk : Bool)
  /-- ST_SCALAR (R397). -/
  | stScalar (sc : Scope) (o : Bool) (w : Width) (xs : Bool) (x : SReg) (k : KReg) (d : SReg) (mk : Bool)
  /-- LDS (R369). -/
  | lds (off : Fin 128) (w : Width) (xs : Bool) (x : VReg) (d : VReg) (mk : Bool)
  /-- STS (R369). -/
  | sts (off : Fin 128) (w : Width) (xs : Bool) (x : VReg) (d : VReg) (mk : Bool)
  /-- LDP (R367). -/
  | ldp (off : BitVec 12) (w : ParamWidth) (scalar : Bool) (p : Fin 8) (d : Fin 64) (mk : Bool)
  /-- ATOM (R323). -/
  | atom (sc : Scope) (wide : Bool) (op : AtomOp) (x : VReg) (k : KReg) (d : VReg) (mk : Bool)
  /-- ATOM_AR (R323). -/
  | atomAr (sc : Scope) (wide : Bool) (op : AtomOp) (x : VReg) (k : KReg) (d : VReg) (mk : Bool)
  /-- ATOMS (R326). -/
  | atoms (wide : Bool) (op : AtomOp) (x : VReg) (d : VReg) (mk : Bool)
  /-- FENCE (R171). -/
  | fence (sc : Scope) (kind : FenceKind) (mk : Bool)
  /-- WAITA (R419). -/
  | waita (sc : Scope) (eq : Bool) (b : SReg) (a : SReg) (k : KReg) (mk : Bool)
  /-- CMAKE (R149). -/
  | cmake (b : SReg) (a : SReg) (kd : KReg) (mk : Bool)
  /-- CNARROW (R149). -/
  | cnarrow (b : SReg) (a : SReg) (ks : KReg) (kd : KReg) (mk : Bool)
  /-- CLOAD (R151). -/
  | cload (a : SReg) (ks : KReg) (kd : KReg) (mk : Bool)
  /-- CSTORE (R149). -/
  | cstore (a : SReg) (ks : KReg) (kd : KReg) (mk : Bool)
  /-- CINFO (R149). -/
  | cinfo (sel : CapField) (a : SReg) (ks : KReg) (mk : Bool)
  /-- CPY (R347). -/
  | cpy (t : SReg) (p : SReg) (ks : KReg) (kd : KReg) (mk : Bool)
  /-- GATH (R360). -/
  | gath (t : SReg) (p : SReg) (ks : KReg) (mk : Bool)
  /-- BLD (R237). -/
  | bld (t : SReg) (p : SReg) (ks : KReg) (mk : Bool)
  /-- COLL (R343). -/
  | coll (t : SReg) (p : SReg) (ks : KReg) (kd : KReg) (mk : Bool)
  /-- EWAIT (R350). -/
  | ewait (t : SReg) (mk : Bool)
  /-- MMA (R229). -/
  | mma (ac : Bool) (p : Bool) (fw : VReg) (sb : SReg) (rg : Fin 8) (t : AReg) (mk : Bool)
  /-- MMAS (R231). -/
  | mmas (ac : Bool) (p : Bool) (fw : VReg) (sb : SReg) (rg : Fin 8) (t : AReg) (mk : Bool)
  /-- MMAC (R232). -/
  | mmac (ac : Bool) (p : Bool) (fw : VReg) (sb : SReg) (rg : Fin 8) (t : AReg) (mk : Bool)
  /-- MMAX (R244). -/
  | mmax (ac : Bool) (p : Bool) (fw : VReg) (sb : SReg) (rg : Fin 8) (t : AReg) (mk : Bool)
  /-- ACLR (R320). -/
  | aclr (t : AReg) (mk : Bool)
  /-- ALD (R320). -/
  | ald (fmt : ElemFmt) (v : VReg) (rg : Fin 8) (t : AReg) (mk : Bool)
  /-- AST (R320). -/
  | ast (fmt : ElemFmt) (v : VReg) (rg : Fin 8) (t : AReg) (mk : Bool)
  /-- STGA (R241). -/
  | stga (ph : Bool) (sl : Fin 64) (rg : Fin 8) (mk : Bool)
  /-- STGW (R241). -/
  | stgw (ph : Bool) (sl : Fin 64) (rg : Fin 8) (mk : Bool)
  /-- POST (R187). -/
  | post (mode : PostMode) (y : SReg) (v : VReg) (k : KReg) (mk : Bool)
  /-- RESV (R186). -/
  | resv (y : SReg) (v : SReg) (k : KReg) (mk : Bool)
  /-- PUBL (R188). -/
  | publ (v : VReg) (k : KReg) (mk : Bool)
  /-- AUTLD (R215). -/
  | autld (b : SReg) (a : SReg) (k : KReg) (mk : Bool)
  /-- AUTCTL (R216). -/
  | autctl (op : AutCtlOp) (b : SReg) (a : SReg) (mk : Bool)
  /-- AUTQ (R217). -/
  | autq (q : AutQuery) (b : SReg) (a : SReg) (mk : Bool)
  /-- QOPEN (R264). -/
  | qopen (a : SReg) (k : KReg) (mk : Bool)
  /-- QARR (R267). -/
  | qarr (b : SReg) (a : SReg) (mk : Bool)
  /-- QSTAT (R275). -/
  | qstat (b : SReg) (a : SReg) (mk : Bool)
  /-- QSCALE (R274). -/
  | qscale (b : SReg) (a : SReg) (mk : Bool)
  /-- BAR (R330). -/
  | bar (cnt : SReg) (sc : Scope) (id : Fin 32) (mk : Bool)
  /-- BARA (R330). -/
  | bara (cnt : SReg) (sc : Scope) (id : Fin 32) (mk : Bool)
  /-- BARW (R330). -/
  | barw (sc : Scope) (id : Fin 32) (mk : Bool)
  /-- PART (R381). -/
  | part (t : TileCode) (mk : Bool)
  /-- TRAP (R287). -/
  | trap (code : Fin 32) (mk : Bool)
  /-- RETT (R286). -/
  | rett (mk : Bool)
  /-- MFSR (R374). -/
  | mfsr (n : SysReg) (d : SReg) (mk : Bool)
  /-- MTSR (R374). -/
  | mtsr (n : SysReg) (d : SReg) (mk : Bool)
  /-- OINV (R158). -/
  | oinv (d : SReg) (mk : Bool)
  /-- BKPT (R332). -/
  | bkpt (code : Fin 16) (mk : Bool)
  /-- CNTRD (R307). -/
  | cntrd (n : Fin 8) (d : SReg) (mk : Bool)
  /-- VADD_H (R78). -/
  | vaddH (b : Fin 32) (d : Fin 32) (mk : Bool)
  /-- VSUB_H (R78). -/
  | vsubH (b : Fin 32) (d : Fin 32) (mk : Bool)
  /-- VMUL_H (R78). -/
  | vmulH (b : Fin 32) (d : Fin 32) (mk : Bool)
  /-- VAND_H (R78). -/
  | vandH (b : Fin 32) (d : Fin 32) (mk : Bool)
  /-- VOR_H (R78). -/
  | vorH (b : Fin 32) (d : Fin 32) (mk : Bool)
  /-- VXOR_H (R78). -/
  | vxorH (b : Fin 32) (d : Fin 32) (mk : Bool)
  /-- VSHL_H (R78). -/
  | vshlH (b : Fin 32) (d : Fin 32) (mk : Bool)
  /-- VSHR_H (R78). -/
  | vshrH (b : Fin 32) (d : Fin 32) (mk : Bool)
  /-- VMIN_H (R78). -/
  | vminH (b : Fin 32) (d : Fin 32) (mk : Bool)
  /-- VMAX_H (R78). -/
  | vmaxH (b : Fin 32) (d : Fin 32) (mk : Bool)
  /-- VFADD_H (R78). -/
  | vfaddH (b : Fin 32) (d : Fin 32) (mk : Bool)
  /-- VFSUB_H (R78). -/
  | vfsubH (b : Fin 32) (d : Fin 32) (mk : Bool)
  /-- VFMUL_H (R78). -/
  | vfmulH (b : Fin 32) (d : Fin 32) (mk : Bool)
  /-- VFMAX_H (R78). -/
  | vfmaxH (b : Fin 32) (d : Fin 32) (mk : Bool)
  /-- VFMIN_H (R78). -/
  | vfminH (b : Fin 32) (d : Fin 32) (mk : Bool)
  /-- VMOV_H (R78). -/
  | vmovH (b : Fin 32) (d : Fin 32) (mk : Bool)
  /-- MODULE_RESET (R25). At module reset the firmware selects, checks and applies a signed configuration image from the two flash slots, raises MINVER once PHASE = 2, and reports any failure in BOOTSTAT. -/
  | moduleReset
  /-- HOST_TRAFFIC_BEFORE_RUN (R27). CXL.cache, CXL.mem or doorbell traffic that arrives before PHASE reads 2 is completed with the host-link error response and has no other effect. -/
  | hostTrafficBeforeRun
  /-- HOST_MEM_ACCESS (R301). A host access through an HDM decoder is served coherently at the line's home agent, recalling L1 copies where needed. -/
  | hostMemAccess (pa : Nat) (op : BusOp)
  /-- HOST_HEAD_STORE (R184). An aligned 8-byte host or companion store to HEAD while ATT = 0 sets HEAD := max(HEAD, min(value, TAIL)); any other host write to the block changes nothing. -/
  | hostHeadStore (block : Nat) (value : BitVec 64)
  /-- HOST_TAIL_CAS (R184). A host or companion CAS on TAIL is a reservation on a bitmap or sequenced stream; it is refused when the new value is out of range or the stream is plain. -/
  | hostTailCas (block : Nat) (compare : BitVec 64) (value : BitVec 64)
  /-- OINVREQ (R159). A window write of OINVREQ starts, or queues, a shoot-down of the named object; an identity with nothing to act on is acknowledged at once. -/
  | oinvreq (ctx : Nat) (revoke : Bool) (obj : BitVec 24)
  /-- SHOOT_DOWN_ACK (R157). Once the raised generations are visible and every buffer entry, L1 line and old request has been dealt with, the shoot-down is acknowledged and BUSY clears. -/
  | shootDownAck (ctx : Nat)
  /-- REPLAY (R159). A window write of REPLAY replays every wave and engine command of the context that is parked or waiting on the object. -/
  | replay (ctx : Nat) (obj : BitVec 24)
  /-- TEAMKILL (R292). A window write of TEAMKILL delivers a kill request to the named resident or queued team of the context. -/
  | teamkill (ctx : Nat) (die : Fin 4) (team : BitVec 32)
  /-- CONTEXT_SAVE (R299). CTXCMD.CMD = 1 starts a save of a running context: placement and ingestion stop, and the pre-emption request is sent out, unless IMGOBJ is too small. -/
  | contextSave (ctx : Nat)
  /-- CONTEXT_RESTORE (R299). CTXCMD.CMD = 2 checks the image header and tag, then loads the rods and quorums and places or queues the teams on their saved dies. -/
  | contextRestore (ctx : Nat)
  /-- CONTEXT_TEAR_DOWN (R299). CTXCMD.CMD = 3 kills every team of the context, retracts its versions, frees its quorum registers, unloads its rods and discards its hash key. -/
  | contextTearDown (ctx : Nat)
  /-- PREEMPT_REQUEST (R294). When the save request reaches a core, every resident wave of the context gets cc.P := 1, PRQ.REQ := 1 and LEFT := PDEAD.CYCLES. -/
  | preemptRequest (ctx : Nat) (die : Fin 4) (core : Nat)
  /-- FORCED_SAVE (R294). When LEFT reaches 0 in a wave that has not yielded, the wave is stopped at its next instruction boundary and recorded PREEMPT_FORCED. -/
  | forcedSave (team : Nat) (wave : Nat)
  /-- SAVE_IMAGE_WRITE (R296). Once every wave is yielded, stopped or retired and every store and engine command has ended, the firmware writes the encrypted context image and frees the context's resources. -/
  | saveImageWrite (ctx : Nat)
  /-- DEBUG_STOP (R314). A debug-block write of CMD = 1 stops the target team at its safe points. -/
  | debugStop (ctx : Nat)
  /-- DEBUG_STOP_COMPLETE (R314). When every wave has stopped at a safe point or a wait, the team is written to SWAPOBJ, its resources are freed, and a kind-0xF2 event is posted. -/
  | debugStopComplete (team : Nat)
  /-- DEBUG_RESUME (R314). A debug-block write of CMD = 2 checks the swapped image's keyed hash and places the team again, or sets FAIL. -/
  | debugResume (ctx : Nat) (intact : Bool) (edits : List DebugEdit)
  /-- DEBUG_DUMP (R317). A debug-block write of CMD = 3 dumps a stopped team's header and records into DUMPOBJ. -/
  | debugDump (ctx : Nat)
  /-- SAMPCTL_WRITE (R309). A write of SAMPCTL sets EN and PERIOD, and is ignored whole when PERIOD lies outside 10 to 24. -/
  | sampctlWrite (value : BitVec 64)
  /-- CNTSEL_WRITE (R306). A window write of a core counter's CNTSEL selects its source and its context filter; an L2 source written with OWN = 1 is ignored. -/
  | cntselWrite (die : Fin 4) (core : Nat) (j : Fin 8) (value : BitVec 64)
  /-- REGISTER_WRITE (R302). A write to a window register that has no row of its own updates its writable fields; a write to an unassigned offset is ignored. -/
  | registerWrite (offset : Nat) (value : BitVec 64)
  /-- PC_SAMPLE (R308). Every 2^PERIOD cycles, each quarter samples its next resident wave and writes a sample record to that wave's context trace object. -/
  | pcSample (die : Fin 4) (core : Nat) (quarter : Fin 4)
  /-- DROOP_EVENT (R305). A quad's droop sensor reports a sag past the threshold, and the quad's core clock is stretched within two cycles. -/
  | droopEvent (die : Fin 4) (quad : Nat)
  /-- DROOP_RECOVERY (R305). When the supply recovers, the quad's core clock stops being stretched. -/
  | droopRecovery (die : Fin 4) (quad : Nat)
  /-- POD_JOIN (R303). At pod join the firmware sets PODID.MODULE and JOINED and binds the context's pod peers. -/
  | podJoin (module : BitVec 13) (ctx : Nat) (peers : List (Nat × Nat))
  /-- POD_MODULE_LOSS (R304). When an owning module leaves the pod or loses every path, its outstanding remote accesses end with BUS_ERROR. -/
  | podModuleLoss (module : Nat)
  /-- SOFT_ERROR (R140). An uncorrectable error in a data entry poisons every sector that points at it, and the firmware logs it once. -/
  | softError (die : Fin 4) (slice : Nat) (num : Nat)
  /-- SECTOR_FILL (R122). Data for a missed sector arrives from HBM4E and fills the sector at the home slice and in the requesting L1. -/
  | sectorFill (die : Fin 4) (core : Nat) (ctx : Nat) (cap : BitVec 128) (off : Nat)
  /-- SECTOR_WRITEBACK (R122). A dirty L1 sector is written back whole to its home as one 256-byte write, which is a sharing event. -/
  | sectorWriteback (die : Fin 4) (core : Nat) (index : Nat) (evict : Bool)
  /-- PARTIAL_WRITE (R133). A partial write at the home slice un-shares, writes in place, takes an entry for a ZERO sector, or fills a NONE sector first, all as one step. -/
  | partialWrite (pa : Nat) (dom : Nat) (bytes : List (BitVec 8))
  /-- L2_EVICTION (R138). The slice evicts a victim line chosen by its rules, writing dirty sectors to HBM4E, to refill the reserve or free entries. -/
  | l2Eviction (die : Fin 4) (slice : Nat)
  /-- TENTATIVE_STORE (R136). A tentative store reaching the home slice writes the member's version, taking a version entry on the sector's first store or faulting TENT_QUOTA. -/
  | tentativeStore (team : Nat) (wave : Nat)
  /-- STORE_QUEUE_DRAIN (R397). A queued store of a wave is performed at its destination in the store queue's FIFO order. -/
  | storeQueueDrain (team : Nat) (wave : Nat)
  /-- WALKER_FILL (R158). A walker fill arrives; it is discarded and redone if its MGEN is older than the entry's, and otherwise fills the translation buffer. -/
  | walkerFill (die : Fin 4) (core : Nat) (ctx : Nat) (obj : Nat) (off : Nat) (mgen : BitVec 16)
  /-- SYSTEM_EVENT_WRITE (R155). An event the G9 posts itself is written into its stream with one reservation, LAP last, once the ring has room. -/
  | systemEventWrite (die : Fin 4) (index : Nat)
  /-- INGESTION_STEP (R191). The Frame ingests the next published position of an attached stream: it stamps and offers the event, or refuses it, and advances INGEST and HEAD. -/
  | ingestionStep (die : Fin 4) (ctx : Nat) (obj : Nat)
  /-- TIMEOUT (R206). For an unstamped rod, a TMO transition fires at its due tick by take() without an event. -/
  | timeout (die : Fin 4) (ctx : Nat) (rod : Nat)
  /-- LAUNCH (R208). An accepted launch leaves the Frame, at most one per two Frame cycles, and goes to the dispatcher of the die its HOME chooses. -/
  | launch (die : Fin 4)
  /-- TEAM_PLACEMENT (R40). The dispatcher places a queued team on the first core or pair whose wave slots, pool units and array cover its footprint. -/
  | teamPlacement (die : Fin 4)
  /-- POST_RECORD_WRITE (R187). The ring's home writes and publishes the reserved records of a POST in ascending position, waiting on a page that is not present. -/
  | postRecordWrite (die : Fin 4) (index : Nat)
  /-- WAVE_RETIRE (R47). A wave with no live split retires once its engine commands and matrix instructions have ended, and frees its wave slot. -/
  | waveRetire (team : Nat) (wave : Nat)
  /-- MARKER_WAIT_COMPLETE (R50). When every register result of the wave is written, the marker wait ends and every pending-write bit clears. -/
  | markerWaitComplete (team : Nat) (wave : Nat)
  /-- SERVICE_ENTRY (R283). A split trap, or a parked split once no other split is runnable, enters service mode with its fault record loaded, or parks the wave when there is no handler. -/
  | serviceEntry (team : Nat) (wave : Nat)
  /-- MATRIX_PASS (R229). The sequencer runs a queued MMA, MMAS or MMAC pass into its tile and writes its results. -/
  | matrixPass (die : Fin 4) (core : Nat) (bad1 : Bool) (bad2 : Bool) (follower : Bool × Bool)
  /-- MMAX_STEP (R250). One K-chunk step of one digit product of an MMAX adds its exact sum into Z. -/
  | mmaxStep (die : Fin 4) (core : Nat) (bad1 : Bool) (bad2 : Bool)
  /-- ACCUMULATOR_EXECUTE (R320). The sequencer executes a queued ACLR, ALD or AST on its tile. -/
  | accumulatorExecute (die : Fin 4) (core : Nat)
  /-- ENGINE_ADMISSION (R333). An engine command is admitted once the wave's earlier accesses are performed and its limits and footprint allow; it then returns its ticket. -/
  | engineAdmission (team : Nat) (wave : Nat) (slot : Fin 4)
  /-- ENGINE_COMPLETION (R173). An engine command completes once its writes are performed at their homes and the L1 copies of the written sectors are invalidated. -/
  | engineCompletion (die : Fin 4) (core : Nat) (index : Nat)
  /-- ENGINE_FAULT_END (R429). A fault after admission ends the engine command with its cause kept for EWAIT, leaving the destination as stated. -/
  | engineFaultEnd (die : Fin 4) (core : Nat) (index : Nat)
  /-- COLL_CONTRIBUTION (R342). A COLL contribution arriving at the collecting home joins, opens or is discarded from its collective, or makes a quorum arrival. -/
  | collContribution (part : Contrib)
  /-- COLL_RESULT_DELIVERY (R343). The combined result is written at each participant's destination, which completes that participant's command. -/
  | collResultDelivery (die : Fin 4) (core : Nat) (index : Nat)
  /-- QUORUM_ARRIVAL (R267). An arrival reaching the quorum's Frame commits the member's versions and counts it while the quorum is OPEN, or is answered LATE. -/
  | quorumArrival (team : Nat) (wave : Nat) (slot : Fin 4)
  /-- QUORUM_DEADLINE (R268). The quorum's deadline falls due and releases it SHORT or FAILED by its FLOOR. -/
  | quorumDeadline (die : Fin 4) (num : Nat)
  /-- KILL_REQUEST (R270). A kill request removes a queued member or sets cc.K in every wave of the resident team, which stops at once if it is in a kill point or parked. -/
  | killRequest (ctx : Nat) (die : Fin 4) (team : BitVec 32)
  /-- CODE_OBJECT_LOAD (R61). The loader relocates and installs a code object, its objects and streams, and its automata, or refuses it whole. -/
  | codeObjectLoad (ctx : Nat) (code : CodeImage)
  /-- UNASSIGNED_ENCODING (R95). Fetching and issuing an encoding that no instruction is assigned (majors 0x00 and 0x3D-0x3F, unlisted sub-ops or codes) traps ILLEGAL_OP or ILLEGAL_FIELD. -/
  | unassignedEncoding
  /-- FETCH_OUTSIDE_TEXT (R77). A fetch of a parcel outside the text of the kernel's code object traps BOUNDS with TEPC at the instruction's first parcel. -/
  | fetchOutsideText
  /-- COMPANION_MEM_ACCESS (R23). A companion-core load, store or atomic on the physical map is served coherently at the line's home agent. -/
  | companionMemAccess (pa : Nat) (op : BusOp)
  /-- WALARO_REMOTE_REQUEST (R304). A remote load, store, atomic, copy or capability validation that arrives over Walaro links is performed at this module's home and answered. -/
  | walaroRemoteRequest (ctx : Nat) (obj : Nat) (off : Nat) (gen : Nat) (op : Option BusOp)
  /-- CONTEXT_CREATION (R130). The firmware creates a context: it draws the domain hash key, creates the fault stream, sets weight 1, ALLOWT and the ctx register values, and the context becomes running. -/
  | contextCreation (ctx : Nat) (spec : CtxSpec)
  /-- MODULE_FLASH_WRITE (R26). A new configuration image is written into a module flash slot while the module runs, taking effect only at the next module reset. -/
  | moduleFlashWrite (slot : Fin 2) (image : Option FlashImage)
  /-- HOST_LINK_TRAINING (R300). The host link trains or retrains to a width and rate, from which moment BOOTSTAT is readable over CXL.io. -/
  | hostLinkTraining (width : Nat) (rate : Nat)
deriving DecidableEq, Repr

end Sys2Proof
end

