-- ==== Sys2Proof/Machine/Fp.lean ====
section
/-! DEFINITION. Floating-point values, the exact results of the basic operations and their one rounding
(05_numbers R96 to R108). A value is decoded exactly, the operation is exact on integers, and rounding narrows once. -/

namespace Sys2Proof.Machine

/-- A floating-point element format (Table 5.1): fraction bits, exponent bits, bias. -/
structure FpFormat where
  ebits : Nat
  fbits : Nat
  bias  : Nat
deriving DecidableEq, Repr

def fp64 : FpFormat := ⟨11, 52, 1023⟩
def fp32 : FpFormat := ⟨8, 23, 127⟩
def bf16 : FpFormat := ⟨8, 7, 127⟩
def fp16 : FpFormat := ⟨5, 10, 15⟩
def e4m3 : FpFormat := ⟨4, 3, 7⟩
def e5m2 : FpFormat := ⟨5, 2, 15⟩
def e2m1 : FpFormat := ⟨2, 1, 1⟩

/-- E4M3 has no infinity and one NaN fraction; E2M1 has neither (R97). -/
def FpFormat.hasInf (f : FpFormat) : Bool := decide (f ≠ e4m3) && decide (f ≠ e2m1)

/-- Bits of the format. -/
def FpFormat.width (f : FpFormat) : Nat := 1 + f.ebits + f.fbits

/-- A decoded value: a NaN, an infinity, or (−1)^neg × mant × 2^exp, with mant 0 for a zero. -/
inductive FpVal where
  | nan (signalling : Bool)
  | inf (neg : Bool)
  | fin (neg : Bool) (mant : Nat) (exp : Int)
deriving DecidableEq, Repr

/-- The exceptions of R103. -/
structure Exc where
  nv : Bool
  dz : Bool
  ovf : Bool
  uf : Bool
  nx : Bool
deriving DecidableEq, Repr

def Exc.none : Exc := ⟨false, false, false, false, false⟩
def Exc.invalid : Exc := ⟨true, false, false, false, false⟩
def Exc.divZero : Exc := ⟨false, true, false, false, false⟩

/-- The exceptions of either. -/
def Exc.or (a b : Exc) : Exc := ⟨a.nv || b.nv, a.dz || b.dz, a.ovf || b.ovf, a.uf || b.uf, a.nx || b.nx⟩

/-- The exceptions of both. -/
def Exc.and (a b : Exc) : Exc := ⟨a.nv && b.nv, a.dz && b.dz, a.ovf && b.ovf, a.uf && b.uf, a.nx && b.nx⟩

/-- Some exception is raised. -/
def Exc.any (a : Exc) : Bool := a.nv || a.dz || a.ovf || a.uf || a.nx

/-- The lowest code raised, 0x40 to 0x44 (Table 5.5). -/
def Exc.cause (a : Exc) : Nat :=
  if a.nv then 0x40 else if a.dz then 0x41 else if a.ovf then 0x42 else if a.uf then 0x43 else 0x44

/-- Rounding directions (R101); the saturating forms change overflowed results only (Table 5.2). -/
inductive Round where
  | rne | rtz | rdn | rup | rneSat | rtzSat
deriving DecidableEq, Repr

/-- The canonical NaN of a format (Table 5.1, R98). -/
def FpFormat.canonNan (f : FpFormat) : Nat :=
  if f = e4m3 then 0x7F
  else if f = e2m1 then 0
  else (2 ^ f.ebits - 1) * 2 ^ f.fbits + 2 ^ (f.fbits - 1)

/-- The value of an element's bits (R97). -/
def FpFormat.decode (f : FpFormat) (w : Nat) : FpVal :=
  let s := w.testBit (f.ebits + f.fbits)
  let e := w / 2 ^ f.fbits % 2 ^ f.ebits
  let m := w % 2 ^ f.fbits
  if f.hasInf && e == 2 ^ f.ebits - 1 then
    if m = 0 then .inf s else .nan (decide (f ≠ e5m2) && !m.testBit (f.fbits - 1))
  else if f = e4m3 ∧ e = 15 ∧ m = 7 then .nan false
  else if e = 0 then .fin s m (1 - (f.bias : Int) - f.fbits)
  else .fin s (m + 2 ^ f.fbits) ((e : Int) - f.bias - f.fbits)

/-- A NaN operand that signals (R98). -/
def FpVal.isSignalling : FpVal → Bool
  | .nan s => s
  | .inf _ => false
  | .fin _ _ _ => false

def FpVal.isNan : FpVal → Bool
  | .nan _ => true
  | .inf _ => false
  | .fin _ _ _ => false

def FpVal.isZero : FpVal → Bool
  | .nan _ => false
  | .inf _ => false
  | .fin _ m _ => m == 0

def FpVal.neg : FpVal → FpVal
  | .nan s => .nan s
  | .inf s => .inf (!s)
  | .fin s m e => .fin (!s) m e

/-- The largest finite magnitude of a format as its significand and exponent (Table 5.1). -/
def FpFormat.maxMant (f : FpFormat) : Nat := if f = e4m3 then 14 else 2 ^ (f.fbits + 1) - 1

/-- The exponent of the last place of the largest finite value. -/
def FpFormat.maxExp (f : FpFormat) : Int :=
  (if f.hasInf then (2 : Int) ^ f.ebits - 2 else 2 ^ f.ebits - 1) - f.bias - f.fbits

/-- The exponent of the last place of the subnormals. -/
def FpFormat.minExp (f : FpFormat) : Int := 1 - (f.bias : Int) - f.fbits

/-- m × 2^e as a multiple of 2^q, rounded: a sticky value lies strictly between m and m + 1 units of 2^e.
The result is the multiple and whether it is inexact. -/
def roundAt (rnd : Round) (neg : Bool) (m : Nat) (e q : Int) (sticky : Bool) : Nat × Bool :=
  if q ≤ e then (m * 2 ^ (e - q).toNat, sticky)
  else
    let sh := (q - e).toNat
    let quo := m / 2 ^ sh
    let rem := m % 2 ^ sh
    let half := 2 ^ (sh - 1)
    let inexact := decide (rem ≠ 0) || sticky
    let up :=
      match rnd with
      | .rne | .rneSat => decide (half < rem) || (decide (rem = half) && (sticky || decide (quo % 2 = 1)))
      | .rtz | .rtzSat => false
      | .rdn => neg && inexact
      | .rup => !neg && inexact
    (quo + bit up, inexact)

/-- The bits of m × 2^q in the format, where m is below 2^(fraction bits + 2) and the value is within range. -/
def FpFormat.encode (f : FpFormat) (neg : Bool) (m : Nat) (q : Int) : Nat :=
  let s := bit neg * 2 ^ (f.ebits + f.fbits)
  if m < 2 ^ f.fbits then s + m
  else
    let carry := decide (2 ^ (f.fbits + 1) ≤ m)
    let m' := if carry then m / 2 else m
    let q' := if carry then q + 1 else q
    s + (q' + f.fbits + f.bias).toNat * 2 ^ f.fbits + (m' - 2 ^ f.fbits)

/-- The infinity of a format, or what stands for it on overflow: E4M3's NaN, E2M1's largest (Table 5.2). -/
def FpFormat.infBits (f : FpFormat) (neg : Bool) : Nat :=
  if f = e4m3 then f.canonNan
  else if f = e2m1 then bit neg * 8 + 7
  else bit neg * 2 ^ (f.ebits + f.fbits) + (2 ^ f.ebits - 1) * 2 ^ f.fbits

/-- The largest finite value of a sign. -/
def FpFormat.maxBits (f : FpFormat) (neg : Bool) : Nat := f.encode neg f.maxMant f.maxExp

/-- The overflowed value of Table 5.2. -/
def FpFormat.overflow (f : FpFormat) (rnd : Round) (neg : Bool) : Nat :=
  match rnd with
  | .rne => f.infBits neg
  | .rtz | .rneSat | .rtzSat => f.maxBits neg
  | .rdn => if neg then f.infBits neg else f.maxBits neg
  | .rup => if neg then f.maxBits neg else f.infBits neg

/-- The exact value (−1)^neg × (m, with sticky) × 2^e rounded once into the format (R101, R103); m = 0 without sticky is
a zero of the sign. -/
def FpFormat.round (f : FpFormat) (rnd : Round) (neg : Bool) (m : Nat) (e : Int) (sticky : Bool) : Nat × Exc :=
  if m = 0 then (bit neg * 2 ^ (f.ebits + f.fbits), Exc.none)
  else
    let top : Int := e + (Nat.log2 m : Int)
    let qu := top - f.fbits
    let u := roundAt rnd neg m e qu sticky
    let tooLarge :=
      decide (f.maxMant * 2 ^ (f.maxExp - min f.maxExp qu).toNat < u.1 * 2 ^ (qu - min f.maxExp qu).toNat)
    if tooLarge then (f.overflow rnd neg, ⟨false, false, true, false, true⟩)
    else
      let q := max qu f.minExp
      let r := roundAt rnd neg m e q sticky
      let tiny := decide (u.1 * 2 ^ (qu - min qu f.minExp).toNat < 2 ^ f.fbits * 2 ^ (f.minExp - min qu f.minExp).toNat)
      (f.encode neg r.1 q, ⟨false, false, false, tiny && r.2, r.2⟩)

/-- A result value delivered into the format: NaN is canonical, E2M1 takes 0 with invalid (R98), infinity is exact where
the format has it and an overflow otherwise (R108). -/
def FpFormat.deliver (f : FpFormat) (rnd : Round) (v : FpVal) : Nat × Exc :=
  match v with
  | .nan _ => (f.canonNan, if f = e2m1 then Exc.invalid else Exc.none)
  | .inf s => if f.hasInf then (f.infBits s, Exc.none) else (f.overflow rnd s, ⟨false, false, true, false, true⟩)
  | .fin s m e => f.round rnd s m e false

/-- A signed integer times 2^e as a value; `z` is the sign of a zero. -/
def FpVal.ofInt (i : Int) (e : Int) (z : Bool) : FpVal :=
  if i = 0 then .fin z 0 e else .fin (decide (i < 0)) i.natAbs e

/-- The signed significand of a finite value. -/
def signedMant (s : Bool) (m : Nat) : Int := if s then -(m : Int) else m

/-- The exact sum; an exact zero of unlike signs is −0 under RDN and +0 otherwise (IEEE 754, R106). -/
def FpVal.add (rnd : Round) (a b : FpVal) : FpVal × Exc :=
  match a, b with
  | .nan x, .nan y => (.nan false, if x || y then Exc.invalid else Exc.none)
  | .nan x, _ => (.nan false, if x then Exc.invalid else Exc.none)
  | _, .nan y => (.nan false, if y then Exc.invalid else Exc.none)
  | .inf x, .inf y => if x = y then (.inf x, Exc.none) else (.nan false, Exc.invalid)
  | .inf x, .fin _ _ _ => (.inf x, Exc.none)
  | .fin _ _ _, .inf y => (.inf y, Exc.none)
  | .fin sa ma ea, .fin sb mb eb =>
    let e := min ea eb
    let i := signedMant sa (ma * 2 ^ (ea - e).toNat) + signedMant sb (mb * 2 ^ (eb - e).toNat)
    let z := if sa = sb then sa else decide (rnd = .rdn)
    (FpVal.ofInt i e z, Exc.none)

/-- The exact product. -/
def FpVal.mul (a b : FpVal) : FpVal × Exc :=
  match a, b with
  | .nan x, .nan y => (.nan false, if x || y then Exc.invalid else Exc.none)
  | .nan x, _ => (.nan false, if x then Exc.invalid else Exc.none)
  | _, .nan y => (.nan false, if y then Exc.invalid else Exc.none)
  | .inf x, .inf y => (.inf (x != y), Exc.none)
  | .inf x, .fin sb mb _ => if mb = 0 then (.nan false, Exc.invalid) else (.inf (x != sb), Exc.none)
  | .fin sa ma _, .inf y => if ma = 0 then (.nan false, Exc.invalid) else (.inf (sa != y), Exc.none)
  | .fin sa ma ea, .fin sb mb eb => (.fin (sa != sb) (ma * mb) (ea + eb), Exc.none)

/-- The exact a × b + c; 0 × ∞ raises invalid whatever c holds (R411). -/
def FpVal.fma (rnd : Round) (a b c : FpVal) : FpVal × Exc :=
  let p := FpVal.mul a b
  let r := FpVal.add rnd p.1 c
  (r.1, p.2.or r.2)

/-- a < b for two values that are no NaN; −0 and +0 are equal. -/
def FpVal.lt (a b : FpVal) : Bool :=
  match a, b with
  | .inf x, .inf y => x && !y
  | .inf x, .fin _ _ _ => x
  | .fin _ _ _, .inf y => !y
  | .fin sa ma ea, .fin sb mb eb =>
    let e := min ea eb
    decide (signedMant sa (ma * 2 ^ (ea - e).toNat) < signedMant sb (mb * 2 ^ (eb - e).toNat))
  | .nan _, _ => false
  | _, .nan _ => false

/-- a = b for two values that are no NaN. -/
def FpVal.eq (a b : FpVal) : Bool := !a.isNan && !b.isNan && !a.lt b && !b.lt a

/-- The sign bit of a value. -/
def FpVal.sign : FpVal → Bool
  | .nan _ => false
  | .inf s => s
  | .fin s _ _ => s

/-- a orders below b, with −0 below +0 (R106). -/
def FpVal.below (a b : FpVal) : Bool := a.lt b || (a.eq b && a.sign && !b.sign)

/-- minimumNumber or maximumNumber (R106): a NaN beside a number yields the number, only a signalling NaN is invalid. -/
def FpVal.minMax (wantMax : Bool) (a b : FpVal) : FpVal × Exc :=
  let x := if a.isSignalling || b.isSignalling then Exc.invalid else Exc.none
  match a, b with
  | .nan _, .nan _ => (.nan false, x)
  | .nan _, b => (b, x)
  | a, .nan _ => (a, x)
  | a, b => (if a.below b then (if wantMax then b else a) else (if wantMax then a else b), x)

/-- Binary operations on elements (R411). -/
inductive FpOp where
  | add | sub | mul | min | max
deriving DecidableEq, Repr

/-- One element operation: exact, then one rounding; min and max do not round (R78, R106). -/
def fpBin (f : FpFormat) (rnd : Round) (op : FpOp) (x y : Nat) : Nat × Exc :=
  let a := f.decode x
  let b := f.decode y
  let v :=
    match op with
    | .add => FpVal.add rnd a b
    | .sub => FpVal.add rnd a b.neg
    | .mul => FpVal.mul a b
    | .min => FpVal.minMax false a b
    | .max => FpVal.minMax true a b
  let r := f.deliver rnd v.1
  (r.1, v.2.or r.2)

/-- a × b + c with one rounding (R411). -/
def fpFma (f : FpFormat) (rnd : Round) (x y z : Nat) : Nat × Exc :=
  let v := FpVal.fma rnd (f.decode x) (f.decode y) (f.decode z)
  let r := f.deliver rnd v.1
  (r.1, v.2.or r.2)

/-- The ordered compares, which are invalid on any NaN (R103). -/
def isOrdering : CmpCond → Bool
  | .lt | .le | .gt | .ge => true
  | .eq | .ne | .uo | .ord => false

/-- A compare (R82, R103): unordered operands satisfy ne and uo only; lt, le, gt and ge on any NaN, and any compare
on a signalling NaN, are invalid. -/
def fpCompare (f : FpFormat) (c : CmpCond) (x y : Nat) : Bool × Exc :=
  let a := f.decode x
  let b := f.decode y
  let un := a.isNan || b.isNan
  let inv := a.isSignalling || b.isSignalling || (un && isOrdering c)
  let t :=
    match c with
    | .eq => a.eq b
    | .ne => un || !a.eq b
    | .lt => a.lt b
    | .le => a.lt b || a.eq b
    | .gt => b.lt a
    | .ge => b.lt a || a.eq b
    | .uo => un
    | .ord => !un
  (t, if inv then Exc.invalid else Exc.none)

end Sys2Proof.Machine
end

