-- ==== Sys2Proof/Machine/Fn.lean ====
section
/-! DEFINITION. The eight special functions of VSFN (R106, Table 5.6): exact cases exactly, every other value by fixed-point
arithmetic carried far beyond the format, then rounded once. -/

namespace Sys2Proof.Machine

/-- Fraction bits of the fixed-point arithmetic (UNVERIFIED that they decide every rounding, log 5). -/
def fxBits : Nat := 800

/-- One in fixed point. -/
def fxOne : Nat := 2 ^ fxBits

/-- Product of two fixed-point numbers. -/
def fxMul (a b : Nat) : Nat := a * b / fxOne

/-- Quotient of two fixed-point numbers. -/
def fxDiv (a b : Nat) : Nat := a * fxOne / b

/-- The sum of 1 / (k 2^k) for k from n down to 1: the natural logarithm of 2. -/
def ln2Sum : Nat → Nat
  | 0 => 0
  | k + 1 => fxOne / ((k + 1) * 2 ^ (k + 1)) + ln2Sum k

/-- ln 2 in fixed point. -/
def fxLn2 : Nat := ln2Sum 800

/-- The arc tangent series of 1 / q: alternating terms, `pow` the power of 1 / q in force, `j` the odd denominator. -/
def atanSum : Nat → Nat → Nat → Nat → Bool → Int
  | 0, _, _, _, _ => 0
  | k + 1, q, pow, j, pos =>
    (if pos then ((pow / j : Nat) : Int) else -((pow / j : Nat) : Int)) + atanSum k q (pow / (q * q)) (j + 2) (!pos)

/-- π in fixed point, by Machin's formula. -/
def fxPi : Nat := (16 * atanSum 180 5 (fxOne / 5) 1 true - 4 * atanSum 60 239 (fxOne / 239) 1 true).toNat

/-- The exponential series from its term `t` on: `j` the index of the next factor. -/
def expSum : Nat → Nat → Nat → Nat → Nat
  | 0, _, t, _ => t
  | k + 1, y, t, j => t + expSum k y (fxMul t y / j) (j + 1)

/-- e to the power y for y in [0, 1) in fixed point. -/
def fxExp (y : Nat) : Nat := expSum 170 y fxOne 1

/-- The sine or cosine series: `t` the term in force, `j` the last factorial index in it, `y2` the square. -/
def trigSum : Nat → Nat → Nat → Nat → Bool → Int
  | 0, _, _, _, _ => 0
  | k + 1, y2, t, j, pos =>
    (if pos then (t : Int) else -(t : Int)) + trigSum k y2 (fxMul t y2 / ((j + 1) * (j + 2))) (j + 2) (!pos)

/-- sin y for y in [0, 2) in fixed point. -/
def fxSin (y : Nat) : Nat := (trigSum 90 (fxMul y y) y 1 true).toNat

/-- cos y for y in [0, 2) in fixed point. -/
def fxCos (y : Nat) : Nat := (trigSum 90 (fxMul y y) fxOne 0 true).toNat

/-- The series of the inverse hyperbolic tangent. -/
def atanhSum : Nat → Nat → Nat → Nat → Nat
  | 0, _, _, _ => 0
  | k + 1, z2, pow, j => pow / j + atanhSum k z2 (fxMul pow z2) (j + 2)

/-- log₂ f for f in [1, 2) in fixed point. -/
def fxLog2 (f : Nat) : Nat :=
  let z := fxDiv (f - fxOne) (f + fxOne)
  fxDiv (2 * atanhSum 260 (fxMul z z) z 1) fxLn2

/-- A magnitude m × 2^e below 2^k in fixed point, its bits below the last place dropped. -/
def fxOf (m : Nat) (e : Int) : Nat :=
  if 0 ≤ e + fxBits then m * 2 ^ (e + fxBits).toNat else m / 2 ^ (-(e + fxBits)).toNat

/-- A fixed-point magnitude scaled by 2^s, rounded as an inexact value. -/
def fxRound (f : FpFormat) (neg : Bool) (v : Nat) (s : Int) : Nat × Exc :=
  f.round .rne neg v (s - fxBits) true

/-- A magnitude m × 2^e reaches 2^k. -/
def reaches (m : Nat) (e : Int) (k : Nat) : Bool := decide (m ≠ 0) && decide ((k : Int) ≤ e + Nat.log2 m)

/-- The integer a dyadic m × 2^e equals, if it equals one. -/
def dyadicNat (m : Nat) (e : Int) : Option Nat :=
  if 0 ≤ e then some (m * 2 ^ e.toNat)
  else if m % 2 ^ (-e).toNat = 0 then some (m / 2 ^ (-e).toNat) else none

/-- 1 ÷ (m × 2^e), rounded once. -/
def fnRcp (f : FpFormat) (neg : Bool) (m : Nat) (e : Int) : Nat × Exc :=
  f.round .rne neg (2 ^ 300 / m) (-300 - e) (decide (2 ^ 300 % m ≠ 0))

/-- m × 2^e as an even exponent and a significand. -/
def evenExp (m : Nat) (e : Int) : Nat × Int := if e % 2 = 0 then (m, e) else (2 * m, e - 1)

/-- √(m × 2^e), rounded once. -/
def fnSqrt (f : FpFormat) (m : Nat) (e : Int) : Nat × Exc :=
  let p := evenExp m e
  let n := p.1 * 2 ^ 200
  let r := isqrt n
  f.round .rne false r (p.2 / 2 - 100) (decide (r * r ≠ n))

/-- 1 ÷ √(m × 2^e), rounded once. -/
def fnRsqrt (f : FpFormat) (m : Nat) (e : Int) : Nat × Exc :=
  let p := evenExp m e
  let r := isqrt (2 ^ 600 / p.1)
  f.round .rne false r (-300 - p.2 / 2) (decide (r * r * p.1 ≠ 2 ^ 600))

/-- 2 to the power of a finite value; magnitudes from 2^12 on lie beyond every format's range and are cut to 2^12. -/
def fnExp2 (f : FpFormat) (neg : Bool) (m : Nat) (e : Int) : Nat × Exc :=
  let big := reaches m e 12
  let m' := if big then 4096 else m
  let e' := if big then 0 else e
  match dyadicNat m' e' with
  | some n => f.round .rne false 1 (if neg then -(n : Int) else n) false
  | none =>
    let x := fxOf m' e'
    let i := x / fxOne
    let fr := x % fxOne
    if neg then
      fxRound f false (fxExp (fxMul (fxOne - fr) fxLn2)) (-(i : Int) - 1)
    else fxRound f false (fxExp (fxMul fr fxLn2)) i

/-- log₂ of a positive finite value. -/
def fnLog2 (f : FpFormat) (m : Nat) (e : Int) : Nat × Exc :=
  let k : Int := e + Nat.log2 m
  let fr := fxOf m (e - k)
  if fr = fxOne then f.deliver .rne (FpVal.ofInt k 0 false)
  else
    let t : Int := k * (fxOne : Int) + fxLog2 fr
    if t < 0 then fxRound f true (t.natAbs - 1) 0 else fxRound f false t.natAbs 0

/-- The fraction of an odd function over half turns: |x| modulo 2 as quarter turns, m × 2^e exact. -/
def halfTurns (m : Nat) (e : Int) : Nat := fxOf m e % (2 * fxOne)

/-- sin(πx): the sign follows the sign of x and the half turn, and multiples of 1/2 are exact. -/
def fnSinPi (f : FpFormat) (neg : Bool) (m : Nat) (e : Int) : Nat × Exc :=
  let r := if 1 ≤ e then 0 else halfTurns m e
  let flip := decide (fxOne ≤ r)
  let q := r % fxOne
  let s := neg != flip
  if q = 0 then f.round .rne neg 0 0 false
  else if 2 * q = fxOne then f.round .rne s 1 0 false
  else
    let y := if 2 * q < fxOne then q else fxOne - q
    fxRound f s (if 4 * y ≤ fxOne then fxSin (fxMul y fxPi) else fxCos (fxMul (fxOne / 2 - y) fxPi)) 0

/-- cos(πx), an even function; multiples of 1/2 are exact, and a zero is +0. -/
def fnCosPi (f : FpFormat) (m : Nat) (e : Int) : Nat × Exc :=
  let r := if 1 ≤ e then 0 else halfTurns m e
  let r' := if fxOne < r then 2 * fxOne - r else r
  if r' = 0 then f.round .rne false 1 0 false
  else if r' = fxOne then f.round .rne true 1 0 false
  else if 2 * r' = fxOne then f.round .rne false 0 0 false
  else
    let s := decide (fxOne < 2 * r')
    let y := if s then fxOne - r' else r'
    fxRound f s (if 4 * y ≤ fxOne then fxCos (fxMul y fxPi) - 1 else fxSin (fxMul (fxOne / 2 - y) fxPi)) 0

/-- tanh of a non-zero finite value; magnitudes from 2^8 on round as 2^8 does. -/
def fnTanh (f : FpFormat) (neg : Bool) (m : Nat) (e : Int) : Nat × Exc :=
  let big := reaches m e 8
  let x := if big then 256 * fxOne else fxOf m e
  let t := fxDiv (2 * x) fxLn2
  let u := fxExp (fxMul (fxOne - t % fxOne) fxLn2) / 2 ^ (t / fxOne + 1)
  fxRound f neg (fxDiv (fxOne - u) (fxOne + u)) 0

/-- VSFN on an element (Table 5.6). -/
def fpFn (f : FpFormat) (op : SfnOp) (w : Nat) : Nat × Exc :=
  match op, f.decode w with
  | _, .nan s => (f.canonNan, if s then Exc.invalid else Exc.none)
  | .rcp, .inf s => f.round .rne s 0 0 false
  | .rcp, .fin s m e => if m = 0 then (f.infBits s, Exc.divZero) else fnRcp f s m e
  | .rsqrt, .inf s => if s then (f.canonNan, Exc.invalid) else f.round .rne false 0 0 false
  | .rsqrt, .fin s m e =>
    if m = 0 then (f.infBits s, Exc.divZero) else if s then (f.canonNan, Exc.invalid) else fnRsqrt f m e
  | .sqrt, .inf s => if s then (f.canonNan, Exc.invalid) else (f.infBits false, Exc.none)
  | .sqrt, .fin s m e =>
    if m = 0 then f.round .rne s 0 0 false else if s then (f.canonNan, Exc.invalid) else fnSqrt f m e
  | .exp2, .inf s => if s then f.round .rne false 0 0 false else (f.infBits false, Exc.none)
  | .exp2, .fin s m e => if m = 0 then f.round .rne false 1 0 false else fnExp2 f s m e
  | .log2, .inf s => if s then (f.canonNan, Exc.invalid) else (f.infBits false, Exc.none)
  | .log2, .fin s m e =>
    if m = 0 then (f.infBits true, Exc.divZero) else if s then (f.canonNan, Exc.invalid) else fnLog2 f m e
  | .sinpi, .inf _ => (f.canonNan, Exc.invalid)
  | .sinpi, .fin s m e => if m = 0 then f.round .rne s 0 0 false else fnSinPi f s m e
  | .cospi, .inf _ => (f.canonNan, Exc.invalid)
  | .cospi, .fin _ m e => if m = 0 then f.round .rne false 1 0 false else fnCosPi f m e
  | .tanh, .inf s => f.round .rne s 1 0 false
  | .tanh, .fin s m e => if m = 0 then f.round .rne s 0 0 false else fnTanh f s m e

end Sys2Proof.Machine
end

