-- ==== Sys2Proof/Machine/Elem.lean ====
section
/-! DEFINITION. Elements of a lane and the element operations of the vector and scalar entries (R82, R99, R100, R391,
R404, R406, R411, R108), and the lane tree of R114. Values are numbers below 2^32, or below 2^64 for a pair. -/

namespace Sys2Proof.Machine

/-- Bits of an element of T (R82). -/
def elemBits : IntType → Nat
  | .i32 | .n32 => 32
  | .i16x2 | .n16x2 => 16
  | .i8x4 | .n8x4 => 8
  | .i64 | .n64 => 64

/-- Elements in a lane, or in a pair for 64 bits (R99). -/
def elemCount : IntType → Nat
  | .i32 | .n32 | .i64 | .n64 => 1
  | .i16x2 | .n16x2 => 2
  | .i8x4 | .n8x4 => 4

/-- T compares and shifts as signed (R404). -/
def elemSigned : IntType → Bool
  | .i32 | .i16x2 | .i8x4 | .i64 => true
  | .n32 | .n16x2 | .n8x4 | .n64 => false

/-- The `cnt` elements of `n` bits of two values, combined element by element (R99). -/
def zipElems (n : Nat) (f : Nat → Nat → Nat) : Nat → Nat → Nat → Nat
  | 0, _, _ => 0
  | cnt + 1, a, b => f (a % 2 ^ n) (b % 2 ^ n) % 2 ^ n + 2 ^ n * zipElems n f cnt (a / 2 ^ n) (b / 2 ^ n)

/-- The `cnt` elements of `n` bits of a value, each through `f`. -/
def mapElems (n : Nat) (f : Nat → Nat) : Nat → Nat → Nat
  | 0, _ => 0
  | cnt + 1, a => f (a % 2 ^ n) % 2 ^ n + 2 ^ n * mapElems n f cnt (a / 2 ^ n)

/-- The integer element operations. -/
inductive IntOp where
  | add | sub | mul | min | max | shl | shr | and | or | xor
deriving DecidableEq, Repr

/-- a < b as signed or natural n-bit numbers. -/
def lessThan (n : Nat) (signed : Bool) (a b : Nat) : Bool :=
  if signed then decide (asInt n a < asInt n b) else decide (a < b)

/-- One integer element operation on n-bit elements (R404); the result is taken modulo 2^n. -/
def intOp (op : IntOp) (n : Nat) (signed : Bool) (a b : Nat) : Nat :=
  match op with
  | .add => (a + b) % 2 ^ n
  | .sub => (a + 2 ^ n - b) % 2 ^ n
  | .mul => a * b % 2 ^ n
  | .min => if lessThan n signed b a then b else a
  | .max => if lessThan n signed a b then b else a
  | .shl => a * 2 ^ (b % n) % 2 ^ n
  | .shr => if signed then wrap n (asInt n a / 2 ^ (b % n)) else a / 2 ^ (b % n)
  | .and => a &&& b
  | .or => a ||| b
  | .xor => a ^^^ b

/-- An integer operation on all elements of a lane, or of a pair (R404). -/
def intLane (op : IntOp) (t : IntType) (a b : Nat) : Nat :=
  zipElems (elemBits t) (intOp op (elemBits t) (elemSigned t)) (elemCount t) a b

/-- VBIT on one n-bit element (R406). -/
def vbitElem (fn : VBitFn) (n w : Nat) : Nat :=
  match fn with
  | .clz => clz n w
  | .popc => popc n w
  | .ctz => ctz n w
  | .brev => brev n w
  | .bswap => bswap (n / 8) w

/-- VBIT on all elements of a lane, or of a pair. -/
def vbitLane (fn : VBitFn) (t : IntType) (a : Nat) : Nat :=
  mapElems (elemBits t) (vbitElem fn (elemBits t)) (elemCount t) a

/-- VCMP on two elements (R408). -/
def intCompare (c : CmpCond) (t : IntType) (a b : Nat) : Bool :=
  match c with
  | .eq => a == b
  | .ne => a != b
  | .lt => lessThan (elemBits t) (elemSigned t) a b
  | .le => !lessThan (elemBits t) (elemSigned t) b a
  | .gt => lessThan (elemBits t) (elemSigned t) b a
  | .ge => !lessThan (elemBits t) (elemSigned t) a b
  | .uo => false
  | .ord => true

/-- The scalar arithmetic of R391. -/
inductive ScalarOp where
  | add | sub | mul | mulhS | mulhN | divS | divN | remS | remN | and | or | xor | shl | shrL | shrA
  | minS | minN | maxS | maxN
deriving DecidableEq, Repr

/-- One scalar operation on 64-bit values; division by R100. -/
def scalarOp (op : ScalarOp) (a b : W64) : W64 :=
  match op with
  | .add => a + b
  | .sub => a - b
  | .mul => a * b
  | .mulhS => BitVec.ofInt 64 (a.toInt * b.toInt / 2 ^ 64)
  | .mulhN => BitVec.ofNat 64 (a.toNat * b.toNat / 2 ^ 64)
  | .divS => if b = 0 then -1 else BitVec.ofInt 64 (a.toInt.tdiv b.toInt)
  | .divN => if b = 0 then -1 else BitVec.ofNat 64 (a.toNat / b.toNat)
  | .remS => if b = 0 then a else BitVec.ofInt 64 (a.toInt.tmod b.toInt)
  | .remN => if b = 0 then a else BitVec.ofNat 64 (a.toNat % b.toNat)
  | .and => a &&& b
  | .or => a ||| b
  | .xor => a ^^^ b
  | .shl => a <<< (b.toNat % 64)
  | .shrL => a >>> (b.toNat % 64)
  | .shrA => a.sshiftRight (b.toNat % 64)
  | .minS => if b.toInt < a.toInt then b else a
  | .minN => if b.toNat < a.toNat then b else a
  | .maxS => if a.toInt < b.toInt then b else a
  | .maxN => if a.toNat < b.toNat then b else a

/-- SBIT (R391); clz and ctz of zero give 64. -/
def sbitOp (fn : SBitFn) (a : W64) : W64 :=
  match fn with
  | .clz => BitVec.ofNat 64 (clz 64 a.toNat)
  | .popc => BitVec.ofNat 64 (popc 64 a.toNat)
  | .ctz => BitVec.ofNat 64 (ctz 64 a.toNat)
  | .brev => BitVec.ofNat 64 (brev 64 a.toNat)

/-- SLI (R391): H = 0 zero-extends, H = 1 to 3 replaces sixteen bits. -/
def sliOp (h : Fin 4) (imm : BitVec 16) (old : W64) : W64 :=
  if h = 0 then imm.setWidth 64
  else (old &&& ~~~((0xFFFF#64) <<< (16 * h.val))) ||| (imm.setWidth 64 <<< (16 * h.val))

/-- The format of an element of FT. -/
def fltFormat : FltType → FpFormat
  | .f32 => fp32
  | .f64 => fp64
  | .bf16x2 => bf16
  | .f16x2 => fp16

/-- Elements in a lane of FT, or in a pair for f64. -/
def fltCount : FltType → Nat
  | .f32 | .f64 => 1
  | .bf16x2 | .f16x2 => 2

/-- Element operations with exceptions, element by element: the value and the union of the exceptions. -/
def zipFp (n : Nat) (f : Nat → Nat → Nat × Exc) : Nat → Nat → Nat → Nat × Exc
  | 0, _, _ => (0, Exc.none)
  | cnt + 1, a, b =>
    let r := f (a % 2 ^ n) (b % 2 ^ n)
    let rest := zipFp n f cnt (a / 2 ^ n) (b / 2 ^ n)
    (r.1 % 2 ^ n + 2 ^ n * rest.1, r.2.or rest.2)

/-- A floating-point operation on all elements of a lane, or of a pair (R411). -/
def fpLane (op : FpOp) (t : FltType) (rnd : Round) (a b : Nat) : Nat × Exc :=
  zipFp (fltFormat t).width (fpBin (fltFormat t) rnd op) (fltCount t) a b

/-- VSFN on all elements of a lane (R416). -/
def sfnLane (op : SfnOp) (t : SfnType) (a : Nat) : Nat × Exc :=
  match t with
  | .f32 => fpFn fp32 op a
  | .f16x2 => zipFp 16 (fun x _ => fpFn fp16 op x) 2 a 0

/-- The format of a VCVT code but i32. -/
def cvtFormat : CvtFmt → FpFormat
  | .f32 => fp32
  | .f64 => fp64
  | .bf16 => bf16
  | .f16 => fp16
  | .e4m3 => e4m3
  | .e5m2 => e5m2
  | .e2m1 => e2m1
  | .i32 => fp32

/-- Bits of a VCVT element. -/
def cvtBits : CvtFmt → Nat
  | .i32 => 32
  | .f32 => fp32.width
  | .f64 => fp64.width
  | .bf16 => bf16.width
  | .f16 => fp16.width
  | .e4m3 => e4m3.width
  | .e5m2 => e5m2.width
  | .e2m1 => e2m1.width

/-- The rounding of an F code (R107). -/
def cvtRound : CvtRound → Round
  | .rne => .rne
  | .rtz => .rtz
  | .rdn => .rdn
  | .rup => .rup
  | .rnes => .rneSat
  | .rtzs => .rtzSat

/-- A saturating rounding. -/
def Round.isSat : Round → Bool
  | .rneSat | .rtzSat => true
  | .rne | .rtz | .rdn | .rup => false

/-- A value converted to a signed n-bit integer (R108): out of range or infinite is invalid and gives the clamp in a
saturating mode, the least value otherwise; a NaN gives 0 with invalid; a dropped fraction is inexact. -/
def fpToInt (n : Nat) (rnd : Round) (v : FpVal) : Nat × Exc :=
  match v with
  | .nan _ => (0, Exc.invalid)
  | .inf s =>
    (if rnd.isSat then (if s then 2 ^ (n - 1) else 2 ^ (n - 1) - 1) else 2 ^ (n - 1), Exc.invalid)
  | .fin s m e =>
    let r := roundAt rnd s m e 0 false
    let i := signedMant s r.1
    if i < -(2 ^ (n - 1)) ∨ (2 ^ (n - 1) : Int) - 1 < i then
      (if rnd.isSat then (if s then 2 ^ (n - 1) else 2 ^ (n - 1) - 1) else 2 ^ (n - 1), Exc.invalid)
    else (wrap n i, ⟨false, false, false, false, r.2⟩)

/-- VCVT of one element (R108). -/
def cvtElem (dst src : CvtFmt) (rnd : Round) (w : Nat) : Nat × Exc :=
  let x := w % 2 ^ cvtBits src
  let v := if src = .i32 then FpVal.ofInt (asInt 32 x) 0 false else (cvtFormat src).decode x
  let sig := if v.isSignalling then Exc.invalid else Exc.none
  if dst = .i32 then
    let r := fpToInt 32 rnd v
    (r.1, r.2.or sig)
  else
    let r := (cvtFormat dst).deliver rnd v
    (r.1, r.2.or sig)

/-- The value of an aligned block of 2^j lanes from `lo` (R114): a half without an active lane passes the other through.
`val` is none for a lane that takes no part. -/
def treeVal (op : Nat → Nat → Nat × Exc) (val : Nat → Option Nat) : Nat → Nat → Option (Nat × Exc)
  | 0, lo => (val lo).map fun x => (x, Exc.none)
  | j + 1, lo =>
    match treeVal op val j lo, treeVal op val j (lo + 2 ^ j) with
    | some a, some b =>
      let r := op a.1 b.1
      some (r.1, (a.2.or b.2).or r.2)
    | some a, none => some a
    | none, b => b

/-- The prefix of `n` lanes from `lo` (R114): the blocks that the binary expansion of `n` names, ascending, combined left
to right onto `acc`; the exceptions are those of the combinations alone. -/
def prefixVal (op : Nat → Nat → Nat × Exc) (val : Nat → Option Nat) :
    Nat → Nat → Nat → Option (Nat × Exc) → Option (Nat × Exc)
  | 0, _, _, acc => acc
  | j + 1, lo, n, acc =>
    if n / 2 ^ j % 2 = 1 then
      let acc' :=
        match acc, treeVal op val j lo with
        | some a, some b =>
          let r := op a.1 b.1
          some (r.1, a.2.or r.2)
        | some a, none => some a
        | none, some b => some (b.1, Exc.none)
        | none, none => none
      prefixVal op val j (lo + 2 ^ j) n acc'
    else prefixVal op val j lo n acc

/-- The combination of VRED and VSCAN (R414): integer operations raise nothing, fadd rounds RNE. -/
def redOp (op : RedOp) (a b : Nat) : Nat × Exc :=
  match op with
  | .add => (intOp .add 32 true a b, Exc.none)
  | .mins => (intOp .min 32 true a b, Exc.none)
  | .minn => (intOp .min 32 false a b, Exc.none)
  | .maxs => (intOp .max 32 true a b, Exc.none)
  | .maxn => (intOp .max 32 false a b, Exc.none)
  | .and => (intOp .and 32 false a b, Exc.none)
  | .or => (intOp .or 32 false a b, Exc.none)
  | .xor => (intOp .xor 32 false a b, Exc.none)
  | .fadd => fpBin fp32 .rne .add a b
  | .fmin => fpBin fp32 .rne .min a b
  | .fmax => fpBin fp32 .rne .max a b

/-- The identity an exclusive scan gives a lane with none below it (R114). -/
def redIdentity : RedOp → Nat
  | .add | .or | .xor | .fadd => 0
  | .and => 0xFFFFFFFF
  | .mins => 0x7FFFFFFF
  | .minn => 0xFFFFFFFF
  | .maxs => 0x80000000
  | .maxn => 0
  | .fmin => 0x7F800000
  | .fmax => 0xFF800000

/-- The online softmax step of one lane (R243, R395): the inputs are the lane's m, l and x, the tile's maximum and, once
every p is known, its tree sum. The first part gives m′, c, p and their own exceptions. -/
def smxuFirst (m x mx : Nat) : Nat × Nat × Nat × Exc :=
  let mm := fpBin fp32 .rne .max m mx
  if mm.1 = 0xFF800000 then (mm.1, 0x3F800000, 0, mm.2)
  else
    let dm := fpBin fp32 .rne .sub m mm.1
    let c := fpFn fp32 .exp2 dm.1
    let dx := fpBin fp32 .rne .sub x mm.1
    let p := fpFn fp32 .exp2 dx.1
    (mm.1, c.1, p.1, (((mm.2.or dm.2).or c.2).or dx.2).or p.2)

/-- l′ and the lane's own exceptions in forming it (R243): the lane keeps l where m′ is −∞. -/
def smxuSecond (m' l c sum : Nat) : Nat × Exc :=
  if m' = 0xFF800000 then (l, Exc.none)
  else
    let lc := fpBin fp32 .rne .mul l c
    let r := fpBin fp32 .rne .add lc.1 sum
    (r.1, lc.2.or r.2)

end Sys2Proof.Machine
end

