-- ==== Sys2Proof/Config.lean ====
section
/-! DEFINITION. What an implementation fixes and the values the manual leaves open. An open value is an opaque constant
with no body, so nothing in Lean can tell what it is: a statement that mentions one holds whatever it is. -/

namespace Sys2Proof.Config

/-- Which of several steps whose conditions hold the module takes next (R424): the model's free value number n picks one
by its remainder (log 1). -/
opaque choice : Nat → Nat

/-- How many reference ticks pass at the step whose free counter is n, on each die (R18, R424; log 1). -/
opaque ticks : Nat → Nat → Nat

/-- The core cycles that pass at the step whose free counter is n, on each die (R5, R424; log 1). -/
opaque cycles : Nat → Nat → Nat

/-- The keyed hash of a sector's content under the key of the n-th draw (R130, R132); draw 0 is the key of domain 0. -/
opaque keyedHash : Nat → List Byte → Nat

/-- Which outcome R152 allows for a page of an object whose extent list is malformed elsewhere: by free counter and
page. -/
opaque walkChoice : Nat → Nat → Nat

/-- What an access to another module's object comes to (R304): by free counter and access, one of the outcomes R147 gives
at the owner (log 17). -/
opaque remoteOutcome : Nat → Nat → Nat

/-- A byte read from another module, by free counter and access (log 17). -/
opaque remoteByte : Nat → Nat → Byte

/-- Whether an engine command that ended with a fault had written an aligned eight bytes of its destination (R429): by free
counter and number from its start. -/
opaque engineWrites : Nat → Nat → Bool

/-- The body bytes of the context image that a save would write (R296, R299): by free counter. -/
opaque imageSize : Nat → Nat

/-- A byte of the encrypted body of a context image (R296): by free counter, the records of the body that the manual lays out, and
place. -/
opaque sealedByte : Nat → List Byte → Nat → Byte

/-- The bytes of a team section in plain form before a record of it that the manual lays out (R256, R314): by free counter and record. -/
opaque sectionGap : Nat → Nat → Nat

/-- A byte of a context image, a team section or a dump record whose content the manual does not lay out (R296, R314, R316): by
free counter and place. -/
opaque imageByte : Nat → Nat → Byte

/-- Why a split of a wave did not issue, among the reasons of Table 15.5 that the model holds no state for (R308): by free
counter. -/
opaque stallReason : Nat → Nat

end Sys2Proof.Config
end

