-- ==== Sys2Proof/WellFormed.lean ====
section
/-! DEFINITION. The limits on an instruction's fields that its bits alone decide and its constructor's types do not
(R74, R80): even pairs, quads at multiples of 4, scalar blocks below s63, types and widths a form does not take.
POOLW.VREGS is no such limit: it is a matter of the team and is checked at issue. -/

namespace Sys2Proof

/-- A pair begins at an even register (R57). -/
def evenReg (r : Fin 64) : Bool := r.val % 2 == 0

/-- A quad begins at a multiple of 4 (R57). -/
def quadReg (r : Fin 64) : Bool := r.val % 4 == 0

/-- The integer types of 64 bits live in pairs (R82). -/
def IntType.isWide : IntType → Bool
  | .i64 | .n64 => true
  | .i32 | .n32 | .i16x2 | .n16x2 | .i8x4 | .n8x4 => false

/-- Only f64 lives in pairs (R82). -/
def FltType.isWide : FltType → Bool
  | .f64 => true
  | .f32 | .bf16x2 | .f16x2 => false

/-- The types VCMP takes (R407). -/
def IntType.comparable : IntType → Bool
  | .i32 | .n32 | .i64 | .n64 => true
  | .i16x2 | .n16x2 | .i8x4 | .n8x4 => false

/-- The conditions VCMP takes (Table 4.5). -/
def CmpCond.ordered : CmpCond → Bool
  | .eq | .ne | .lt | .le | .gt | .ge => true
  | .uo | .ord => false

/-- The types VFCMP takes (R407). -/
def FltType.comparable : FltType → Bool
  | .f32 | .f64 => true
  | .bf16x2 | .f16x2 => false

/-- A vector register that begins an access of the width (R362). -/
def Width.aligned (w : Width) (d : VReg) : Bool :=
  match w with
  | .b8 | .b16 | .b32 => true
  | .b64 => evenReg d
  | .b128 => quadReg d

/-- The alignment of D in an atomic (Table 16.4), and fadd at 32 bits only (R322). -/
def atomOk (wide : Bool) (op : AtomOp) (d : VReg) : Bool :=
  match op, wide with
  | .cas, true => quadReg d
  | .cas, false => evenReg d
  | .fadd, true => false
  | _, true => evenReg d
  | _, false => true

/-- A block of n scalars ends at or below s63 (R80). -/
def blockOk (p : SReg) (n : Nat) : Bool := decide (p.val + n ≤ 64)

/-- LDP: the offset is a multiple of the width, a scalar takes no b128, a vector pair or quad is aligned (R366). -/
def paramOk (off : BitVec 12) (w : ParamWidth) (scalar : Bool) (d : Fin 64) : Bool :=
  decide (off.toNat % w.bytes = 0) &&
    (match scalar, w with
     | true, .b128 => false
     | true, _ => true
     | false, .b32 => true
     | false, .b64 => evenReg d
     | false, .b128 => quadReg d)

/-- The limits R80 and the entries put on an instruction's fields. A step without an encoding has no field. -/
def Instr.wellFormed : Instr → Bool
  | .vadd t _ b a d _ => !t.isWide || (evenReg b && evenReg a && evenReg d)
  | .vsub t _ b a d _ => !t.isWide || (evenReg b && evenReg a && evenReg d)
  | .vmul t _ b a d _ => !t.isWide || (evenReg b && evenReg a && evenReg d)
  | .vmin t _ b a d _ => !t.isWide || (evenReg b && evenReg a && evenReg d)
  | .vmax t _ b a d _ => !t.isWide || (evenReg b && evenReg a && evenReg d)
  | .vshl t _ b a d _ => !t.isWide || (evenReg b && evenReg a && evenReg d)
  | .vshr t _ b a d _ => !t.isWide || (evenReg b && evenReg a && evenReg d)
  | .vand _ _ _ _ _ => true
  | .vor _ _ _ _ _ => true
  | .vxor _ _ _ _ _ => true
  | .vcmp t _ b a c _ _ => t.comparable && c.ordered && (!t.isWide || (evenReg b && evenReg a))
  | .vsel _ _ _ _ _ => true
  | .vmad _ _ _ _ _ => true
  | .vaddImm _ _ _ _ => true
  | .vmov _ _ _ _ => true
  | .vmovBcast _ _ _ _ => true
  | .vmovMask _ _ _ _ => true
  | .vidx _ _ _ _ => true
  | .vbit t _ _ a d _ => !t.isWide || (evenReg a && evenReg d)
  | .vshfl _ _ _ _ _ _ => true
  | .vvote _ _ _ _ _ => true
  | .vred _ _ _ _ _ => true
  | .vscan _ _ _ _ _ _ => true
  | .vfadd t _ b a d _ => !t.isWide || (evenReg b && evenReg a && evenReg d)
  | .vfsub t _ b a d _ => !t.isWide || (evenReg b && evenReg a && evenReg d)
  | .vfmul t _ b a d _ => !t.isWide || (evenReg b && evenReg a && evenReg d)
  | .vfmin t _ b a d _ => !t.isWide || (evenReg b && evenReg a && evenReg d)
  | .vfmax t _ b a d _ => !t.isWide || (evenReg b && evenReg a && evenReg d)
  | .vfcmp t _ b a _ _ _ => t.comparable && (!t.isWide || (evenReg b && evenReg a))
  | .vfma _ _ _ _ _ => true
  | .vfmaF64 c b a d _ => evenReg c && evenReg b && evenReg a && evenReg d
  | .vsfn _ _ _ _ _ _ => true
  | .vcvt _ _ dst src a d _ => !decide (dst = src) && (!decide (src = .f64) || evenReg a) && (!decide (dst = .f64) || evenReg d)
  | .smxu _ b _ d _ => !(decide (d.val ≤ b.val) && decide (b.val ≤ d.val + 2))
  | .smxf _ _ _ _ => true
  | .cmprs _ _ _ _ _ => true
  | .sadd _ _ _ _ => true
  | .ssub _ _ _ _ => true
  | .smul _ _ _ _ => true
  | .smulh _ _ _ _ _ => true
  | .sdiv _ _ _ _ _ => true
  | .srem _ _ _ _ _ => true
  | .sand _ _ _ _ => true
  | .sor _ _ _ _ => true
  | .sxor _ _ _ _ => true
  | .sshl _ _ _ _ => true
  | .sshr _ _ _ _ _ => true
  | .smin _ _ _ _ _ => true
  | .smax _ _ _ _ _ => true
  | .sbit _ _ _ _ => true
  | .smov _ _ _ => true
  | .scmp _ _ _ _ => true
  | .ssel _ _ _ _ _ => true
  | .saddImm _ _ _ _ => true
  | .sandImm _ _ _ _ => true
  | .sorImm _ _ _ _ => true
  | .sxorImm _ _ _ _ => true
  | .scmpImm _ _ _ _ => true
  | .sli _ _ _ _ => true
  | .smovV _ _ _ _ => true
  | .smovM _ _ _ => true
  | .smovCcRead _ _ => true
  | .smovCcWrite _ _ => true
  | .mlog _ _ _ _ _ => true
  | .mlogNot _ _ _ => true
  | .mcnt _ _ _ _ => true
  | .mset _ _ _ => true
  | .msetAll _ _ => true
  | .msetNone _ _ => true
  | .msetFirst _ _ => true
  | .br _ _ _ => true
  | .bmz _ _ _ _ => true
  | .call _ _ => true
  | .fork _ _ _ => true
  | .nop _ => true
  | .join _ => true
  | .exit _ => true
  | .killpt _ => true
  | .ret _ _ => true
  | .yieldWave _ _ _ => true
  | .rep _ _ _ _ _ _ => true
  | .ld _ _ w _ _ _ d _ => w.aligned d
  | .ldScalar _ _ w _ _ _ _ _ => !decide (w = .b128)
  | .st _ _ w _ _ _ d _ => w.aligned d
  | .stScalar _ _ w _ _ _ _ _ => !decide (w = .b128)
  | .lds _ w _ _ d _ => w.aligned d
  | .sts _ w _ _ d _ => w.aligned d
  | .ldp off w scalar _ d _ => paramOk off w scalar d
  | .atom _ wide op _ _ d _ => atomOk wide op d
  | .atomAr _ wide op _ _ d _ => atomOk wide op d
  | .atoms wide op _ d _ => atomOk wide op d
  | .fence _ _ _ => true
  | .waita _ _ _ _ _ _ => true
  | .cmake _ _ _ _ => true
  | .cnarrow _ _ _ _ _ => true
  | .cload _ _ _ _ => true
  | .cstore _ _ _ _ => true
  | .cinfo _ _ _ _ => true
  | .cpy _ p _ _ _ => blockOk p 3
  | .gath _ p _ _ => blockOk p 4
  | .bld _ p _ _ => blockOk p 3
  | .coll _ p _ _ _ => blockOk p 5
  | .ewait _ _ => true
  | .mma _ _ _ _ _ _ _ => true
  | .mmas _ _ _ _ _ _ _ => true
  | .mmac _ _ _ _ _ _ _ => true
  | .mmax _ _ _ _ _ _ _ => true
  | .aclr _ _ => true
  | .ald fmt v _ _ _ => !decide (fmt = .fp64) || evenReg v
  | .ast fmt v _ _ _ => !decide (fmt = .fp64) || evenReg v
  | .stga _ _ _ _ => true
  | .stgw _ _ _ _ => true
  | .post _ _ v _ _ => decide (v.val ≤ 50)
  | .resv _ _ _ _ => true
  | .publ _ _ _ => true
  | .autld _ _ _ _ => true
  | .autctl _ _ _ _ => true
  | .autq _ _ _ _ => true
  | .qopen _ _ _ => true
  | .qarr _ _ _ => true
  | .qstat _ _ _ => true
  | .qscale _ _ _ => true
  | .bar _ _ _ _ => true
  | .bara _ _ _ _ => true
  | .barw _ _ _ => true
  | .part _ _ => true
  | .trap _ _ => true
  | .rett _ => true
  | .mfsr _ _ _ => true
  | .mtsr _ _ _ => true
  | .oinv _ _ => true
  | .bkpt _ _ => true
  | .cntrd _ _ _ => true
  | .vaddH b d mk => !decide (b.val = 0) || !decide (d.val = 0) || mk
  | .vsubH _ _ _ => true
  | .vmulH _ _ _ => true
  | .vandH _ _ _ => true
  | .vorH _ _ _ => true
  | .vxorH _ _ _ => true
  | .vshlH _ _ _ => true
  | .vshrH _ _ _ => true
  | .vminH _ _ _ => true
  | .vmaxH _ _ _ => true
  | .vfaddH _ _ _ => true
  | .vfsubH _ _ _ => true
  | .vfmulH _ _ _ => true
  | .vfmaxH _ _ _ => true
  | .vfminH _ _ _ => true
  | .vmovH _ _ _ => true
  | .moduleReset => true
  | .hostTrafficBeforeRun => true
  | .hostMemAccess _ _ => true
  | .hostHeadStore _ _ => true
  | .hostTailCas _ _ _ => true
  | .oinvreq _ _ _ => true
  | .shootDownAck _ => true
  | .replay _ _ => true
  | .teamkill _ _ _ => true
  | .contextSave _ => true
  | .contextRestore _ => true
  | .contextTearDown _ => true
  | .preemptRequest _ _ _ => true
  | .forcedSave _ _ => true
  | .saveImageWrite _ => true
  | .debugStop _ => true
  | .debugStopComplete _ => true
  | .debugResume _ _ _ => true
  | .debugDump _ => true
  | .sampctlWrite _ => true
  | .cntselWrite _ _ _ _ => true
  | .registerWrite _ _ => true
  | .pcSample _ _ _ => true
  | .droopEvent _ _ => true
  | .droopRecovery _ _ => true
  | .podJoin _ _ _ => true
  | .podModuleLoss _ => true
  | .softError _ _ _ => true
  | .sectorFill _ _ _ _ _ => true
  | .sectorWriteback _ _ _ _ => true
  | .partialWrite _ _ _ => true
  | .l2Eviction _ _ => true
  | .tentativeStore _ _ => true
  | .storeQueueDrain _ _ => true
  | .walkerFill _ _ _ _ _ _ => true
  | .systemEventWrite _ _ => true
  | .ingestionStep _ _ _ => true
  | .timeout _ _ _ => true
  | .launch _ => true
  | .teamPlacement _ => true
  | .postRecordWrite _ _ => true
  | .waveRetire _ _ => true
  | .markerWaitComplete _ _ => true
  | .serviceEntry _ _ => true
  | .matrixPass _ _ _ _ _ => true
  | .mmaxStep _ _ _ _ => true
  | .accumulatorExecute _ _ => true
  | .engineAdmission _ _ _ => true
  | .engineCompletion _ _ _ => true
  | .engineFaultEnd _ _ _ => true
  | .collContribution _ => true
  | .collResultDelivery _ _ _ => true
  | .quorumArrival _ _ _ => true
  | .quorumDeadline _ _ => true
  | .killRequest _ _ _ => true
  | .codeObjectLoad _ _ => true
  | .unassignedEncoding => true
  | .fetchOutsideText => true
  | .companionMemAccess _ _ => true
  | .walaroRemoteRequest _ _ _ _ _ => true
  | .contextCreation _ _ => true
  | .moduleFlashWrite _ _ => true
  | .hostLinkTraining _ _ => true

end Sys2Proof
end

