-- ==== Sys2Proof/Decode.lean ====
section
/-! DEFINITION. Decoding of Malnex parcels (04_encoding) and the encoder written from the same tables. Decoding is
total: a pattern that 04_encoding assigns no instruction is refused with the cause of R94 and R95. Fields that only a
run can judge (POOLW.VREGS, privilege, a REP's target) are judged at issue, not here (R74). -/

namespace Sys2Proof

/-- Why a pattern is no instruction: the three causes the bits alone decide (R94, R95). -/
inductive DecodeErr where
  | illegalParcel | illegalOp | illegalField
deriving DecidableEq, Repr

/-- Bits [7:0] of a 32-bit instruction: the major, the marker and the length bit (R79). -/
def head32 (major : Nat) (mk : Bool) : Nat := 1 + 2 * bit mk + 4 * major

/-- The sum of field values, each at the lowest bit of its field. -/
def place : List (Nat × Nat) → Nat
  | [] => 0
  | (v, lo) :: fs => v * 2 ^ lo + place fs

/-- A 32-bit instruction: four bytes and its bits (R79). -/
def word32 (major : Nat) (mk : Bool) (fs : List (Nat × Nat)) : Option (Nat × Nat) :=
  some (4, head32 major mk + place fs)

/-- Bits [5:0] of a 16-bit parcel: the op and the marker (Table 4.1). -/
def head16 (op : Nat) (mk : Bool) : Nat := 2 * bit mk + 4 * op

/-- A 16-bit parcel: two bytes and its bits (Table 4.1). -/
def word16 (op : Nat) (mk : Bool) (d b : Fin 32) : Option (Nat × Nat) :=
  some (2, head16 op mk + place [(d.val, 6), (b.val, 11)])

/-- The bytes of an instruction and its bits (Tables 4.1 to 4.11); a step without an encoding has none. -/
def encode : Instr → Option (Nat × Nat)
  | .vadd t m b a d mk => word32 0x01 mk [(d.val, 8), (a.val, 14), (b.val, 20), (m.val, 26), (t.code, 29)]
  | .vsub t m b a d mk => word32 0x02 mk [(d.val, 8), (a.val, 14), (b.val, 20), (m.val, 26), (t.code, 29)]
  | .vmul t m b a d mk => word32 0x03 mk [(d.val, 8), (a.val, 14), (b.val, 20), (m.val, 26), (t.code, 29)]
  | .vmin t m b a d mk => word32 0x04 mk [(d.val, 8), (a.val, 14), (b.val, 20), (m.val, 26), (t.code, 29)]
  | .vmax t m b a d mk => word32 0x05 mk [(d.val, 8), (a.val, 14), (b.val, 20), (m.val, 26), (t.code, 29)]
  | .vshl t m b a d mk => word32 0x06 mk [(d.val, 8), (a.val, 14), (b.val, 20), (m.val, 26), (t.code, 29)]
  | .vshr t m b a d mk => word32 0x07 mk [(d.val, 8), (a.val, 14), (b.val, 20), (m.val, 26), (t.code, 29)]
  | .vand m b a d mk => word32 0x08 mk [(d.val, 8), (a.val, 14), (b.val, 20), (m.val, 26)]
  | .vor m b a d mk => word32 0x08 mk [(1, 29), (d.val, 8), (a.val, 14), (b.val, 20), (m.val, 26)]
  | .vxor m b a d mk => word32 0x08 mk [(2, 29), (d.val, 8), (a.val, 14), (b.val, 20), (m.val, 26)]
  | .vcmp t m b a c md mk => word32 0x09 mk [(md.val, 8), (c.code, 11), (a.val, 14), (b.val, 20), (m.val, 26), (t.code, 29)]
  | .vsel m b a d mk => word32 0x0A mk [(d.val, 8), (a.val, 14), (b.val, 20), (m.val, 26)]
  | .vmad c b a d mk => word32 0x0B mk [(d.val, 8), (a.val, 14), (b.val, 20), (c.val, 26)]
  | .vaddImm imm a d mk => word32 0x0C mk [(d.val, 8), (a.val, 14), (imm.toNat, 20)]
  | .vmov m a d mk => word32 0x0D mk [(d.val, 8), (a.val, 14), (m.val, 26)]
  | .vmovBcast m a d mk => word32 0x0D mk [(1, 20), (d.val, 8), (a.val, 14), (m.val, 26)]
  | .vmovMask m a d mk => word32 0x0D mk [(2, 20), (d.val, 8), (a.val, 14), (m.val, 26)]
  | .vidx m fn d mk => word32 0x0D mk [(d.val, 8), (fn.code, 20), (m.val, 26)]
  | .vbit t m fn a d mk => word32 0x0D mk [(8, 20), (d.val, 8), (a.val, 14), (fn.code, 20), (m.val, 26), (t.code, 29)]
  | .vshfl op m b a d mk => word32 0x0E mk [(d.val, 8), (a.val, 14), (b.val, 20), (m.val, 26), (op.code, 29)]
  | .vvote m op a d mk => word32 0x0F mk [(d.val, 8), (a.val, 14), (op.code, 20), (m.val, 26)]
  | .vred m op a d mk => word32 0x0F mk [(1, 29), (d.val, 8), (a.val, 14), (op.code, 20), (m.val, 26)]
  | .vscan excl m op a d mk => word32 0x0F mk [(2, 29), (d.val, 8), (a.val, 14), (op.code, 20), (m.val, 26), (bit excl, 29)]
  | .vfadd t m b a d mk => word32 0x10 mk [(d.val, 8), (a.val, 14), (b.val, 20), (m.val, 26), (t.code, 29)]
  | .vfsub t m b a d mk => word32 0x11 mk [(d.val, 8), (a.val, 14), (b.val, 20), (m.val, 26), (t.code, 29)]
  | .vfmul t m b a d mk => word32 0x12 mk [(d.val, 8), (a.val, 14), (b.val, 20), (m.val, 26), (t.code, 29)]
  | .vfmin t m b a d mk => word32 0x13 mk [(d.val, 8), (a.val, 14), (b.val, 20), (m.val, 26), (t.code, 29)]
  | .vfmax t m b a d mk => word32 0x14 mk [(d.val, 8), (a.val, 14), (b.val, 20), (m.val, 26), (t.code, 29)]
  | .vfcmp t m b a c md mk => word32 0x15 mk [(md.val, 8), (c.code, 11), (a.val, 14), (b.val, 20), (m.val, 26), (t.code, 29)]
  | .vfma c b a d mk => word32 0x16 mk [(d.val, 8), (a.val, 14), (b.val, 20), (c.val, 26)]
  | .vfmaF64 c b a d mk => word32 0x17 mk [(d.val, 8), (a.val, 14), (b.val, 20), (c.val, 26)]
  | .vsfn t m fn a d mk => word32 0x18 mk [(d.val, 8), (a.val, 14), (fn.code, 20), (m.val, 26), (t.code, 29)]
  | .vcvt rnd m dst src a d mk => word32 0x19 mk [(d.val, 8), (a.val, 14), (src.code, 20), (dst.code, 23), (m.val, 26), (rnd.code, 29)]
  | .smxu m b a d mk => word32 0x1A mk [(d.val, 8), (a.val, 14), (b.val, 20), (m.val, 26)]
  | .smxf m a d mk => word32 0x1A mk [(1, 29), (d.val, 8), (a.val, 14), (m.val, 26)]
  | .cmprs pat b a d mk => word32 0x1B mk [(d.val, 8), (a.val, 14), (b.val, 20), (pat.code, 29)]
  | .sadd b a d mk => word32 0x1C mk [(d.val, 8), (a.val, 14), (b.val, 20)]
  | .ssub b a d mk => word32 0x1C mk [(1, 26), (d.val, 8), (a.val, 14), (b.val, 20)]
  | .smul b a d mk => word32 0x1C mk [(2, 26), (d.val, 8), (a.val, 14), (b.val, 20)]
  | .smulh nat b a d mk => word32 0x1C mk [(3, 26), (d.val, 8), (a.val, 14), (b.val, 20), (bit nat, 26)]
  | .sdiv nat b a d mk => word32 0x1C mk [(5, 26), (d.val, 8), (a.val, 14), (b.val, 20), (bit nat, 26)]
  | .srem nat b a d mk => word32 0x1C mk [(7, 26), (d.val, 8), (a.val, 14), (b.val, 20), (bit nat, 26)]
  | .sand b a d mk => word32 0x1C mk [(9, 26), (d.val, 8), (a.val, 14), (b.val, 20)]
  | .sor b a d mk => word32 0x1C mk [(10, 26), (d.val, 8), (a.val, 14), (b.val, 20)]
  | .sxor b a d mk => word32 0x1C mk [(11, 26), (d.val, 8), (a.val, 14), (b.val, 20)]
  | .sshl b a d mk => word32 0x1C mk [(12, 26), (d.val, 8), (a.val, 14), (b.val, 20)]
  | .sshr arith b a d mk => word32 0x1C mk [(13, 26), (d.val, 8), (a.val, 14), (b.val, 20), (bit arith, 26)]
  | .smin nat b a d mk => word32 0x1C mk [(15, 26), (d.val, 8), (a.val, 14), (b.val, 20), (bit nat, 26)]
  | .smax nat b a d mk => word32 0x1C mk [(17, 26), (d.val, 8), (a.val, 14), (b.val, 20), (bit nat, 26)]
  | .sbit fn a d mk => word32 0x1C mk [(d.val, 8), (a.val, 14), (fn.code, 26)]
  | .smov a d mk => word32 0x1C mk [(23, 26), (d.val, 8), (a.val, 14)]
  | .scmp nat b a mk => word32 0x1C mk [(24, 26), (a.val, 14), (b.val, 20), (bit nat, 26)]
  | .ssel c b a d mk => word32 0x1C mk [(48, 26), (d.val, 8), (a.val, 14), (b.val, 20), (c.code, 26)]
  | .saddImm imm a d mk => word32 0x1D mk [(d.val, 8), (a.val, 14), (imm.toNat, 22)]
  | .sandImm imm a d mk => word32 0x1D mk [(1, 20), (d.val, 8), (a.val, 14), (imm.toNat, 22)]
  | .sorImm imm a d mk => word32 0x1D mk [(2, 20), (d.val, 8), (a.val, 14), (imm.toNat, 22)]
  | .sxorImm imm a d mk => word32 0x1D mk [(3, 20), (d.val, 8), (a.val, 14), (imm.toNat, 22)]
  | .scmpImm imm a nat mk => word32 0x1E mk [(bit nat, 8), (a.val, 14), (imm.toNat, 20)]
  | .sli imm h d mk => word32 0x1F mk [(d.val, 8), (h.val, 14), (imm.toNat, 16)]
  | .smovV lane a d mk => word32 0x20 mk [(d.val, 8), (a.val, 14), (lane.val, 20)]
  | .smovM a d mk => word32 0x20 mk [(1, 29), (d.val, 8), (a.val, 14)]
  | .smovCcRead d mk => word32 0x20 mk [(2, 29), (d.val, 8)]
  | .smovCcWrite a mk => word32 0x20 mk [(3, 29), (a.val, 14)]
  | .mlog op b a d mk => word32 0x21 mk [(d.val, 8), (a.val, 14), (b.val, 20), (op.code, 29)]
  | .mlogNot a d mk => word32 0x21 mk [(4, 29), (d.val, 8), (a.val, 14)]
  | .mcnt fn a d mk => word32 0x21 mk [(d.val, 8), (a.val, 14), (fn.code, 29)]
  | .mset a md mk => word32 0x22 mk [(md.val, 8), (a.val, 14)]
  | .msetAll md mk => word32 0x22 mk [(1, 29), (md.val, 8)]
  | .msetNone md mk => word32 0x22 mk [(2, 29), (md.val, 8)]
  | .msetFirst md mk => word32 0x22 mk [(3, 29), (md.val, 8)]
  | .br off c mk => word32 0x23 mk [(c.code, 8), (off.toNat, 12)]
  | .bmz off z m mk => word32 0x24 mk [(m.val, 8), (bit z, 11), (off.toNat, 12)]
  | .call off mk => word32 0x25 mk [(off.toNat, 8)]
  | .fork off m mk => word32 0x26 mk [(m.val, 8), (off.toNat, 12)]
  | .nop mk => word32 0x27 mk []
  | .join mk => word32 0x27 mk [(1, 8)]
  | .exit mk => word32 0x27 mk [(2, 8)]
  | .killpt mk => word32 0x27 mk [(3, 8)]
  | .ret t mk => word32 0x27 mk [(4, 8), (t.val, 12)]
  | .yieldWave u lm mk => word32 0x27 mk [(5, 8), (lm.val, 12), (bit u, 18)]
  | .rep stride stepB stepA stepD count mk => word32 0x28 mk [(count.val, 8), (bit stepD, 14), (bit stepA, 15), (bit stepB, 16), (stride.val, 17)]
  | .ld sc o w xs x k d mk => word32 0x29 mk [(d.val, 8), (k.val, 14), (x.val, 18), (bit xs, 24), (w.code, 25), (bit o, 28), (sc.code, 29)]
  | .ldScalar sc o w xs x k d mk => word32 0x2A mk [(d.val, 8), (k.val, 14), (x.val, 18), (bit xs, 24), (w.code, 25), (bit o, 28), (sc.code, 29)]
  | .st sc o w xs x k d mk => word32 0x2B mk [(d.val, 8), (k.val, 14), (x.val, 18), (bit xs, 24), (w.code, 25), (bit o, 28), (sc.code, 29)]
  | .stScalar sc o w xs x k d mk => word32 0x2C mk [(d.val, 8), (k.val, 14), (x.val, 18), (bit xs, 24), (w.code, 25), (bit o, 28), (sc.code, 29)]
  | .lds off w xs x d mk => word32 0x2D mk [(d.val, 8), (x.val, 14), (bit xs, 20), (w.code, 22), (off.val, 25)]
  | .sts off w xs x d mk => word32 0x2D mk [(1, 21), (d.val, 8), (x.val, 14), (bit xs, 20), (w.code, 22), (off.val, 25)]
  | .ldp off w scalar p d mk => word32 0x2E mk [(d.val, 8), (p.val, 14), (bit scalar, 17), (w.code, 18), (off.toNat, 20)]
  | .atom sc wide op x k d mk => word32 0x2F mk [(d.val, 8), (k.val, 14), (x.val, 18), (op.code, 24), (bit wide, 28), (sc.code, 29)]
  | .atomAr sc wide op x k d mk => word32 0x30 mk [(d.val, 8), (k.val, 14), (x.val, 18), (op.code, 24), (bit wide, 28), (sc.code, 29)]
  | .atoms wide op x d mk => word32 0x31 mk [(d.val, 8), (x.val, 14), (op.code, 20), (bit wide, 24)]
  | .fence sc kind mk => word32 0x32 mk [(kind.code, 12), (sc.code, 29)]
  | .waita sc eq b a k mk => word32 0x32 mk [(1, 8), (k.val, 12), (a.val, 16), (b.val, 22), (bit eq, 28), (sc.code, 29)]
  | .cmake b a kd mk => word32 0x33 mk [(kd.val, 12), (a.val, 20), (b.val, 26)]
  | .cnarrow b a ks kd mk => word32 0x33 mk [(1, 8), (kd.val, 12), (ks.val, 16), (a.val, 20), (b.val, 26)]
  | .cload a ks kd mk => word32 0x33 mk [(2, 8), (kd.val, 12), (ks.val, 16), (a.val, 20)]
  | .cstore a ks kd mk => word32 0x33 mk [(3, 8), (kd.val, 12), (ks.val, 16), (a.val, 20)]
  | .cinfo sel a ks mk => word32 0x33 mk [(4, 8), (ks.val, 16), (a.val, 20), (sel.code, 26)]
  | .cpy t p ks kd mk => word32 0x34 mk [(kd.val, 12), (ks.val, 16), (p.val, 20), (t.val, 26)]
  | .gath t p ks mk => word32 0x34 mk [(1, 8), (ks.val, 16), (p.val, 20), (t.val, 26)]
  | .bld t p ks mk => word32 0x34 mk [(2, 8), (ks.val, 16), (p.val, 20), (t.val, 26)]
  | .coll t p ks kd mk => word32 0x34 mk [(3, 8), (kd.val, 12), (ks.val, 16), (p.val, 20), (t.val, 26)]
  | .ewait t mk => word32 0x34 mk [(4, 8), (t.val, 26)]
  | .mma ac p fw sb rg t mk => word32 0x35 mk [(t.val, 8), (rg.val, 12), (sb.val, 15), (fw.val, 21), (bit p, 27), (bit ac, 28)]
  | .mmas ac p fw sb rg t mk => word32 0x35 mk [(1, 29), (t.val, 8), (rg.val, 12), (sb.val, 15), (fw.val, 21), (bit p, 27), (bit ac, 28)]
  | .mmac ac p fw sb rg t mk => word32 0x35 mk [(2, 29), (t.val, 8), (rg.val, 12), (sb.val, 15), (fw.val, 21), (bit p, 27), (bit ac, 28)]
  | .mmax ac p fw sb rg t mk => word32 0x35 mk [(3, 29), (t.val, 8), (rg.val, 12), (sb.val, 15), (fw.val, 21), (bit p, 27), (bit ac, 28)]
  | .aclr t mk => word32 0x36 mk [(t.val, 8)]
  | .ald fmt v rg t mk => word32 0x36 mk [(1, 29), (t.val, 8), (rg.val, 12), (v.val, 15), (fmt.code, 21)]
  | .ast fmt v rg t mk => word32 0x36 mk [(2, 29), (t.val, 8), (rg.val, 12), (v.val, 15), (fmt.code, 21)]
  | .stga ph sl rg mk => word32 0x37 mk [(rg.val, 12), (sl.val, 15), (bit ph, 21)]
  | .stgw ph sl rg mk => word32 0x37 mk [(1, 8), (rg.val, 12), (sl.val, 15), (bit ph, 21)]
  | .post mode y v k mk => word32 0x38 mk [(k.val, 12), (v.val, 16), (y.val, 22), (mode.code, 28)]
  | .resv y v k mk => word32 0x38 mk [(1, 8), (k.val, 12), (v.val, 16), (y.val, 22)]
  | .publ v k mk => word32 0x38 mk [(2, 8), (k.val, 12), (v.val, 16)]
  | .autld b a k mk => word32 0x39 mk [(k.val, 12), (a.val, 16), (b.val, 22)]
  | .autctl op b a mk => word32 0x39 mk [(1, 8), (a.val, 16), (b.val, 22), (op.code, 28)]
  | .autq q b a mk => word32 0x39 mk [(2, 8), (a.val, 16), (b.val, 22), (q.code, 28)]
  | .qopen a k mk => word32 0x3A mk [(k.val, 12), (a.val, 16)]
  | .qarr b a mk => word32 0x3A mk [(1, 8), (a.val, 16), (b.val, 22)]
  | .qstat b a mk => word32 0x3A mk [(2, 8), (a.val, 16), (b.val, 22)]
  | .qscale b a mk => word32 0x3A mk [(3, 8), (a.val, 16), (b.val, 22)]
  | .bar cnt sc id mk => word32 0x3B mk [(id.val, 12), (sc.code, 17), (cnt.val, 20)]
  | .bara cnt sc id mk => word32 0x3B mk [(1, 8), (id.val, 12), (sc.code, 17), (cnt.val, 20)]
  | .barw sc id mk => word32 0x3B mk [(2, 8), (id.val, 12), (sc.code, 17)]
  | .part t mk => word32 0x3B mk [(3, 8), (t.code, 26)]
  | .trap code mk => word32 0x3C mk [(code.val, 12)]
  | .rett mk => word32 0x3C mk [(1, 8)]
  | .mfsr n d mk => word32 0x3C mk [(2, 8), (d.val, 12), (n.code, 18)]
  | .mtsr n d mk => word32 0x3C mk [(3, 8), (d.val, 12), (n.code, 18)]
  | .oinv d mk => word32 0x3C mk [(4, 8), (d.val, 12)]
  | .bkpt code mk => word32 0x3C mk [(5, 8), (code.val, 12)]
  | .cntrd n d mk => word32 0x3C mk [(6, 8), (d.val, 12), (n.val, 18)]
  | .vaddH b d mk => word16 0 mk d b
  | .vsubH b d mk => word16 1 mk d b
  | .vmulH b d mk => word16 2 mk d b
  | .vandH b d mk => word16 3 mk d b
  | .vorH b d mk => word16 4 mk d b
  | .vxorH b d mk => word16 5 mk d b
  | .vshlH b d mk => word16 6 mk d b
  | .vshrH b d mk => word16 7 mk d b
  | .vminH b d mk => word16 8 mk d b
  | .vmaxH b d mk => word16 9 mk d b
  | .vfaddH b d mk => word16 10 mk d b
  | .vfsubH b d mk => word16 11 mk d b
  | .vfmulH b d mk => word16 12 mk d b
  | .vfmaxH b d mk => word16 13 mk d b
  | .vfminH b d mk => word16 14 mk d b
  | .vmovH b d mk => word16 15 mk d b
  | .moduleReset => none
  | .hostTrafficBeforeRun => none
  | .hostMemAccess _ _ => none
  | .hostHeadStore _ _ => none
  | .hostTailCas _ _ _ => none
  | .oinvreq _ _ _ => none
  | .shootDownAck _ => none
  | .replay _ _ => none
  | .teamkill _ _ _ => none
  | .contextSave _ => none
  | .contextRestore _ => none
  | .contextTearDown _ => none
  | .preemptRequest _ _ _ => none
  | .forcedSave _ _ => none
  | .saveImageWrite _ => none
  | .debugStop _ => none
  | .debugStopComplete _ => none
  | .debugResume _ _ _ => none
  | .debugDump _ => none
  | .sampctlWrite _ => none
  | .cntselWrite _ _ _ _ => none
  | .registerWrite _ _ => none
  | .pcSample _ _ _ => none
  | .droopEvent _ _ => none
  | .droopRecovery _ _ => none
  | .podJoin _ _ _ => none
  | .podModuleLoss _ => none
  | .softError _ _ _ => none
  | .sectorFill _ _ _ _ _ => none
  | .sectorWriteback _ _ _ _ => none
  | .partialWrite _ _ _ => none
  | .l2Eviction _ _ => none
  | .tentativeStore _ _ => none
  | .storeQueueDrain _ _ => none
  | .walkerFill _ _ _ _ _ _ => none
  | .systemEventWrite _ _ => none
  | .ingestionStep _ _ _ => none
  | .timeout _ _ _ => none
  | .launch _ => none
  | .teamPlacement _ => none
  | .postRecordWrite _ _ => none
  | .waveRetire _ _ => none
  | .markerWaitComplete _ _ => none
  | .serviceEntry _ _ => none
  | .matrixPass _ _ _ _ _ => none
  | .mmaxStep _ _ _ _ => none
  | .accumulatorExecute _ _ => none
  | .engineAdmission _ _ _ => none
  | .engineCompletion _ _ _ => none
  | .engineFaultEnd _ _ _ => none
  | .collContribution _ => none
  | .collResultDelivery _ _ _ => none
  | .quorumArrival _ _ _ => none
  | .quorumDeadline _ _ => none
  | .killRequest _ _ _ => none
  | .codeObjectLoad _ _ => none
  | .unassignedEncoding => none
  | .fetchOutsideText => none
  | .companionMemAccess _ _ => none
  | .walaroRemoteRequest _ _ _ _ _ => none
  | .contextCreation _ _ => none
  | .moduleFlashWrite _ _ => none
  | .hostLinkTraining _ _ => none

/-- Major 0x01: VADD. -/
def decodeMaj01 (wd : Nat) : Option Instr :=
  do
    let t ← IntType.ofCode (field wd 29 3)
    pure (.vadd t (fieldFin 8 wd 26) (fieldFin 64 wd 20) (fieldFin 64 wd 14) (fieldFin 64 wd 8) (fieldBit wd 1))

/-- Major 0x02: VSUB. -/
def decodeMaj02 (wd : Nat) : Option Instr :=
  do
    let t ← IntType.ofCode (field wd 29 3)
    pure (.vsub t (fieldFin 8 wd 26) (fieldFin 64 wd 20) (fieldFin 64 wd 14) (fieldFin 64 wd 8) (fieldBit wd 1))

/-- Major 0x03: VMUL. -/
def decodeMaj03 (wd : Nat) : Option Instr :=
  do
    let t ← IntType.ofCode (field wd 29 3)
    pure (.vmul t (fieldFin 8 wd 26) (fieldFin 64 wd 20) (fieldFin 64 wd 14) (fieldFin 64 wd 8) (fieldBit wd 1))

/-- Major 0x04: VMIN. -/
def decodeMaj04 (wd : Nat) : Option Instr :=
  do
    let t ← IntType.ofCode (field wd 29 3)
    pure (.vmin t (fieldFin 8 wd 26) (fieldFin 64 wd 20) (fieldFin 64 wd 14) (fieldFin 64 wd 8) (fieldBit wd 1))

/-- Major 0x05: VMAX. -/
def decodeMaj05 (wd : Nat) : Option Instr :=
  do
    let t ← IntType.ofCode (field wd 29 3)
    pure (.vmax t (fieldFin 8 wd 26) (fieldFin 64 wd 20) (fieldFin 64 wd 14) (fieldFin 64 wd 8) (fieldBit wd 1))

/-- Major 0x06: VSHL. -/
def decodeMaj06 (wd : Nat) : Option Instr :=
  do
    let t ← IntType.ofCode (field wd 29 3)
    pure (.vshl t (fieldFin 8 wd 26) (fieldFin 64 wd 20) (fieldFin 64 wd 14) (fieldFin 64 wd 8) (fieldBit wd 1))

/-- Major 0x07: VSHR. -/
def decodeMaj07 (wd : Nat) : Option Instr :=
  do
    let t ← IntType.ofCode (field wd 29 3)
    pure (.vshr t (fieldFin 8 wd 26) (fieldFin 64 wd 20) (fieldFin 64 wd 14) (fieldFin 64 wd 8) (fieldBit wd 1))

/-- Major 0x08: VAND, VOR, VXOR. -/
def decodeMaj08 (wd : Nat) : Option Instr :=
  if field wd 29 3 == 0 then some (.vand (fieldFin 8 wd 26) (fieldFin 64 wd 20) (fieldFin 64 wd 14) (fieldFin 64 wd 8) (fieldBit wd 1))
  else if field wd 29 3 == 1 then some (.vor (fieldFin 8 wd 26) (fieldFin 64 wd 20) (fieldFin 64 wd 14) (fieldFin 64 wd 8) (fieldBit wd 1))
  else if field wd 29 3 == 2 then some (.vxor (fieldFin 8 wd 26) (fieldFin 64 wd 20) (fieldFin 64 wd 14) (fieldFin 64 wd 8) (fieldBit wd 1))
  else none

/-- Major 0x09: VCMP. -/
def decodeMaj09 (wd : Nat) : Option Instr :=
  do
    let t ← IntType.ofCode (field wd 29 3)
    let c ← CmpCond.ofCode (field wd 11 3)
    pure (.vcmp t (fieldFin 8 wd 26) (fieldFin 64 wd 20) (fieldFin 64 wd 14) c (fieldFin 8 wd 8) (fieldBit wd 1))

/-- Major 0x0A: VSEL. -/
def decodeMaj0A (wd : Nat) : Option Instr :=
  if field wd 29 3 == 0 then some (.vsel (fieldFin 8 wd 26) (fieldFin 64 wd 20) (fieldFin 64 wd 14) (fieldFin 64 wd 8) (fieldBit wd 1))
  else none

/-- Major 0x0B: VMAD. -/
def decodeMaj0B (wd : Nat) : Option Instr :=
  some (.vmad (fieldFin 64 wd 26) (fieldFin 64 wd 20) (fieldFin 64 wd 14) (fieldFin 64 wd 8) (fieldBit wd 1))

/-- Major 0x0C: VADD_IMM. -/
def decodeMaj0C (wd : Nat) : Option Instr :=
  some (.vaddImm (BitVec.ofNat 12 (wd / 2 ^ 20)) (fieldFin 64 wd 14) (fieldFin 64 wd 8) (fieldBit wd 1))

/-- Major 0x0D: VMOV, VMOV_BCAST, VMOV_MASK, VBIT, VIDX. -/
def decodeMaj0D (wd : Nat) : Option Instr :=
  if field wd 29 3 == 0 && field wd 20 6 == 0 then some (.vmov (fieldFin 8 wd 26) (fieldFin 64 wd 14) (fieldFin 64 wd 8) (fieldBit wd 1))
  else if field wd 29 3 == 0 && field wd 20 6 == 1 then some (.vmovBcast (fieldFin 8 wd 26) (fieldFin 64 wd 14) (fieldFin 64 wd 8) (fieldBit wd 1))
  else if field wd 29 3 == 0 && field wd 20 6 == 2 && decide (field wd 14 6 < 8) then some (.vmovMask (fieldFin 8 wd 26) (fieldFin 8 wd 14) (fieldFin 64 wd 8) (fieldBit wd 1))
  else if decide (8 ≤ field wd 20 6) then do
      let t ← IntType.ofCode (field wd 29 3)
      let fn ← VBitFn.ofCode (field wd 20 6 - 8)
      pure (.vbit t (fieldFin 8 wd 26) fn (fieldFin 64 wd 14) (fieldFin 64 wd 8) (fieldBit wd 1))
  else if field wd 29 3 == 0 && field wd 14 6 == 0 then do
      let fn ← LaneIndex.ofCode (field wd 20 6)
      pure (.vidx (fieldFin 8 wd 26) fn (fieldFin 64 wd 8) (fieldBit wd 1))
  else none

/-- Major 0x0E: VSHFL. -/
def decodeMaj0E (wd : Nat) : Option Instr :=
  do
    let op ← ShflOp.ofCode (field wd 29 3)
    pure (.vshfl op (fieldFin 8 wd 26) (fieldFin 64 wd 20) (fieldFin 64 wd 14) (fieldFin 64 wd 8) (fieldBit wd 1))

/-- Major 0x0F: VVOTE, VRED, VSCAN. -/
def decodeMaj0F (wd : Nat) : Option Instr :=
  if field wd 29 3 == 0 then do
      let op ← VoteOp.ofCode (field wd 20 6)
      pure (.vvote (fieldFin 8 wd 26) op (fieldFin 64 wd 14) (fieldFin 64 wd 8) (fieldBit wd 1))
  else if field wd 29 3 == 1 then do
      let op ← RedOp.ofCode (field wd 20 6)
      pure (.vred (fieldFin 8 wd 26) op (fieldFin 64 wd 14) (fieldFin 64 wd 8) (fieldBit wd 1))
  else if field wd 30 2 == 1 then do
      let op ← RedOp.ofCode (field wd 20 6)
      pure (.vscan (fieldBit wd 29) (fieldFin 8 wd 26) op (fieldFin 64 wd 14) (fieldFin 64 wd 8) (fieldBit wd 1))
  else none

/-- Major 0x10: VFADD. -/
def decodeMaj10 (wd : Nat) : Option Instr :=
  do
    let t ← FltType.ofCode (field wd 29 3)
    pure (.vfadd t (fieldFin 8 wd 26) (fieldFin 64 wd 20) (fieldFin 64 wd 14) (fieldFin 64 wd 8) (fieldBit wd 1))

/-- Major 0x11: VFSUB. -/
def decodeMaj11 (wd : Nat) : Option Instr :=
  do
    let t ← FltType.ofCode (field wd 29 3)
    pure (.vfsub t (fieldFin 8 wd 26) (fieldFin 64 wd 20) (fieldFin 64 wd 14) (fieldFin 64 wd 8) (fieldBit wd 1))

/-- Major 0x12: VFMUL. -/
def decodeMaj12 (wd : Nat) : Option Instr :=
  do
    let t ← FltType.ofCode (field wd 29 3)
    pure (.vfmul t (fieldFin 8 wd 26) (fieldFin 64 wd 20) (fieldFin 64 wd 14) (fieldFin 64 wd 8) (fieldBit wd 1))

/-- Major 0x13: VFMIN. -/
def decodeMaj13 (wd : Nat) : Option Instr :=
  do
    let t ← FltType.ofCode (field wd 29 3)
    pure (.vfmin t (fieldFin 8 wd 26) (fieldFin 64 wd 20) (fieldFin 64 wd 14) (fieldFin 64 wd 8) (fieldBit wd 1))

/-- Major 0x14: VFMAX. -/
def decodeMaj14 (wd : Nat) : Option Instr :=
  do
    let t ← FltType.ofCode (field wd 29 3)
    pure (.vfmax t (fieldFin 8 wd 26) (fieldFin 64 wd 20) (fieldFin 64 wd 14) (fieldFin 64 wd 8) (fieldBit wd 1))

/-- Major 0x15: VFCMP. -/
def decodeMaj15 (wd : Nat) : Option Instr :=
  do
    let t ← FltType.ofCode (field wd 29 3)
    let c ← CmpCond.ofCode (field wd 11 3)
    pure (.vfcmp t (fieldFin 8 wd 26) (fieldFin 64 wd 20) (fieldFin 64 wd 14) c (fieldFin 8 wd 8) (fieldBit wd 1))

/-- Major 0x16: VFMA. -/
def decodeMaj16 (wd : Nat) : Option Instr :=
  some (.vfma (fieldFin 64 wd 26) (fieldFin 64 wd 20) (fieldFin 64 wd 14) (fieldFin 64 wd 8) (fieldBit wd 1))

/-- Major 0x17: VFMA_F64. -/
def decodeMaj17 (wd : Nat) : Option Instr :=
  some (.vfmaF64 (fieldFin 64 wd 26) (fieldFin 64 wd 20) (fieldFin 64 wd 14) (fieldFin 64 wd 8) (fieldBit wd 1))

/-- Major 0x18: VSFN. -/
def decodeMaj18 (wd : Nat) : Option Instr :=
  do
    let t ← SfnType.ofCode (field wd 29 3)
    let fn ← SfnOp.ofCode (field wd 20 6)
    pure (.vsfn t (fieldFin 8 wd 26) fn (fieldFin 64 wd 14) (fieldFin 64 wd 8) (fieldBit wd 1))

/-- Major 0x19: VCVT. -/
def decodeMaj19 (wd : Nat) : Option Instr :=
  do
    let rnd ← CvtRound.ofCode (field wd 29 3)
    let dst ← CvtFmt.ofCode (field wd 23 3)
    let src ← CvtFmt.ofCode (field wd 20 3)
    pure (.vcvt rnd (fieldFin 8 wd 26) dst src (fieldFin 64 wd 14) (fieldFin 64 wd 8) (fieldBit wd 1))

/-- Major 0x1A: SMXU, SMXF. -/
def decodeMaj1A (wd : Nat) : Option Instr :=
  if field wd 29 3 == 0 then some (.smxu (fieldFin 8 wd 26) (fieldFin 64 wd 20) (fieldFin 64 wd 14) (fieldFin 64 wd 8) (fieldBit wd 1))
  else if field wd 29 3 == 1 && field wd 20 6 == 0 then some (.smxf (fieldFin 8 wd 26) (fieldFin 64 wd 14) (fieldFin 64 wd 8) (fieldBit wd 1))
  else none

/-- Major 0x1B: CMPRS. -/
def decodeMaj1B (wd : Nat) : Option Instr :=
  if field wd 26 3 == 0 then do
      let pat ← SparsePat.ofCode (field wd 29 3)
      pure (.cmprs pat (fieldFin 64 wd 20) (fieldFin 64 wd 14) (fieldFin 64 wd 8) (fieldBit wd 1))
  else none

/-- Major 0x1C: SADD, SSUB, SMUL, SMULH, SDIV, SREM, SAND, SOR, SXOR, SSHL, SSHR, SMIN, SMAX, SMOV, SCMP, SSEL, SBIT. -/
def decodeMaj1C (wd : Nat) : Option Instr :=
  if field wd 26 6 == 0 then some (.sadd (fieldFin 64 wd 20) (fieldFin 64 wd 14) (fieldFin 64 wd 8) (fieldBit wd 1))
  else if field wd 26 6 == 1 then some (.ssub (fieldFin 64 wd 20) (fieldFin 64 wd 14) (fieldFin 64 wd 8) (fieldBit wd 1))
  else if field wd 26 6 == 2 then some (.smul (fieldFin 64 wd 20) (fieldFin 64 wd 14) (fieldFin 64 wd 8) (fieldBit wd 1))
  else if field wd 26 6 == 3 || field wd 26 6 == 4 then some (.smulh (fieldBit wd 26 == false) (fieldFin 64 wd 20) (fieldFin 64 wd 14) (fieldFin 64 wd 8) (fieldBit wd 1))
  else if field wd 26 6 == 5 || field wd 26 6 == 6 then some (.sdiv (fieldBit wd 26 == false) (fieldFin 64 wd 20) (fieldFin 64 wd 14) (fieldFin 64 wd 8) (fieldBit wd 1))
  else if field wd 26 6 == 7 || field wd 26 6 == 8 then some (.srem (fieldBit wd 26 == false) (fieldFin 64 wd 20) (fieldFin 64 wd 14) (fieldFin 64 wd 8) (fieldBit wd 1))
  else if field wd 26 6 == 9 then some (.sand (fieldFin 64 wd 20) (fieldFin 64 wd 14) (fieldFin 64 wd 8) (fieldBit wd 1))
  else if field wd 26 6 == 10 then some (.sor (fieldFin 64 wd 20) (fieldFin 64 wd 14) (fieldFin 64 wd 8) (fieldBit wd 1))
  else if field wd 26 6 == 11 then some (.sxor (fieldFin 64 wd 20) (fieldFin 64 wd 14) (fieldFin 64 wd 8) (fieldBit wd 1))
  else if field wd 26 6 == 12 then some (.sshl (fieldFin 64 wd 20) (fieldFin 64 wd 14) (fieldFin 64 wd 8) (fieldBit wd 1))
  else if field wd 26 6 == 13 || field wd 26 6 == 14 then some (.sshr (fieldBit wd 26 == false) (fieldFin 64 wd 20) (fieldFin 64 wd 14) (fieldFin 64 wd 8) (fieldBit wd 1))
  else if field wd 26 6 == 15 || field wd 26 6 == 16 then some (.smin (fieldBit wd 26 == false) (fieldFin 64 wd 20) (fieldFin 64 wd 14) (fieldFin 64 wd 8) (fieldBit wd 1))
  else if field wd 26 6 == 17 || field wd 26 6 == 18 then some (.smax (fieldBit wd 26 == false) (fieldFin 64 wd 20) (fieldFin 64 wd 14) (fieldFin 64 wd 8) (fieldBit wd 1))
  else if field wd 26 6 == 23 && field wd 20 6 == 0 then some (.smov (fieldFin 64 wd 14) (fieldFin 64 wd 8) (fieldBit wd 1))
  else if (field wd 26 6 == 24 || field wd 26 6 == 25) && field wd 8 6 == 0 then some (.scmp (fieldBit wd 26) (fieldFin 64 wd 20) (fieldFin 64 wd 14) (fieldBit wd 1))
  else if decide (48 ≤ field wd 26 6) then do
      let c ← BrCond.ofCode (field wd 26 6 - 48)
      pure (.ssel c (fieldFin 64 wd 20) (fieldFin 64 wd 14) (fieldFin 64 wd 8) (fieldBit wd 1))
  else if field wd 20 6 == 0 then do
      let fn ← SBitFn.ofCode (field wd 26 6)
      pure (.sbit fn (fieldFin 64 wd 14) (fieldFin 64 wd 8) (fieldBit wd 1))
  else none

/-- Major 0x1D: SADD_IMM, SAND_IMM, SOR_IMM, SXOR_IMM. -/
def decodeMaj1D (wd : Nat) : Option Instr :=
  if field wd 20 2 == 0 then some (.saddImm (BitVec.ofNat 10 (wd / 2 ^ 22)) (fieldFin 64 wd 14) (fieldFin 64 wd 8) (fieldBit wd 1))
  else if field wd 20 2 == 1 then some (.sandImm (BitVec.ofNat 10 (wd / 2 ^ 22)) (fieldFin 64 wd 14) (fieldFin 64 wd 8) (fieldBit wd 1))
  else if field wd 20 2 == 2 then some (.sorImm (BitVec.ofNat 10 (wd / 2 ^ 22)) (fieldFin 64 wd 14) (fieldFin 64 wd 8) (fieldBit wd 1))
  else if field wd 20 2 == 3 then some (.sxorImm (BitVec.ofNat 10 (wd / 2 ^ 22)) (fieldFin 64 wd 14) (fieldFin 64 wd 8) (fieldBit wd 1))
  else none

/-- Major 0x1E: SCMP_IMM. -/
def decodeMaj1E (wd : Nat) : Option Instr :=
  if field wd 9 5 == 0 then some (.scmpImm (BitVec.ofNat 12 (wd / 2 ^ 20)) (fieldFin 64 wd 14) (fieldBit wd 8) (fieldBit wd 1))
  else none

/-- Major 0x1F: SLI. -/
def decodeMaj1F (wd : Nat) : Option Instr :=
  some (.sli (BitVec.ofNat 16 (wd / 2 ^ 16)) (fieldFin 4 wd 14) (fieldFin 64 wd 8) (fieldBit wd 1))

/-- Major 0x20: SMOV_V, SMOV_M, SMOV_CC_READ, SMOV_CC_WRITE. -/
def decodeMaj20 (wd : Nat) : Option Instr :=
  if field wd 29 3 == 0 && field wd 26 3 == 0 && decide (field wd 20 6 < 32) then some (.smovV (fieldFin 32 wd 20) (fieldFin 64 wd 14) (fieldFin 64 wd 8) (fieldBit wd 1))
  else if field wd 29 3 == 1 && field wd 20 9 == 0 && decide (field wd 14 6 < 8) then some (.smovM (fieldFin 8 wd 14) (fieldFin 64 wd 8) (fieldBit wd 1))
  else if field wd 29 3 == 2 && field wd 14 15 == 0 then some (.smovCcRead (fieldFin 64 wd 8) (fieldBit wd 1))
  else if field wd 29 3 == 3 && field wd 20 9 == 0 && field wd 8 6 == 0 then some (.smovCcWrite (fieldFin 64 wd 14) (fieldBit wd 1))
  else none

/-- Major 0x21: MLOG, MLOG_NOT, MCNT. -/
def decodeMaj21 (wd : Nat) : Option Instr :=
  if field wd 31 1 == 0 && field wd 26 3 == 0 && decide (field wd 8 6 < 8) && decide (field wd 14 6 < 8) && decide (field wd 20 6 < 8) then do
      let op ← MaskOp.ofCode (field wd 29 2)
      pure (.mlog op (fieldFin 8 wd 20) (fieldFin 8 wd 14) (fieldFin 8 wd 8) (fieldBit wd 1))
  else if field wd 29 3 == 4 && field wd 20 9 == 0 && decide (field wd 8 6 < 8) && decide (field wd 14 6 < 8) then some (.mlogNot (fieldFin 8 wd 14) (fieldFin 8 wd 8) (fieldBit wd 1))
  else if field wd 20 9 == 0 && decide (field wd 14 6 < 8) then do
      let fn ← MaskCount.ofCode (field wd 29 3)
      pure (.mcnt fn (fieldFin 8 wd 14) (fieldFin 64 wd 8) (fieldBit wd 1))
  else none

/-- Major 0x22: MSET, MSET_ALL, MSET_NONE, MSET_FIRST. -/
def decodeMaj22 (wd : Nat) : Option Instr :=
  if field wd 29 3 == 0 && field wd 20 9 == 0 && field wd 11 3 == 0 then some (.mset (fieldFin 64 wd 14) (fieldFin 8 wd 8) (fieldBit wd 1))
  else if field wd 11 21 == 1 * 2 ^ 18 then some (.msetAll (fieldFin 8 wd 8) (fieldBit wd 1))
  else if field wd 11 21 == 2 * 2 ^ 18 then some (.msetNone (fieldFin 8 wd 8) (fieldBit wd 1))
  else if field wd 11 21 == 3 * 2 ^ 18 then some (.msetFirst (fieldFin 8 wd 8) (fieldBit wd 1))
  else none

/-- Major 0x23: BR. -/
def decodeMaj23 (wd : Nat) : Option Instr :=
  do
    let c ← BrCond.ofCode (field wd 8 4)
    pure (.br (BitVec.ofNat 20 (wd / 2 ^ 12)) c (fieldBit wd 1))

/-- Major 0x24: BMZ. -/
def decodeMaj24 (wd : Nat) : Option Instr :=
  some (.bmz (BitVec.ofNat 20 (wd / 2 ^ 12)) (fieldBit wd 11) (fieldFin 8 wd 8) (fieldBit wd 1))

/-- Major 0x25: CALL. -/
def decodeMaj25 (wd : Nat) : Option Instr :=
  some (.call (BitVec.ofNat 24 (wd / 2 ^ 8)) (fieldBit wd 1))

/-- Major 0x26: FORK. -/
def decodeMaj26 (wd : Nat) : Option Instr :=
  if field wd 11 1 == 0 then some (.fork (BitVec.ofNat 20 (wd / 2 ^ 12)) (fieldFin 8 wd 8) (fieldBit wd 1))
  else none

/-- Major 0x27: NOP, JOIN, EXIT, KILLPT, RET, YIELD. -/
def decodeMaj27 (wd : Nat) : Option Instr :=
  if field wd 8 24 == 0 then some (.nop (fieldBit wd 1))
  else if field wd 8 24 == 1 then some (.join (fieldBit wd 1))
  else if field wd 8 24 == 2 then some (.exit (fieldBit wd 1))
  else if field wd 8 24 == 3 then some (.killpt (fieldBit wd 1))
  else if field wd 8 4 == 4 && field wd 18 14 == 0 then some (.ret (fieldFin 64 wd 12) (fieldBit wd 1))
  else if field wd 8 4 == 5 && field wd 19 13 == 0 then some (.yieldWave (fieldBit wd 18) (fieldFin 64 wd 12) (fieldBit wd 1))
  else none

/-- Major 0x28: REP. -/
def decodeMaj28 (wd : Nat) : Option Instr :=
  if field wd 19 13 == 0 then some (.rep (fieldFin 4 wd 17) (fieldBit wd 16) (fieldBit wd 15) (fieldBit wd 14) (fieldFin 64 wd 8) (fieldBit wd 1))
  else none

/-- Major 0x29: LD. -/
def decodeMaj29 (wd : Nat) : Option Instr :=
  do
    let sc ← Scope.ofCode (field wd 29 3)
    let w ← Width.ofCode (field wd 25 3)
    pure (.ld sc (fieldBit wd 28) w (fieldBit wd 24) (fieldFin 64 wd 18) (fieldFin 16 wd 14) (fieldFin 64 wd 8) (fieldBit wd 1))

/-- Major 0x2A: LD_SCALAR. -/
def decodeMaj2A (wd : Nat) : Option Instr :=
  do
    let sc ← Scope.ofCode (field wd 29 3)
    let w ← Width.ofCode (field wd 25 3)
    pure (.ldScalar sc (fieldBit wd 28) w (fieldBit wd 24) (fieldFin 64 wd 18) (fieldFin 16 wd 14) (fieldFin 64 wd 8) (fieldBit wd 1))

/-- Major 0x2B: ST. -/
def decodeMaj2B (wd : Nat) : Option Instr :=
  do
    let sc ← Scope.ofCode (field wd 29 3)
    let w ← Width.ofCode (field wd 25 3)
    pure (.st sc (fieldBit wd 28) w (fieldBit wd 24) (fieldFin 64 wd 18) (fieldFin 16 wd 14) (fieldFin 64 wd 8) (fieldBit wd 1))

/-- Major 0x2C: ST_SCALAR. -/
def decodeMaj2C (wd : Nat) : Option Instr :=
  do
    let sc ← Scope.ofCode (field wd 29 3)
    let w ← Width.ofCode (field wd 25 3)
    pure (.stScalar sc (fieldBit wd 28) w (fieldBit wd 24) (fieldFin 64 wd 18) (fieldFin 16 wd 14) (fieldFin 64 wd 8) (fieldBit wd 1))

/-- Major 0x2D: LDS, STS. -/
def decodeMaj2D (wd : Nat) : Option Instr :=
  if field wd 21 1 == 0 then do
      let w ← Width.ofCode (field wd 22 3)
      pure (.lds (fieldFin 128 wd 25) w (fieldBit wd 20) (fieldFin 64 wd 14) (fieldFin 64 wd 8) (fieldBit wd 1))
  else if field wd 21 1 == 1 then do
      let w ← Width.ofCode (field wd 22 3)
      pure (.sts (fieldFin 128 wd 25) w (fieldBit wd 20) (fieldFin 64 wd 14) (fieldFin 64 wd 8) (fieldBit wd 1))
  else none

/-- Major 0x2E: LDP. -/
def decodeMaj2E (wd : Nat) : Option Instr :=
  do
    let w ← ParamWidth.ofCode (field wd 18 2)
    pure (.ldp (BitVec.ofNat 12 (wd / 2 ^ 20)) w (fieldBit wd 17) (fieldFin 8 wd 14) (fieldFin 64 wd 8) (fieldBit wd 1))

/-- Major 0x2F: ATOM. -/
def decodeMaj2F (wd : Nat) : Option Instr :=
  do
    let sc ← Scope.ofCode (field wd 29 3)
    let op ← AtomOp.ofCode (field wd 24 4)
    pure (.atom sc (fieldBit wd 28) op (fieldFin 64 wd 18) (fieldFin 16 wd 14) (fieldFin 64 wd 8) (fieldBit wd 1))

/-- Major 0x30: ATOM_AR. -/
def decodeMaj30 (wd : Nat) : Option Instr :=
  do
    let sc ← Scope.ofCode (field wd 29 3)
    let op ← AtomOp.ofCode (field wd 24 4)
    pure (.atomAr sc (fieldBit wd 28) op (fieldFin 64 wd 18) (fieldFin 16 wd 14) (fieldFin 64 wd 8) (fieldBit wd 1))

/-- Major 0x31: ATOMS. -/
def decodeMaj31 (wd : Nat) : Option Instr :=
  if field wd 25 7 == 0 then do
      let op ← AtomOp.ofCode (field wd 20 4)
      pure (.atoms (fieldBit wd 24) op (fieldFin 64 wd 14) (fieldFin 64 wd 8) (fieldBit wd 1))
  else none

/-- Major 0x32: FENCE, WAITA. -/
def decodeMaj32 (wd : Nat) : Option Instr :=
  if field wd 8 4 == 0 && field wd 14 15 == 0 then do
      let sc ← Scope.ofCode (field wd 29 3)
      let kind ← FenceKind.ofCode (field wd 12 2)
      pure (.fence sc kind (fieldBit wd 1))
  else if field wd 8 4 == 1 then do
      let sc ← Scope.ofCode (field wd 29 3)
      pure (.waita sc (fieldBit wd 28) (fieldFin 64 wd 22) (fieldFin 64 wd 16) (fieldFin 16 wd 12) (fieldBit wd 1))
  else none

/-- Major 0x33: CMAKE, CNARROW, CLOAD, CSTORE, CINFO. -/
def decodeMaj33 (wd : Nat) : Option Instr :=
  if field wd 8 4 == 0 && field wd 16 4 == 0 then some (.cmake (fieldFin 64 wd 26) (fieldFin 64 wd 20) (fieldFin 16 wd 12) (fieldBit wd 1))
  else if field wd 8 4 == 1 then some (.cnarrow (fieldFin 64 wd 26) (fieldFin 64 wd 20) (fieldFin 16 wd 16) (fieldFin 16 wd 12) (fieldBit wd 1))
  else if field wd 8 4 == 2 && field wd 26 6 == 0 then some (.cload (fieldFin 64 wd 20) (fieldFin 16 wd 16) (fieldFin 16 wd 12) (fieldBit wd 1))
  else if field wd 8 4 == 3 && field wd 26 6 == 0 then some (.cstore (fieldFin 64 wd 20) (fieldFin 16 wd 16) (fieldFin 16 wd 12) (fieldBit wd 1))
  else if field wd 8 4 == 4 && field wd 12 4 == 0 then do
      let sel ← CapField.ofCode (field wd 26 6)
      pure (.cinfo sel (fieldFin 64 wd 20) (fieldFin 16 wd 16) (fieldBit wd 1))
  else none

/-- Major 0x34: CPY, GATH, BLD, COLL, EWAIT. -/
def decodeMaj34 (wd : Nat) : Option Instr :=
  if field wd 8 4 == 0 then some (.cpy (fieldFin 64 wd 26) (fieldFin 64 wd 20) (fieldFin 16 wd 16) (fieldFin 16 wd 12) (fieldBit wd 1))
  else if field wd 8 4 == 1 && field wd 12 4 == 0 then some (.gath (fieldFin 64 wd 26) (fieldFin 64 wd 20) (fieldFin 16 wd 16) (fieldBit wd 1))
  else if field wd 8 4 == 2 && field wd 12 4 == 0 then some (.bld (fieldFin 64 wd 26) (fieldFin 64 wd 20) (fieldFin 16 wd 16) (fieldBit wd 1))
  else if field wd 8 4 == 3 then some (.coll (fieldFin 64 wd 26) (fieldFin 64 wd 20) (fieldFin 16 wd 16) (fieldFin 16 wd 12) (fieldBit wd 1))
  else if field wd 8 4 == 4 && field wd 12 14 == 0 then some (.ewait (fieldFin 64 wd 26) (fieldBit wd 1))
  else none

/-- Major 0x35: MMA, MMAS, MMAC, MMAX. -/
def decodeMaj35 (wd : Nat) : Option Instr :=
  if field wd 29 3 == 0 then some (.mma (fieldBit wd 28) (fieldBit wd 27) (fieldFin 64 wd 21) (fieldFin 64 wd 15) (fieldFin 8 wd 12) (fieldFin 16 wd 8) (fieldBit wd 1))
  else if field wd 29 3 == 1 then some (.mmas (fieldBit wd 28) (fieldBit wd 27) (fieldFin 64 wd 21) (fieldFin 64 wd 15) (fieldFin 8 wd 12) (fieldFin 16 wd 8) (fieldBit wd 1))
  else if field wd 29 3 == 2 then some (.mmac (fieldBit wd 28) (fieldBit wd 27) (fieldFin 64 wd 21) (fieldFin 64 wd 15) (fieldFin 8 wd 12) (fieldFin 16 wd 8) (fieldBit wd 1))
  else if field wd 29 3 == 3 then some (.mmax (fieldBit wd 28) (fieldBit wd 27) (fieldFin 64 wd 21) (fieldFin 64 wd 15) (fieldFin 8 wd 12) (fieldFin 16 wd 8) (fieldBit wd 1))
  else none

/-- Major 0x36: ACLR, ALD, AST. -/
def decodeMaj36 (wd : Nat) : Option Instr :=
  if field wd 26 6 == 0 && field wd 12 14 == 0 then some (.aclr (fieldFin 16 wd 8) (fieldBit wd 1))
  else if field wd 26 6 == 8 then do
      let fmt ← ElemFmt.ofCode (field wd 21 5)
      pure (.ald fmt (fieldFin 64 wd 15) (fieldFin 8 wd 12) (fieldFin 16 wd 8) (fieldBit wd 1))
  else if field wd 26 6 == 16 then do
      let fmt ← ElemFmt.ofCode (field wd 21 5)
      pure (.ast fmt (fieldFin 64 wd 15) (fieldFin 8 wd 12) (fieldFin 16 wd 8) (fieldBit wd 1))
  else none

/-- Major 0x37: STGA, STGW. -/
def decodeMaj37 (wd : Nat) : Option Instr :=
  if field wd 8 4 == 0 && field wd 22 10 == 0 then some (.stga (fieldBit wd 21) (fieldFin 64 wd 15) (fieldFin 8 wd 12) (fieldBit wd 1))
  else if field wd 8 4 == 1 && field wd 22 10 == 0 then some (.stgw (fieldBit wd 21) (fieldFin 64 wd 15) (fieldFin 8 wd 12) (fieldBit wd 1))
  else none

/-- Major 0x38: POST, RESV, PUBL. -/
def decodeMaj38 (wd : Nat) : Option Instr :=
  if field wd 8 4 == 0 then do
      let mode ← PostMode.ofCode (field wd 28 4)
      pure (.post mode (fieldFin 64 wd 22) (fieldFin 64 wd 16) (fieldFin 16 wd 12) (fieldBit wd 1))
  else if field wd 8 4 == 1 && field wd 28 4 == 0 then some (.resv (fieldFin 64 wd 22) (fieldFin 64 wd 16) (fieldFin 16 wd 12) (fieldBit wd 1))
  else if field wd 8 4 == 2 && field wd 22 10 == 0 then some (.publ (fieldFin 64 wd 16) (fieldFin 16 wd 12) (fieldBit wd 1))
  else none

/-- Major 0x39: AUTLD, AUTCTL, AUTQ. -/
def decodeMaj39 (wd : Nat) : Option Instr :=
  if field wd 8 4 == 0 && field wd 28 4 == 0 then some (.autld (fieldFin 64 wd 22) (fieldFin 64 wd 16) (fieldFin 16 wd 12) (fieldBit wd 1))
  else if field wd 8 4 == 1 && field wd 12 4 == 0 then do
      let op ← AutCtlOp.ofCode (field wd 28 4)
      pure (.autctl op (fieldFin 64 wd 22) (fieldFin 64 wd 16) (fieldBit wd 1))
  else if field wd 8 4 == 2 && field wd 12 4 == 0 then do
      let q ← AutQuery.ofCode (field wd 28 4)
      pure (.autq q (fieldFin 64 wd 22) (fieldFin 64 wd 16) (fieldBit wd 1))
  else none

/-- Major 0x3A: QOPEN, QARR, QSTAT, QSCALE. -/
def decodeMaj3A (wd : Nat) : Option Instr :=
  if field wd 8 4 == 0 && field wd 22 10 == 0 then some (.qopen (fieldFin 64 wd 16) (fieldFin 16 wd 12) (fieldBit wd 1))
  else if field wd 8 4 == 1 && field wd 28 4 == 0 && field wd 12 4 == 0 then some (.qarr (fieldFin 64 wd 22) (fieldFin 64 wd 16) (fieldBit wd 1))
  else if field wd 8 4 == 2 && field wd 28 4 == 0 && field wd 12 4 == 0 then some (.qstat (fieldFin 64 wd 22) (fieldFin 64 wd 16) (fieldBit wd 1))
  else if field wd 8 4 == 3 && field wd 28 4 == 0 && field wd 12 4 == 0 then some (.qscale (fieldFin 64 wd 22) (fieldFin 64 wd 16) (fieldBit wd 1))
  else none

/-- Major 0x3B: BAR, BARA, BARW, PART. -/
def decodeMaj3B (wd : Nat) : Option Instr :=
  if field wd 8 4 == 0 && field wd 26 6 == 0 then do
      let sc ← Scope.ofCode (field wd 17 3)
      pure (.bar (fieldFin 64 wd 20) sc (fieldFin 32 wd 12) (fieldBit wd 1))
  else if field wd 8 4 == 1 && field wd 26 6 == 0 then do
      let sc ← Scope.ofCode (field wd 17 3)
      pure (.bara (fieldFin 64 wd 20) sc (fieldFin 32 wd 12) (fieldBit wd 1))
  else if field wd 8 4 == 2 && field wd 20 12 == 0 then do
      let sc ← Scope.ofCode (field wd 17 3)
      pure (.barw sc (fieldFin 32 wd 12) (fieldBit wd 1))
  else if field wd 8 4 == 3 && field wd 29 3 == 0 && field wd 12 14 == 0 then do
      let t ← TileCode.ofCode (field wd 26 3)
      pure (.part t (fieldBit wd 1))
  else none

/-- Major 0x3C: TRAP, RETT, MFSR, MTSR, OINV, BKPT, CNTRD. -/
def decodeMaj3C (wd : Nat) : Option Instr :=
  if field wd 8 4 == 0 && field wd 17 15 == 0 then some (.trap (fieldFin 32 wd 12) (fieldBit wd 1))
  else if field wd 8 24 == 1 then some (.rett (fieldBit wd 1))
  else if field wd 8 4 == 2 && field wd 30 2 == 0 then do
      let n ← SysReg.ofCode (field wd 18 12)
      pure (.mfsr n (fieldFin 64 wd 12) (fieldBit wd 1))
  else if field wd 8 4 == 3 && field wd 30 2 == 0 then do
      let n ← SysReg.ofCode (field wd 18 12)
      pure (.mtsr n (fieldFin 64 wd 12) (fieldBit wd 1))
  else if field wd 8 4 == 4 && field wd 18 14 == 0 then some (.oinv (fieldFin 64 wd 12) (fieldBit wd 1))
  else if field wd 8 4 == 5 && field wd 16 16 == 0 then some (.bkpt (fieldFin 16 wd 12) (fieldBit wd 1))
  else if field wd 8 4 == 6 && field wd 30 2 == 0 && decide (field wd 18 12 < 8) then some (.cntrd (fieldFin 8 wd 18) (fieldFin 64 wd 12) (fieldBit wd 1))
  else none

/-- The layout of each major (R81, Table 4.4). -/
def decodeMajor (major wd : Nat) : Option Instr :=
  match major with
  | 0x01 => decodeMaj01 wd
  | 0x02 => decodeMaj02 wd
  | 0x03 => decodeMaj03 wd
  | 0x04 => decodeMaj04 wd
  | 0x05 => decodeMaj05 wd
  | 0x06 => decodeMaj06 wd
  | 0x07 => decodeMaj07 wd
  | 0x08 => decodeMaj08 wd
  | 0x09 => decodeMaj09 wd
  | 0x0A => decodeMaj0A wd
  | 0x0B => decodeMaj0B wd
  | 0x0C => decodeMaj0C wd
  | 0x0D => decodeMaj0D wd
  | 0x0E => decodeMaj0E wd
  | 0x0F => decodeMaj0F wd
  | 0x10 => decodeMaj10 wd
  | 0x11 => decodeMaj11 wd
  | 0x12 => decodeMaj12 wd
  | 0x13 => decodeMaj13 wd
  | 0x14 => decodeMaj14 wd
  | 0x15 => decodeMaj15 wd
  | 0x16 => decodeMaj16 wd
  | 0x17 => decodeMaj17 wd
  | 0x18 => decodeMaj18 wd
  | 0x19 => decodeMaj19 wd
  | 0x1A => decodeMaj1A wd
  | 0x1B => decodeMaj1B wd
  | 0x1C => decodeMaj1C wd
  | 0x1D => decodeMaj1D wd
  | 0x1E => decodeMaj1E wd
  | 0x1F => decodeMaj1F wd
  | 0x20 => decodeMaj20 wd
  | 0x21 => decodeMaj21 wd
  | 0x22 => decodeMaj22 wd
  | 0x23 => decodeMaj23 wd
  | 0x24 => decodeMaj24 wd
  | 0x25 => decodeMaj25 wd
  | 0x26 => decodeMaj26 wd
  | 0x27 => decodeMaj27 wd
  | 0x28 => decodeMaj28 wd
  | 0x29 => decodeMaj29 wd
  | 0x2A => decodeMaj2A wd
  | 0x2B => decodeMaj2B wd
  | 0x2C => decodeMaj2C wd
  | 0x2D => decodeMaj2D wd
  | 0x2E => decodeMaj2E wd
  | 0x2F => decodeMaj2F wd
  | 0x30 => decodeMaj30 wd
  | 0x31 => decodeMaj31 wd
  | 0x32 => decodeMaj32 wd
  | 0x33 => decodeMaj33 wd
  | 0x34 => decodeMaj34 wd
  | 0x35 => decodeMaj35 wd
  | 0x36 => decodeMaj36 wd
  | 0x37 => decodeMaj37 wd
  | 0x38 => decodeMaj38 wd
  | 0x39 => decodeMaj39 wd
  | 0x3A => decodeMaj3A wd
  | 0x3B => decodeMaj3B wd
  | 0x3C => decodeMaj3C wd
  | _ => none

/-- A 32-bit instruction (R79, R94): ILLEGAL_OP for the majors 0x00 and 0x3D to 0x3F, ILLEGAL_FIELD for a pattern the
tables do not list or a register field that breaks R80. -/
def decode32 (w : Nat) : Except DecodeErr Instr :=
  if field w 2 6 = 0 ∨ 0x3D ≤ field w 2 6 then .error .illegalOp
  else
    match decodeMajor (field w 2 6) w with
    | some i => if i.wellFormed then .ok i else .error .illegalField
    | none => .error .illegalField

/-- A 16-bit parcel (R78): every even parcel but 0x0000 is an instruction. -/
def decode16 (w : Nat) : Except DecodeErr Instr :=
  if w = 0 then .error .illegalParcel
  else
    match field w 2 4 with
    | 0 => .ok (.vaddH (fieldFin 32 w 11) (fieldFin 32 w 6) (fieldBit w 1))
    | 1 => .ok (.vsubH (fieldFin 32 w 11) (fieldFin 32 w 6) (fieldBit w 1))
    | 2 => .ok (.vmulH (fieldFin 32 w 11) (fieldFin 32 w 6) (fieldBit w 1))
    | 3 => .ok (.vandH (fieldFin 32 w 11) (fieldFin 32 w 6) (fieldBit w 1))
    | 4 => .ok (.vorH (fieldFin 32 w 11) (fieldFin 32 w 6) (fieldBit w 1))
    | 5 => .ok (.vxorH (fieldFin 32 w 11) (fieldFin 32 w 6) (fieldBit w 1))
    | 6 => .ok (.vshlH (fieldFin 32 w 11) (fieldFin 32 w 6) (fieldBit w 1))
    | 7 => .ok (.vshrH (fieldFin 32 w 11) (fieldFin 32 w 6) (fieldBit w 1))
    | 8 => .ok (.vminH (fieldFin 32 w 11) (fieldFin 32 w 6) (fieldBit w 1))
    | 9 => .ok (.vmaxH (fieldFin 32 w 11) (fieldFin 32 w 6) (fieldBit w 1))
    | 10 => .ok (.vfaddH (fieldFin 32 w 11) (fieldFin 32 w 6) (fieldBit w 1))
    | 11 => .ok (.vfsubH (fieldFin 32 w 11) (fieldFin 32 w 6) (fieldBit w 1))
    | 12 => .ok (.vfmulH (fieldFin 32 w 11) (fieldFin 32 w 6) (fieldBit w 1))
    | 13 => .ok (.vfmaxH (fieldFin 32 w 11) (fieldFin 32 w 6) (fieldBit w 1))
    | 14 => .ok (.vfminH (fieldFin 32 w 11) (fieldFin 32 w 6) (fieldBit w 1))
    | _ => .ok (.vmovH (fieldFin 32 w 11) (fieldFin 32 w 6) (fieldBit w 1))

/-- Bit 0 of the first parcel gives the length in bytes (R76). -/
def instrBytes (parcel : Nat) : Nat := if parcel % 2 = 0 then 2 else 4

/-- The instruction whose first parcel, and second parcel where bit 0 says there is one, are the bits of `w` (R76, R94). -/
def decodeWord (w : Nat) : Except DecodeErr Instr :=
  if w % 2 = 0 then decode16 (w % 2 ^ 16) else decode32 (w % 2 ^ 32)

/-- A little-endian number from bytes, the first at the lowest address (R4). -/
def leNat : List Byte → Nat
  | [] => 0
  | b :: bs => b.toNat + 256 * leNat bs

/-- `n` little-endian bytes of a number (R4). -/
def leBytes : Nat → Nat → List Byte
  | 0, _ => []
  | n + 1, w => BitVec.ofNat 8 w :: leBytes n (w / 256)

/-- Decoding from a list of bytes: the instruction and the bytes after it, the cause of R94, or none where the bytes
end before the instruction does (R77). -/
def decodeBytes : List Byte → Option (Except DecodeErr Instr × List Byte)
  | b0 :: b1 :: bs =>
    if b0.toNat % 2 = 0 then some (decodeWord (leNat [b0, b1]), bs)
    else
      match bs with
      | b2 :: b3 :: rest => some (decodeWord (leNat [b0, b1, b2, b3]), rest)
      | _ => none
  | _ => none

/-- The instruction decoded from bits numbered as the opcode table numbers them: the `nbits` low bits of `w`, zero above
them, laid out as little-endian bytes. -/
def decodeTableWord (nbits w : Nat) : Option Instr :=
  match decodeBytes (leBytes 4 (w % 2 ^ nbits)) with
  | some (.ok i, _) => some i
  | _ => none

end Sys2Proof
end

