-- ==== Sys2Proof/Machine/State.lean ====
section
/-! DEFINITION. The state of the G9 as plain data, what a step can stop with, and the machine right after module reset. -/

namespace Sys2Proof.Machine

/-! ## Sparse memories -/

/-- Bytes by address, in one canonical form: addresses strictly rising and no byte 0 listed. An unlisted byte reads 0
(DESIGN CHOICE for memory nothing has written, log 2; the spec's own reset value for scratchpad, tiles and B slices). -/
structure Memory where
  cells : List Host.Cell
deriving DecidableEq, Repr

/-- Memory with nothing listed. -/
def Memory.empty : Memory := ⟨[]⟩

/-- The canonical form: every address lies above `lo`, addresses rise, no byte is 0. -/
def cellsOk : Option Nat → List Host.Cell → Bool
  | _, [] => true
  | lo, (a, b) :: cs =>
    (match lo with
     | none => true
     | some l => decide (l < a)) && decide (b ≠ 0) && cellsOk (some a) cs

/-- The canonical form holds. -/
def Memory.wf (m : Memory) : Bool := cellsOk none m.cells

/-! ## Registers of a wave -/

/-- The condition codes (R85). -/
structure CC where
  z : Bool
  n : Bool
  c : Bool
  v : Bool
  p : Bool
  k : Bool
  e : Bool
deriving DecidableEq, Repr

/-- A capability, 128 bits (Table 7.1). -/
abbrev Cap := BitVec 128

/-- Pending-write bits of a split (R51): v, s, m, k, a, and Z, N, C, V in bits 0 to 3. -/
structure Pending where
  v : BitVec 64
  s : BitVec 64
  m : BitVec 8
  k : BitVec 16
  a : BitVec 16
  f : BitVec 4
deriving DecidableEq, Repr

/-- No register pending. -/
def Pending.clear : Pending := ⟨0, 0, 0, 0, 0, 0⟩

/-- A fault record (Table 14.4) but for TPAR, which names the wave the split stands in (R289), with P, the PC at which the split
trapped (R286). -/
structure FaultRec where
  cause : BitVec 8
  noslot : Bool
  lane : Bool
  info : W32
  fmask : Mask
  siblanes : Mask
  slot : BitVec 2
  sibs : BitVec 4
  epc : BitVec 48
  addr : W64
  pc : BitVec 48
deriving DecidableEq, Repr

/-- The trap registers before any fault (Table 14.4). -/
def FaultRec.zero : FaultRec := ⟨0, false, false, 0, 0, 0, 0, 0, 0, 0, 0⟩

/-- What a split waits for at its instruction (R44, R53): a WAITA keeps the capability and offset it watches and the value it
compares with (R420), an EWAIT its ticket (R350); a wait at a barrier keeps the phase it waits for, `arrive` is one before the
arrival (R330); a QARR keeps whether its arrival has been answered LATE (R267); an STGW keeps its slot, 64 × ring + slot, and
its place among those of the slot (R241); `records` waits for the wave's own POST records to be written (R163), and `tile` keeps
the age of a queued instruction whose tiles an earlier one may still poison (R234). -/
inductive Wait where
  | waita (cap : Cap) (off : Nat) (value : W64) | ewait (ticket : W64) | arrive | bar (phase : Nat) | fence | stga
  | stgw (slot order : Nat) | admission | quorumAnswer (late : Bool) | oinv | fpflags | records | tile (age : Nat)
deriving DecidableEq, Repr

/-- What a split is doing (R29). -/
inductive SplitStatus where
  /-- may issue -/
  | ready
  /-- stands at the JOIN its PC names (R31) -/
  | atJoin
  /-- parked by a lane fault (R280) -/
  | parked
  /-- waits at its instruction -/
  | waiting (w : Wait)
  /-- has trapped and waits for service entry (R283) -/
  | trapped
  /-- stopped at a safe point by a debugger (R314) -/
  | held
deriving DecidableEq, Repr

/-- A live split (R29). -/
structure Split where
  pc : BitVec 48
  mask : Mask
  pend : Pending
  status : SplitStatus
  /-- the lanes the next instruction runs for, where a replay limits them (R286, R288) -/
  only : Option Mask
  repActive : Bool
  repNext : BitVec 6
  repCount : BitVec 6
  /-- the lanes every repeat runs for, where a replay limited the REP itself (R286, R91) -/
  repOnly : Option Mask
  record : FaultRec
deriving DecidableEq, Repr

/-- A byte run in a wave's store queue (R397), translated at issue (R53): the domain, object and generation its sectors
carry in L1, the byte offset in the object, the physical address, whether it goes around L1 (R124), the quorum handle and
member of a tentative store (R136), the bytes in ascending address and the scope of a release (R399). -/
structure QueuedStore where
  dom : Nat
  obj : Nat
  gen : BitVec 16
  off : Nat
  pa : Nat
  around : Bool
  member : Option (W32 × Nat)
  bytes : List Byte
  release : Option Scope
deriving DecidableEq, Repr

/-- Why the whole wave is stopped (R287, R288). -/
inductive Park where
  /-- as `replayable`, before every earlier register result is written (R53): the cause, page, MGEN and access that its event
  will report -/
  | due (slot : Fin 4) (lanes : Mask) (obj cause page mgen access : Nat)
  /-- NOT_PRESENT or MIGRATING left lanes of the split's instruction unfinished (R288) -/
  | replayable (slot : Fin 4) (lanes : Mask) (obj : Nat)
  /-- a trap in service mode, or no handler (R287) -/
  | service
deriving DecidableEq, Repr

/-- How far a wave has come (R47, R271). -/
inductive WaveStatus where
  | running | retired | stopped
deriving DecidableEq, Repr

/-- An uncompleted barrier arrival of a wave (R330): the barrier number, the scope and the phase it arrived in. -/
structure Arrival where
  id : Fin 32
  sc : Scope
  phase : Nat
deriving DecidableEq, Repr

/-- How an engine command stands for EWAIT (R348): its serial, its SUB, whether it has ended, and with which cause. -/
structure Outcome where
  serial : Nat
  sub : Nat
  ended : Bool
  cause : Option (BitVec 8)
deriving DecidableEq, Repr

/-- A wave (R28, R29, and the registers of 02, 05, 07, 14 and 15). `svcPc` and `svcWait`: the PC of its handler, and what the handler
waits for at its instruction; the split in service mode keeps its own (R282). -/
structure Wave where
  number : Fin 32
  core : Nat
  quarter : Fin 4
  wslot : Fin 16
  role : BitVec 2
  prio : BitVec 3
  jmis : Bool
  pflag : Bool
  tile : TileCode
  rm : BitVec 2
  enables : BitVec 5
  flags : BitVec 6
  s : Vector W64 64
  v : Vector (Vector W32 32) 64
  m : Vector Mask 8
  k : Vector Cap 16
  cc : CC
  bankS : Vector W64 16
  bankK : Cap
  pdead : W32
  left : W32
  tvecObj : BitVec 24
  tvecEntry : BitVec 34
  traceobj : W64
  dumpobj : W64
  splits : Vector (Option Split) 4
  svc : Option (Fin 4)
  svcPc : BitVec 48
  svcWait : Option Wait
  park : Option Park
  marker : Bool
  stores : List QueuedStore
  serial : Nat
  outcomes : List Outcome
  arrivals : List Arrival
  yielded : Bool
  live : BitVec 64
  forced : Bool
  age : Nat
  turn : Fin 4
  placed : Nat
  status : WaveStatus
deriving DecidableEq, Repr

/-! ## Teams -/

/-- A held event or a record of it: bytes 0 to 7, the stamp, and twelve payload words (Table 9.1). -/
structure EventRec where
  head : W64
  stamp : Nat
  payload : Vector W32 12
deriving DecidableEq, Repr

/-- A barrier instance of a team's or gang's waves and its current phase (R329): the context, the group (the gang's
number, or the team for `.core` and `.quad`), the barrier number, the scope, the core, die or package it lies in, the
expected count of the phase's first arrival (0: every live wave), the arrivals of live waves and of waves gone. -/
structure Barrier where
  ctx : Nat
  die : Nat
  group : Nat
  id : Fin 32
  sc : Scope
  place : Nat
  phase : Nat
  expected : Nat
  arrivals : List (Nat × Nat × Nat)
  gone : Nat
deriving DecidableEq, Repr

/-- A tile's poison (R234): the PC of the pass that failed twice. -/
structure Poison where
  core : Nat
  tile : Nat
  pc : BitVec 48
deriving DecidableEq, Repr

/-- What a core holds of a team: scratchpad bytes (R118), accumulator tiles as bytes, tile t from 16,384 t on (R223), and
the phase bits of ring slots that are 1 (R240). -/
structure TeamCore where
  core : Nat
  scratch : Memory
  tiles : Memory
  phases : List (Nat × Nat)
deriving DecidableEq, Repr

/-- How a team stands for a debugger (R314): stopping with a cause, the wave and slot of the split that hit and the
instructions it has issued since (SKID); or stopped on chip for a dump (R317), with the split that parked. -/
inductive DebugStop where
  | none
  | stopping (cause : BitVec 8) (hit : Option (Nat × Fin 4)) (skid : Nat) (dump : Bool)
  | stopped (cause : BitVec 8) (hit : Option (Nat × Fin 4))
deriving DecidableEq, Repr

/-- A resident team (R28, R33 to R48, R211). `held`: the entries of Frame `frame` it refers to (R195). -/
structure Team where
  die : Fin 4
  serial : W32
  ctx : Nat
  depth : Nat
  leader : Nat
  follower : Option Nat
  array : Bool
  gang : Nat
  gangSize : Nat
  gangIndex : Nat
  vregs : Nat
  scru : Nat
  accu : Nat
  lanes : Nat
  code : Nat
  entry : Nat
  record : List Byte
  rod : W32
  events : Vector (Option EventRec) 4
  frame : Fin 4
  held : List Nat
  windows : Vector (Option (List Byte)) 8
  member : Option (W32 × Nat)
  killed : Bool
  placed : Nat
  cores : List TeamCore
  poison : List Poison
  halt : DebugStop
  waves : List Wave
deriving DecidableEq, Repr

/-! ## Cores -/

/-- A valid L1 sector (R121, R148): its tag, the physical address held beside it, 256 bytes, dirtiness. The list that
holds them runs from the most to the least recently used. -/
structure L1Sector where
  dom : Nat
  obj : Nat
  off : Nat
  gen : BitVec 16
  pa : Nat
  data : List Byte
  dirty : Bool
deriving DecidableEq, Repr

/-- A translation buffer entry (R153): its tag, the leaf, and what the walk read of the table entry. The
list that holds them runs from the most to the least recently used. -/
structure OtbEntry where
  dom : Nat
  obj : Nat
  mgen : BitVec 16
  cgen : BitVec 16
  flags : Nat
  opage : Nat
  run : Nat
  ppage : Nat
deriving DecidableEq, Repr

/-- A waiting or running matrix or accumulator instruction (R230): the serial and wave that issued it, its PC, what it is
(`op`: 0 MMA, 1 MMAS, 2 MMAC, 3 MMAX, 4 ACLR, 5 ALD, 6 AST), AC, P, its tile, the scratchpad offset of operand A, the
row group, format, first vector register and active mask of ALD and AST, the format word and descriptor of a pass, the
image kept with it (metadata of an MMAS, registers of an ALD) and its place in the core's issue order; `held`: its last check,
of poisoned tiles, has not passed (R234). An MMAX also has the exponents once they are fixed, the steps run and Z by row (R248,
R250). -/
structure SeqItem where
  team : W32
  wave : Nat
  pc : BitVec 48
  insn : W32
  op : Nat
  accumulate : Bool
  paired : Bool
  tile : Nat
  base : Nat
  rg : Nat
  fmt : Nat
  vreg : Nat
  mask : Mask
  word : W32
  desc : W64
  image : Nat
  age : Nat
  held : Bool
  fixed : Bool
  eexp : List (Option Int)
  fexp : List (Option Int)
  step : Nat
  z : List Int
deriving DecidableEq, Repr

/-- An admitted engine command (R333): who issued it, which it is (SUB), its ticket's serial, the parameter block, the
capabilities, its place in the core's issue order; the object it waits on while a page is not present (R156); whether
the contribution of a COLL has been sent; the indices a GATH has read; the scratchpad bytes a BLD has read; an address
in each L2 line its destination pins, and the L1 lines it pins, as (domain, object, line) (R138, R139); and the objects revoked
since its admission, whose capabilities it still completes with (R157). -/
structure EngineCmd where
  die : Fin 4
  team : W32
  wave : Nat
  wid : Nat
  ctx : Nat
  sub : Nat
  serial : Nat
  params : List Nat
  src : Cap
  dst : Cap
  zero : Bool
  age : Nat
  waiting : Option Nat
  sent : Bool
  indices : Option (List Nat)
  data : Option (List Byte)
  pins : List Nat
  pins1 : List (Nat × Nat × Nat)
  kept : List Nat
deriving DecidableEq, Repr

/-- A counter selector (Table 15.3). -/
structure CntSel where
  en : Bool
  ctx : BitVec 6
  own : Bool
  src : BitVec 8
deriving DecidableEq, Repr

/-- A core (R17, R44, R121, R153, R225, R230, R305, R306). -/
structure Core where
  die : Fin 4
  num : Nat
  l1 : List L1Sector
  otb : List OtbEntry
  slices : Memory
  queue : List SeqItem
  engines : List EngineCmd
  stretched : Bool
  counters : Vector (BitVec 48) 8
  cntsel : Vector CntSel 8
  samplePos : Vector (Fin 16) 4
deriving DecidableEq, Repr

/-- A core nothing has touched since module reset (counters and positions: DESIGN CHOICE 0, log 3). -/
def Core.fresh (die : Fin 4) (num : Nat) : Core :=
  ⟨die, num, [], [], Memory.empty, [], [], false, Vector.replicate 8 0, Vector.replicate 8 ⟨false, 0, false, 0⟩,
    Vector.replicate 4 0⟩

/-- A team taken off its cores: its registers and pool contents, the B slices of each of its cores, its stopped MMAX
instructions and its engine commands that wait for a page, each with the core it had (R294, R296, R314). -/
structure SavedTeam where
  team : Team
  slices : List Memory
  items : List (Nat × SeqItem)
  engines : List (Nat × EngineCmd)
deriving DecidableEq, Repr

/-! ## The L2 of a die -/

/-- A sector pointer (Table 6.3). -/
inductive SectorPtr where
  | none | zero | data (entry : Nat)
deriving DecidableEq, Repr

/-- A valid line tag (R128, R130): the line number in the die, its domain, four pointers, dirtiness. The
list that holds them runs from the most to the least recently used. -/
structure L2Tag where
  line : Nat
  dom : Nat
  ptr : Vector SectorPtr 4
  dirty : Vector Bool 4
deriving DecidableEq, Repr

/-- A data entry in use (R129): its slice and number, 256 bytes, its reference count, poison (R140). -/
structure DataEntry where
  slice : Nat
  num : Nat
  data : List Byte
  count : Nat
  poison : Bool
deriving DecidableEq, Repr

/-- A directory entry (R132): one data entry per slice, domain and keyed hash. -/
structure DirEntry where
  slice : Nat
  dom : Nat
  hash : Nat
  num : Nat
deriving DecidableEq, Repr

/-- A version tag (R136): the physical address of the line, the domain of its object, the quorum handle and member, and per sector
the version's bytes, the mask of bytes written and its poison (R140). -/
structure Version where
  line : Nat
  dom : Nat
  handle : W32
  mem : Nat
  data : Vector (Option (List Byte)) 4
  masks : Vector (BitVec 256) 4
  poison : Vector Bool 4
deriving DecidableEq, Repr

/-- The L2 of a die (R125 to R141). `badZero`: the slices whose ZERO entry is poisoned (R140). -/
structure L2 where
  tags : List L2Tag
  entries : List DataEntry
  badZero : List Nat
  dir : List DirEntry
  versions : List Version
  share : BitVec 48
  collide : BitVec 48
  saturate : BitVec 48
  unshare : BitVec 48
deriving DecidableEq, Repr

/-- An L2 that holds nothing (event counters: DESIGN CHOICE 0, log 3). -/
def L2.empty : L2 := ⟨[], [], [], [], [], 0, 0, 0, 0⟩

/-! ## The Frame and the dispatcher of a die -/

/-- A bead (R195): state, key, the marks of its four clocks, the held events it has bound, by number, and the timeout
transitions it has taken, each with the mark its due stamp was counted from (R206). -/
structure Bead where
  state : Nat
  key : W32
  marks : Vector Int 4
  bound : Vector (Option Nat) 4
  fired : List (Nat × Int)
deriving DecidableEq, Repr

/-- A held entry (R195): its number in the Frame, its context, the record, the quorum record of a release event (R269),
and how many beads, launches, teams and unread publications refer to it. -/
structure Held where
  num : Nat
  ctx : Nat
  ev : EventRec
  quorum : Option (List Byte)
  refs : Nat
deriving DecidableEq, Repr

/-- A loaded rod (R195, R214 to R217). `stamped`: it reads a STAMPED stream (R197). `back`: the stamp up to which timeouts that fell due while it was disabled wait for
its next offer (R216). `offered`: the beads in use as of its latest offer (R217). -/
structure Rod where
  ctx : Nat
  number : Nat
  serial : Nat
  image : List Byte
  stamped : Bool
  enabled : Bool
  quota : Nat
  ovf : Nat
  drops : W32
  expired : W32
  lastOffered : Nat
  offered : Nat
  back : Option Int
  beads : List Bead
deriving DecidableEq, Repr

/-- A stream attached to the Frame: its context and object and the stamp last accepted from it (R192). -/
structure Attached where
  ctx : Nat
  obj : Nat
  last : Option Nat
deriving DecidableEq, Repr

/-- A launch: an accepted launch in the Frame, or a launch record in a dispatcher's queue or held storage (R42, R208). -/
structure Launch where
  ctx : Nat
  frame : Fin 4
  record : List Byte
  consts : List Byte
  rod : W32
  events : Vector (Option EventRec) 4
  quorum : Option (List Byte)
  held : List Nat
  depth : Nat
  gangSize : Nat
  gangIndex : Nat
  gang : Nat
  caps : Vector Cap 4
  member : Option (W32 × Nat)
  serial : Option W32
  order : Nat
  restored : Option SavedTeam
deriving DecidableEq, Repr

/-- The state of a quorum register (Table 13.4). -/
inductive QState where
  | free | opened | drain
deriving DecidableEq, Repr

/-- A quorum register (R260, R264): the descriptor as copied, the opener's depth, arrivals, departures, the teams bound
as members, the LATE count, the clock mark, the status and record of its release (no record yet: the release waits for a
held entry, R269) and the members killed at release that have not stopped. -/
structure Quorum where
  num : Nat
  serial : BitVec 13
  state : QState
  ctx : Nat
  desc : List Byte
  depth : Nat
  arrived : BitVec 64
  departed : BitVec 64
  bound : List (Nat × Nat × W32)
  late : Nat
  mark : Int
  status : Nat
  stamp : Nat
  record : List Byte
  killing : List (Nat × Nat × W32)
deriving DecidableEq, Repr

/-- A contribution held by a collective (R342): the rank, its bytes (none where it was discarded and its participant only
receives the result, R344), and the command of this module it belongs to: die, core, team, wave and serial. -/
structure Contribution where
  rank : Nat
  data : List Byte
  home : Option (Fin 4 × Nat × W32 × Nat × Nat)
  delivered : Bool
deriving DecidableEq, Repr

/-- A collective open at its home (R342). -/
structure Collective where
  ctx : Nat
  group : W32
  q : Bool
  np : Nat
  op : Nat
  len : Nat
  parts : List Contribution
  result : Option (List Byte)
deriving DecidableEq, Repr

/-- A record the G9 or a POST has reserved or will reserve a position for, waiting to be written (R155, R187, R211, R269):
the context and stream object, the position where one is reserved, the offset of its slot in the object where a POST reserved it, the
64 bytes but for LAP, who posts it, whether a POST does, the page whose absence an event has been posted for, and, of a publication of
a wave or a team, its place among them (R163). -/
structure PendingRecord where
  ctx : Nat
  obj : Nat
  pos : Option Nat
  slot : Nat
  bytes : List Byte
  wid : Nat
  team : W32
  posted : Bool
  told : Option Nat
  order : Option Nat
deriving DecidableEq, Repr

/-- A die: reference clock, team counter, L2, Frame, dispatcher (R18, R40 to R42, R195, R260, R425). -/
structure Die where
  ticks : Nat
  teamCounter : W32
  l2 : L2
  rods : List Rod
  held : List Held
  attached : List Attached
  accepted : List Launch
  queue : List Launch
  overflow : List Launch
  credits : List (Nat × Nat)
  quorums : List Quorum
  serials : List (Nat × BitVec 13)
  collectives : List Collective
  waitingParts : List (Collective × Contribution)
  records : List PendingRecord
deriving DecidableEq, Repr

/-- A die right after module reset (tick count: DESIGN CHOICE 0, log 3). -/
def Die.fresh : Die := ⟨0, 0, L2.empty, [], [], [], [], [], [], [], [], [], [], [], []⟩

/-! ## Contexts -/

/-- A ring of a kernel's ring table (R240). -/
structure Ring where
  offset : Nat
  slots : Nat
  bytes : Nat
deriving DecidableEq, Repr

/-- An entry of a safe-point table (Table 3.7), with the PC in the text in place of the parcel offset. -/
structure SafePoint where
  pc : Nat
  ord : Nat
  m : BitVec 8
  v : BitVec 64
  s : BitVec 64
  k : BitVec 16
  a : BitVec 16
deriving DecidableEq, Repr

/-- A loaded code object: its identity, a text replica per die (R426), and by kernel entry its rings and its safe points
in ascending ordinal (R240, R73). -/
structure CodeObject where
  obj : Nat
  texts : Vector (List Byte) 4
  rings : List (Nat × List (Option Ring))
  safe : List (Nat × List SafePoint)
deriving DecidableEq, Repr

/-- A shoot-down asked for (R157, R159): the object, REVOKE, the die, team, wave and slot of an OINV (none for OINVREQ),
whether its generations have been raised, and what an OINV receives once it is acknowledged (R158). -/
structure ShootDown where
  obj : Nat
  revoke : Bool
  asker : Option (Fin 4 × W32 × Nat × Fin 4)
  raised : Bool
  result : Option W64
deriving DecidableEq, Repr

/-- The STATE of a debug block (Table 15.7). -/
inductive DebugState where
  | none | stopping | stopped | resuming
deriving DecidableEq, Repr

/-- A context's debug block (Table 15.7), and the team it has swapped out. -/
structure Debug where
  attach : Bool
  die : BitVec 2
  team : W32
  skid : W32
  ord : BitVec 16
  cause : BitVec 8
  fail : Bool
  state : DebugState
  trace : W64
  dump : W64
  swapObj : BitVec 24
  swapped : Option SavedTeam
deriving DecidableEq, Repr

/-- A watch register (R315). -/
structure Watch where
  en : Bool
  atomic : Bool
  write : Bool
  read : Bool
  obj : BitVec 24
  len8 : BitVec 8
  offset8 : BitVec 37
deriving DecidableEq, Repr

/-- CTXSTAT.STATE (Table 14.11). -/
inductive CtxState where
  | none | running | saving | saved | restoring
deriving DecidableEq, Repr

/-- What the last context image holds (R296): the counter in its header, the bytes written, and the sections by die. Clock
marks of beads and quorums stand in it as ages (R220, R277). `orphans`: engine commands that wait for a page and whose team has been
killed, each with the core it had (R271, R294). -/
structure SavedImage where
  counter : Nat
  bytes : List Byte
  rods : List (Fin 4 × Rod)
  held : List (Fin 4 × Held)
  attached : List (Fin 4 × Attached)
  quorums : List (Fin 4 × Quorum)
  versions : List (Option (Fin 4) × Version)
  launches : List (Fin 4 × Launch)
  accepted : List (Fin 4 × Launch)
  teams : List SavedTeam
  orphans : List (Fin 4 × Nat × EngineCmd)
  barriers : List Barrier
  records : List (Fin 4 × PendingRecord)
deriving DecidableEq, Repr

/-- A context (R20, R42, R130, R150, R212, R214, R264, R284, R293, R299, R303, R312 to R315). `imgLen`: the body bytes of the
image that a save under way will write (R299). `clocks`: the ticks of the four dies when the save under way was ordered, at which
its quorum clocks stand (R294). -/
structure Context where
  state : CtxState
  imgObj : BitVec 24
  forcedW : W32
  fail : BitVec 8
  saveCtr : W64
  imgLen : Nat
  clocks : Option (Vector Nat 4)
  weight : Nat
  allowT : Nat
  keyDraw : Nat
  tableBase : Nat
  tableLen : Nat
  consts : List Byte
  service : Cap
  tvecObj : BitVec 24
  tvecEntry : BitVec 34
  pdead : W32
  rodSerial : Nat
  oinvObj : BitVec 24
  busy : Bool
  shoot : List ShootDown
  debuggable : Bool
  dbg : Debug
  watch : Vector Watch 16
  code : List CodeObject
  streams : List Nat
  traceDrops : Nat
  traceOwed : Nat
  peers : List (Nat × Nat)
  saved : Option SavedImage
deriving DecidableEq, Repr

/-- A debug block at reset. -/
def Debug.zero : Debug := ⟨false, 0, 0, 0, 0, 0, false, .none, 0, 0, 0, none⟩

/-- A context that does not exist (what its creation sets: DESIGN CHOICE 0, log 3). -/
def Context.none : Context where
  state := .none
  imgObj := 0
  forcedW := 0
  fail := 0
  saveCtr := 0
  imgLen := 0
  clocks := Option.none
  weight := 0
  allowT := 0
  keyDraw := 0
  tableBase := 0
  tableLen := 0
  consts := []
  service := 0
  tvecObj := 0
  tvecEntry := 0
  pdead := 0
  rodSerial := 0
  oinvObj := 0
  busy := false
  shoot := []
  debuggable := false
  dbg := Debug.zero
  watch := Vector.replicate 16 ⟨false, false, false, false, 0, 0, 0⟩
  code := []
  streams := []
  traceDrops := 0
  traceOwed := 0
  peers := []
  saved := Option.none

/-! ## The module -/

/-- BOOTSTAT.PHASE (Table 1.6). -/
inductive Phase where
  | reset | verifying | running | failed
deriving DecidableEq, Repr

/-- SAMPCTL (R309). -/
structure Sampling where
  en : Bool
  period : BitVec 5
deriving DecidableEq, Repr

/-- The split the next encoded instruction runs in: the team's place in `State.teams`, the wave's place in the team, the
split slot (DESIGN CHOICE, log 1). -/
structure Cursor where
  team : Nat
  wave : Nat
  slot : Fin 4
deriving DecidableEq, Repr

/-- A step the module is asked to take: an instruction or a step without an encoding (`event`), or the issue of the next
instruction of a split (`issue`). -/
inductive Move where
  | event (i : Instr)
  | issue (c : Cursor)
deriving DecidableEq, Repr

/-- The G9. `badPhys` names the HBM4E sectors into which poisoned content was written back (R140); `moves` holds steps asked for from outside, oldest first; `free` counts the free values drawn; `cur` is the
split an encoded instruction runs in. These three are the model's own (log 1). -/
structure State where
  phase : Phase
  fail : BitVec 8
  cfgver : BitVec 16
  minver : BitVec 16
  flash : Vector (Option FlashImage) 2
  config : Option FlashImage
  link : Option (Nat × Nat)
  joined : Bool
  module : BitVec 13
  lost : List Nat
  samp : Sampling
  phys : Memory
  badPhys : List Nat
  lp6 : List Version
  errors : List Nat
  dies : Vector Die 4
  cores : List Core
  teams : List Team
  contexts : Vector Context 64
  barriers : List Barrier
  moves : List Move
  free : Nat
  cur : Cursor
deriving DecidableEq, Repr

/-- The G9 right after module reset, before the firmware core has verified a configuration image (R25, R27). -/
def State.reset : State where
  phase := .reset
  fail := 0
  cfgver := 0
  minver := 0
  flash := Vector.replicate 2 none
  config := none
  link := none
  joined := false
  module := 0
  lost := []
  samp := ⟨false, 16⟩
  phys := Memory.empty
  badPhys := []
  lp6 := []
  errors := []
  dies := Vector.replicate 4 Die.fresh
  cores := []
  teams := []
  contexts := Vector.replicate 64 Context.none
  barriers := []
  moves := []
  free := 0
  cur := ⟨0, 0, 0⟩

/-! ## What a step can stop with -/

/-- Why the machine stops with a fault. -/
inductive Fault where
  /-- An encoded instruction was executed with no live split at `State.cur`. Raised by every meaning of an encoded
  instruction; safe: no wave of the G9 is there to issue it. -/
  | noIssuer
deriving DecidableEq, Repr

/-- Why an instruction has no meaning. -/
inductive Refusal where
  /-- The instruction of this mnemonic is not modelled. Raised by the dispatcher alone; safe. -/
  | notModelled (mnemonic : String)
deriving DecidableEq, Repr

end Sys2Proof.Machine
end

