-- ==== Sys2Proof/Machine/Info.lean ====
section
/-! DEFINITION. What the checks at issue need of an instruction (R35, R51, R52): its class, the registers it reads and
writes, whether service mode decodes it (Table 14.2), whether it is privileged, and its length. -/

namespace Sys2Proof.Machine

/-- The four condition flags that carry pending-write bits (R51). -/
inductive Flag where
  | z | n | c | v
deriving DecidableEq, Repr

/-- A register of some kind (R51). -/
inductive Reg where
  | v (n : Nat)
  | s (n : Nat)
  | m (n : Nat)
  | k (n : Nat)
  | a (n : Nat)
  | f (x : Flag)
deriving DecidableEq, Repr

/-- The classes of Table 2.6; `service`: OINV and RETT. -/
inductive IssueClass where
  | scalar | sync | memory | engine | ring | matrix | vector | service
deriving DecidableEq, Repr

/-- Which mode an instruction needs (R52 rank 2): any, service mode, or firmware alone. -/
inductive Priv where
  | any | service | never
deriving DecidableEq, Repr

/-- What the checks at issue need. `names`: vector registers that are checked against POOLW.VREGS alone; `rep`: the instruction is a REP,
whose target belongs to it; `k0By`: the scalar whose SRCSP says whether k0 is read (R237). -/
structure Info where
  cls : IssueClass
  reads : List Reg := []
  writes : List Reg := []
  array : Bool := false
  service : Bool := false
  priv : Priv := .any
  names : List Nat := []
  len : Nat := 4
  rep : Bool := false
  k0By : Option SReg := none
deriving DecidableEq, Repr

/-- Consecutive vector registers. -/
def vs (r : VReg) (n : Nat) : List Reg := (List.range n).map fun i => .v (r.val + i)

/-- Consecutive scalar registers. -/
def ss (r : SReg) (n : Nat) : List Reg := (List.range n).map fun i => .s (r.val + i)

/-- Consecutive accumulator tiles, those past a15 left out (their instruction traps). -/
def as (r : AReg) (n : Nat) : List Reg := ((List.range n).filter fun i => r.val + i < 16).map fun i => .a (r.val + i)

/-- Registers of an operand of an integer type (R82). -/
def tSpan : IntType → Nat
  | .i64 | .n64 => 2
  | .i32 | .n32 | .i16x2 | .n16x2 | .i8x4 | .n8x4 => 1

/-- Registers of an operand of a floating-point type (R82). -/
def fSpan : FltType → Nat
  | .f64 => 2
  | .f32 | .bf16x2 | .f16x2 => 1

/-- Registers of an operand of a VCVT format (R107). -/
def cSpan : CvtFmt → Nat
  | .f64 => 2
  | .f32 | .bf16 | .f16 | .e4m3 | .e5m2 | .e2m1 | .i32 => 1

/-- Registers of a memory operand by width (Table 4.10). -/
def wSpan : Width → Nat
  | .b64 => 2
  | .b128 => 4
  | .b8 | .b16 | .b32 => 1

/-- Registers of an LDP destination by width. -/
def pSpan : ParamWidth → Nat
  | .b32 => 1
  | .b64 => 2
  | .b128 => 4

/-- Registers an atomic reads at D (Table 16.4). -/
def atomSpan (wide : Bool) (op : AtomOp) : Nat :=
  (if wide then 2 else 1) * (match op with
    | .cas => 2
    | .add | .and | .or | .xor | .mins | .minn | .maxs | .maxn | .xchg | .fadd => 1)

/-- Registers of a row group (Table 16.2). -/
def accSpan : ElemFmt → Nat
  | .fp64 => 32
  | .fp32 => 16
  | .bf16 | .fp16 => 8
  | .e4m3 | .e5m2 | .int8 | .nat8 => 4
  | .e2m1 | .int4 => 2
  | .cb2 => 1

/-- KS as a source: 0 names none (R346, R237, R341). -/
def kSrc (k : KReg) : List Reg := if k.val = 0 then [] else [.k k.val]

/-- The pending flags a condition reads (Table 4.6). -/
def condFlags : BrCond → List Reg
  | .al | .ps | .pc | .ks | .kc => []
  | .eq | .ne => [.f .z]
  | .lt | .ge => [.f .n, .f .v]
  | .le | .gt => [.f .z, .f .n, .f .v]
  | .ltn | .gen => [.f .c]

/-- A system register that holds an RWP or ROP field is read in service mode only (R52, R374). -/
def sysPriv : SysReg → Priv
  | .repc | .pdead | .tvec | .tcause | .trec | .tsib | .tpar | .tepc | .taddr | .cntsel _ => .service
  | .wstat | .wid | .tid | .ltile | .fpmode | .fpflags | .splits | .poolw | .role | .prq | .dumpobj | .traceobj => .any

/-- A write is privileged as a read is; CNTSEL4 to 7 are written through the window alone (R306). -/
def sysPrivWrite : SysReg → Priv
  | .cntsel n => if n.val < 4 then .service else .never
  | r => sysPriv r

/-- What the checks at issue need of each instruction: the registers its effect reads, and those it writes (R51; log 55). -/
def infoOf : Instr → Info
  | .vadd t m b a d _ =>
    { cls := .vector, reads := .m m.val :: (vs a (tSpan t) ++ vs b (tSpan t)), writes := vs d (tSpan t) }
  | .vsub t m b a d _ =>
    { cls := .vector, reads := .m m.val :: (vs a (tSpan t) ++ vs b (tSpan t)), writes := vs d (tSpan t) }
  | .vmul t m b a d _ =>
    { cls := .vector, reads := .m m.val :: (vs a (tSpan t) ++ vs b (tSpan t)), writes := vs d (tSpan t) }
  | .vmin t m b a d _ =>
    { cls := .vector, reads := .m m.val :: (vs a (tSpan t) ++ vs b (tSpan t)), writes := vs d (tSpan t) }
  | .vmax t m b a d _ =>
    { cls := .vector, reads := .m m.val :: (vs a (tSpan t) ++ vs b (tSpan t)), writes := vs d (tSpan t) }
  | .vshl t m b a d _ =>
    { cls := .vector, reads := .m m.val :: (vs a (tSpan t) ++ vs b (tSpan t)), writes := vs d (tSpan t) }
  | .vshr t m b a d _ =>
    { cls := .vector, reads := .m m.val :: (vs a (tSpan t) ++ vs b (tSpan t)), writes := vs d (tSpan t) }
  | .vand m b a d _ => { cls := .vector, reads := .m m.val :: (vs a 1 ++ vs b 1), writes := vs d 1 }
  | .vor m b a d _ => { cls := .vector, reads := .m m.val :: (vs a 1 ++ vs b 1), writes := vs d 1 }
  | .vxor m b a d _ => { cls := .vector, reads := .m m.val :: (vs a 1 ++ vs b 1), writes := vs d 1 }
  | .vcmp t m b a _ md _ =>
    { cls := .vector, reads := .m m.val :: (vs a (tSpan t) ++ vs b (tSpan t)), writes := [.m md.val] }
  | .vsel m b a d _ => { cls := .vector, reads := .m m.val :: (vs a 1 ++ vs b 1), writes := vs d 1 }
  | .vmad c b a d _ => { cls := .vector, reads := vs a 1 ++ vs b 1 ++ vs c 1, writes := vs d 1 }
  | .vaddImm _ a d _ => { cls := .vector, reads := vs a 1, writes := vs d 1 }
  | .vmov m a d _ => { cls := .scalar, reads := .m m.val :: vs a 1, writes := vs d 1 }
  | .vmovBcast m a d _ => { cls := .scalar, reads := [.m m.val, .s a.val], writes := vs d 1 }
  | .vmovMask m a d _ => { cls := .scalar, reads := [.m m.val, .m a.val], writes := vs d 1 }
  | .vidx m _ d _ => { cls := .scalar, reads := [.m m.val], writes := vs d 1 }
  | .vbit t m _ a d _ => { cls := .vector, reads := .m m.val :: vs a (tSpan t), writes := vs d (tSpan t) }
  | .vshfl _ m b a d _ => { cls := .vector, reads := .m m.val :: (vs a 1 ++ vs b 1), writes := vs d 1 }
  | .vvote m _ a d _ => { cls := .vector, reads := .m m.val :: vs a 1, writes := [.s d.val] }
  | .vred m _ a d _ => { cls := .vector, reads := .m m.val :: vs a 1, writes := vs d 1 }
  | .vscan _ m _ a d _ => { cls := .vector, reads := .m m.val :: vs a 1, writes := vs d 1 }
  | .vfadd t m b a d _ =>
    { cls := .vector, reads := .m m.val :: (vs a (fSpan t) ++ vs b (fSpan t)), writes := vs d (fSpan t) }
  | .vfsub t m b a d _ =>
    { cls := .vector, reads := .m m.val :: (vs a (fSpan t) ++ vs b (fSpan t)), writes := vs d (fSpan t) }
  | .vfmul t m b a d _ =>
    { cls := .vector, reads := .m m.val :: (vs a (fSpan t) ++ vs b (fSpan t)), writes := vs d (fSpan t) }
  | .vfmin t m b a d _ =>
    { cls := .vector, reads := .m m.val :: (vs a (fSpan t) ++ vs b (fSpan t)), writes := vs d (fSpan t) }
  | .vfmax t m b a d _ =>
    { cls := .vector, reads := .m m.val :: (vs a (fSpan t) ++ vs b (fSpan t)), writes := vs d (fSpan t) }
  | .vfcmp t m b a _ md _ =>
    { cls := .vector, reads := .m m.val :: (vs a (fSpan t) ++ vs b (fSpan t)), writes := [.m md.val] }
  | .vfma c b a d _ => { cls := .vector, reads := vs a 1 ++ vs b 1 ++ vs c 1, writes := vs d 1 }
  | .vfmaF64 c b a d _ => { cls := .vector, reads := vs a 2 ++ vs b 2 ++ vs c 2, writes := vs d 2 }
  | .vsfn _ m _ a d _ => { cls := .vector, reads := .m m.val :: vs a 1, writes := vs d 1 }
  | .vcvt _ m dst src a d _ => { cls := .vector, reads := .m m.val :: vs a (cSpan src), writes := vs d (cSpan dst) }
  | .smxu m b a d _ => { cls := .vector, reads := .m m.val :: (vs a 1 ++ vs d 2), writes := vs d 3 ++ vs b 1 }
  | .smxf m a d _ => { cls := .vector, reads := [.m m.val, .v (a.val + 1)], writes := vs d 1 }
  | .cmprs _ b a d _ => { cls := .vector, reads := [.s b.val, .s a.val], names := [d.val] }
  | .sadd b a d _ => { cls := .scalar, reads := [.s a.val, .s b.val], writes := [.s d.val], service := true }
  | .ssub b a d _ => { cls := .scalar, reads := [.s a.val, .s b.val], writes := [.s d.val], service := true }
  | .smul b a d _ => { cls := .scalar, reads := [.s a.val, .s b.val], writes := [.s d.val], service := true }
  | .smulh _ b a d _ => { cls := .scalar, reads := [.s a.val, .s b.val], writes := [.s d.val], service := true }
  | .sdiv _ b a d _ => { cls := .scalar, reads := [.s a.val, .s b.val], writes := [.s d.val], service := true }
  | .srem _ b a d _ => { cls := .scalar, reads := [.s a.val, .s b.val], writes := [.s d.val], service := true }
  | .sand b a d _ => { cls := .scalar, reads := [.s a.val, .s b.val], writes := [.s d.val], service := true }
  | .sor b a d _ => { cls := .scalar, reads := [.s a.val, .s b.val], writes := [.s d.val], service := true }
  | .sxor b a d _ => { cls := .scalar, reads := [.s a.val, .s b.val], writes := [.s d.val], service := true }
  | .sshl b a d _ => { cls := .scalar, reads := [.s a.val, .s b.val], writes := [.s d.val], service := true }
  | .sshr _ b a d _ => { cls := .scalar, reads := [.s a.val, .s b.val], writes := [.s d.val], service := true }
  | .smin _ b a d _ => { cls := .scalar, reads := [.s a.val, .s b.val], writes := [.s d.val], service := true }
  | .smax _ b a d _ => { cls := .scalar, reads := [.s a.val, .s b.val], writes := [.s d.val], service := true }
  | .sbit _ a d _ => { cls := .scalar, reads := [.s a.val], writes := [.s d.val], service := true }
  | .smov a d _ => { cls := .scalar, reads := [.s a.val], writes := [.s d.val], service := true }
  | .scmp _ b a _ =>
    { cls := .scalar, reads := [.s a.val, .s b.val], writes := [.f .z, .f .n, .f .c, .f .v], service := true }
  | .ssel c b a d _ =>
    { cls := .scalar, reads := [.s a.val, .s b.val] ++ condFlags c, writes := [.s d.val], service := true }
  | .saddImm _ a d _ => { cls := .scalar, reads := [.s a.val], writes := [.s d.val], service := true }
  | .sandImm _ a d _ => { cls := .scalar, reads := [.s a.val], writes := [.s d.val], service := true }
  | .sorImm _ a d _ => { cls := .scalar, reads := [.s a.val], writes := [.s d.val], service := true }
  | .sxorImm _ a d _ => { cls := .scalar, reads := [.s a.val], writes := [.s d.val], service := true }
  | .scmpImm _ a _ _ =>
    { cls := .scalar, reads := [.s a.val], writes := [.f .z, .f .n, .f .c, .f .v], service := true }
  | .sli _ h d _ =>
    { cls := .scalar, reads := if h.val = 0 then [] else [.s d.val], writes := [.s d.val], service := true }
  | .smovV _ a d _ => { cls := .scalar, reads := vs a 1, writes := [.s d.val] }
  | .smovM a d _ => { cls := .scalar, reads := [.m a.val], writes := [.s d.val] }
  | .smovCcRead d _ => { cls := .scalar, reads := [.f .z, .f .n, .f .c, .f .v], writes := [.s d.val] }
  | .smovCcWrite a _ => { cls := .scalar, reads := [.s a.val], writes := [.f .z, .f .n, .f .c, .f .v] }
  | .mlog _ b a d _ => { cls := .scalar, reads := [.m a.val, .m b.val], writes := [.m d.val] }
  | .mlogNot a d _ => { cls := .scalar, reads := [.m a.val], writes := [.m d.val] }
  | .mcnt _ a d _ => { cls := .scalar, reads := [.m a.val], writes := [.s d.val] }
  | .mset a md _ => { cls := .scalar, reads := [.s a.val], writes := [.m md.val] }
  | .msetAll md _ => { cls := .scalar, writes := [.m md.val] }
  | .msetNone md _ => { cls := .scalar, writes := [.m md.val] }
  | .msetFirst md _ => { cls := .scalar, writes := [.m md.val] }
  | .br _ c _ => { cls := .scalar, reads := condFlags c }
  | .bmz _ _ m _ => { cls := .scalar, reads := [.m m.val] }
  | .call _ _ => { cls := .scalar, writes := [.s 63] }
  | .fork _ m _ => { cls := .scalar, reads := [.m m.val] }
  | .nop _ => { cls := .scalar }
  | .join _ => { cls := .scalar }
  | .exit _ => { cls := .scalar }
  | .killpt _ => { cls := .sync }
  | .ret t _ => { cls := .scalar, reads := [.s t.val] }
  | .yieldWave _ lm _ => { cls := .sync, reads := [.s lm.val] }
  | .rep _ _ _ _ _ _ => { cls := .scalar, rep := true }
  | .ld _ _ w _ x k d _ => { cls := .memory, reads := .k k.val :: vs x 1, writes := vs d (wSpan w) }
  | .ldScalar _ _ _ _ x k d _ =>
    { cls := .memory, reads := [.k k.val, .s x.val], writes := [.s d.val], service := true }
  | .st _ _ w _ x k d _ => { cls := .memory, reads := .k k.val :: (vs x 1 ++ vs d (wSpan w)) }
  | .stScalar _ _ _ _ x k d _ => { cls := .memory, reads := [.k k.val, .s x.val, .s d.val], service := true }
  | .lds _ w _ x d _ => { cls := .vector, reads := vs x 1, writes := vs d (wSpan w) }
  | .sts _ w _ x d _ => { cls := .vector, reads := vs x 1 ++ vs d (wSpan w) }
  | .ldp _ w scalar _ d _ => { cls := .scalar, writes := if scalar then [.s d.val] else vs d (pSpan w) }
  | .atom _ wide op x k d _ =>
    { cls := .memory, reads := .k k.val :: (vs x 1 ++ vs d (atomSpan wide op)), writes := vs d (if wide then 2 else 1) }
  | .atomAr _ wide op x k d _ =>
    { cls := .memory, reads := .k k.val :: (vs x 1 ++ vs d (atomSpan wide op)), writes := vs d (if wide then 2 else 1) }
  | .atoms wide op x d _ =>
    { cls := .vector, reads := vs x 1 ++ vs d (atomSpan wide op), writes := vs d (if wide then 2 else 1) }
  | .fence _ _ _ => { cls := .sync }
  | .waita _ _ b a k _ => { cls := .sync, reads := [.k k.val, .s a.val, .s b.val] }
  | .cmake b a kd _ => { cls := .memory, reads := [.s a.val, .s b.val], writes := [.k kd.val] }
  | .cnarrow b a ks kd _ => { cls := .memory, reads := [.k ks.val, .s a.val, .s b.val], writes := [.k kd.val] }
  | .cload a ks kd _ => { cls := .memory, reads := [.k ks.val, .s a.val], writes := [.k kd.val] }
  | .cstore a ks kd _ => { cls := .memory, reads := [.k ks.val, .k kd.val, .s a.val] }
  | .cinfo _ a ks _ => { cls := .memory, reads := [.k ks.val], writes := [.s a.val] }
  | .cpy t p ks kd _ => { cls := .engine, reads := ss p 3 ++ kSrc ks ++ [.k kd.val], writes := [.s t.val] }
  | .gath t p ks _ => { cls := .engine, reads := ss p 4 ++ [.k ks.val], writes := [.s t.val] }
  | .bld t p ks _ => { cls := .memory, reads := ss p 3 ++ kSrc ks, writes := [.s t.val], array := true
                       k0By := if ks = 0 then some p else none }
  | .coll t p ks kd _ => { cls := .engine, reads := ss p 5 ++ kSrc ks ++ [.k kd.val], writes := [.s t.val] }
  | .ewait t _ => { cls := .sync, reads := [.s t.val] }
  | .mma ac _ fw sb _ t _ =>
    { cls := .matrix, reads := [.v fw.val, .s sb.val] ++ if ac then [.a t.val] else [], writes := [.a t.val], array := true }
  | .mmas ac _ fw sb _ t _ =>
    { cls := .matrix, reads := [.v fw.val, .s sb.val] ++ if ac then [.a t.val] else [], writes := [.a t.val], array := true }
  | .mmac ac _ fw sb _ t _ =>
    { cls := .matrix, reads := [.v fw.val, .s sb.val] ++ if ac then [.a t.val] else [], writes := [.a t.val], array := true }
  | .mmax ac _ fw sb _ t _ =>
    { cls := .matrix, reads := [.v fw.val, .s sb.val] ++ if ac then [.a t.val] else [], writes := [.a t.val], array := true }
  | .aclr t _ => { cls := .matrix, writes := [.a t.val], array := true }
  | .ald fmt v _ t _ =>
    { cls := .matrix, reads := vs v (accSpan fmt), writes := as t (if fmt = .fp64 then 2 else 1), array := true }
  | .ast fmt v _ t _ =>
    { cls := .matrix, reads := as t (if fmt = .fp64 then 2 else 1), writes := vs v (accSpan fmt), array := true }
  | .stga _ _ _ _ => { cls := .ring }
  | .stgw _ _ _ _ => { cls := .ring }
  | .post _ y v k _ => { cls := .sync, reads := .k k.val :: vs v 14, writes := [.s y.val, .f .z] }
  | .resv y v k _ => { cls := .sync, reads := [.k k.val, .s v.val], writes := [.s y.val, .f .z] }
  | .publ v k _ => { cls := .sync, reads := .k k.val :: vs v 1 }
  | .autld b a k _ => { cls := .sync, reads := [.k k.val, .s b.val], writes := [.s a.val] }
  | .autctl op b a _ =>
    { cls := .sync, reads := .s a.val :: (match op with | .quota => [.s b.val] | .en | .dis | .unload => []) }
  | .autq _ b a _ => { cls := .sync, reads := [.s a.val], writes := [.s b.val] }
  | .qopen a k _ => { cls := .sync, reads := [.k k.val], writes := [.s a.val] }
  | .qarr b a _ => { cls := .sync, reads := [.s a.val, .s b.val] }
  | .qstat b a _ => { cls := .sync, reads := [.s a.val], writes := [.s b.val] }
  | .qscale b a _ => { cls := .sync, reads := [.s a.val], writes := [.s b.val] }
  | .bar cnt _ _ _ => { cls := .sync, reads := [.s cnt.val] }
  | .bara cnt _ _ _ => { cls := .sync, reads := [.s cnt.val] }
  | .barw _ _ _ => { cls := .sync }
  | .part _ _ => { cls := .sync }
  | .trap _ _ => { cls := .scalar, service := true }
  | .rett _ => { cls := .service, service := true, priv := .service }
  | .mfsr n d _ => { cls := .scalar, writes := [.s d.val], service := true, priv := sysPriv n }
  | .mtsr n d _ => { cls := .scalar, reads := [.s d.val], service := true, priv := sysPrivWrite n }
  | .oinv d _ => { cls := .service, reads := [.s d.val], writes := [.s d.val], service := true, priv := .service }
  | .bkpt _ _ => { cls := .scalar }
  | .cntrd _ d _ => { cls := .scalar, writes := [.s d.val], service := true }
  | .vaddH b d _ => { cls := .vector, reads := [.v d.val, .v b.val], writes := [.v d.val], len := 2 }
  | .vsubH b d _ => { cls := .vector, reads := [.v d.val, .v b.val], writes := [.v d.val], len := 2 }
  | .vmulH b d _ => { cls := .vector, reads := [.v d.val, .v b.val], writes := [.v d.val], len := 2 }
  | .vandH b d _ => { cls := .vector, reads := [.v d.val, .v b.val], writes := [.v d.val], len := 2 }
  | .vorH b d _ => { cls := .vector, reads := [.v d.val, .v b.val], writes := [.v d.val], len := 2 }
  | .vxorH b d _ => { cls := .vector, reads := [.v d.val, .v b.val], writes := [.v d.val], len := 2 }
  | .vshlH b d _ => { cls := .vector, reads := [.v d.val, .v b.val], writes := [.v d.val], len := 2 }
  | .vshrH b d _ => { cls := .vector, reads := [.v d.val, .v b.val], writes := [.v d.val], len := 2 }
  | .vminH b d _ => { cls := .vector, reads := [.v d.val, .v b.val], writes := [.v d.val], len := 2 }
  | .vmaxH b d _ => { cls := .vector, reads := [.v d.val, .v b.val], writes := [.v d.val], len := 2 }
  | .vfaddH b d _ => { cls := .vector, reads := [.v d.val, .v b.val], writes := [.v d.val], len := 2 }
  | .vfsubH b d _ => { cls := .vector, reads := [.v d.val, .v b.val], writes := [.v d.val], len := 2 }
  | .vfmulH b d _ => { cls := .vector, reads := [.v d.val, .v b.val], writes := [.v d.val], len := 2 }
  | .vfmaxH b d _ => { cls := .vector, reads := [.v d.val, .v b.val], writes := [.v d.val], len := 2 }
  | .vfminH b d _ => { cls := .vector, reads := [.v d.val, .v b.val], writes := [.v d.val], len := 2 }
  | .vmovH b d _ => { cls := .scalar, reads := [.v b.val], writes := [.v d.val], len := 2 }
  | .moduleReset => { cls := .scalar }
  | .hostTrafficBeforeRun => { cls := .scalar }
  | .hostMemAccess _ _ => { cls := .scalar }
  | .hostHeadStore _ _ => { cls := .scalar }
  | .hostTailCas _ _ _ => { cls := .scalar }
  | .oinvreq _ _ _ => { cls := .scalar }
  | .shootDownAck _ => { cls := .scalar }
  | .replay _ _ => { cls := .scalar }
  | .teamkill _ _ _ => { cls := .scalar }
  | .contextSave _ => { cls := .scalar }
  | .contextRestore _ => { cls := .scalar }
  | .contextTearDown _ => { cls := .scalar }
  | .preemptRequest _ _ _ => { cls := .scalar }
  | .forcedSave _ _ => { cls := .scalar }
  | .saveImageWrite _ => { cls := .scalar }
  | .debugStop _ => { cls := .scalar }
  | .debugStopComplete _ => { cls := .scalar }
  | .debugResume _ _ _ => { cls := .scalar }
  | .debugDump _ => { cls := .scalar }
  | .sampctlWrite _ => { cls := .scalar }
  | .cntselWrite _ _ _ _ => { cls := .scalar }
  | .registerWrite _ _ => { cls := .scalar }
  | .pcSample _ _ _ => { cls := .scalar }
  | .droopEvent _ _ => { cls := .scalar }
  | .droopRecovery _ _ => { cls := .scalar }
  | .podJoin _ _ _ => { cls := .scalar }
  | .podModuleLoss _ => { cls := .scalar }
  | .softError _ _ _ => { cls := .scalar }
  | .sectorFill _ _ _ _ _ => { cls := .scalar }
  | .sectorWriteback _ _ _ _ => { cls := .scalar }
  | .partialWrite _ _ _ => { cls := .scalar }
  | .l2Eviction _ _ => { cls := .scalar }
  | .tentativeStore _ _ => { cls := .scalar }
  | .storeQueueDrain _ _ => { cls := .scalar }
  | .walkerFill _ _ _ _ _ _ => { cls := .scalar }
  | .systemEventWrite _ _ => { cls := .scalar }
  | .ingestionStep _ _ _ => { cls := .scalar }
  | .timeout _ _ _ => { cls := .scalar }
  | .launch _ => { cls := .scalar }
  | .teamPlacement _ => { cls := .scalar }
  | .postRecordWrite _ _ => { cls := .scalar }
  | .waveRetire _ _ => { cls := .scalar }
  | .markerWaitComplete _ _ => { cls := .scalar }
  | .serviceEntry _ _ => { cls := .scalar }
  | .matrixPass _ _ _ _ _ => { cls := .scalar }
  | .mmaxStep _ _ _ _ => { cls := .scalar }
  | .accumulatorExecute _ _ => { cls := .scalar }
  | .engineAdmission _ _ _ => { cls := .scalar }
  | .engineCompletion _ _ _ => { cls := .scalar }
  | .engineFaultEnd _ _ _ => { cls := .scalar }
  | .collContribution _ => { cls := .scalar }
  | .collResultDelivery _ _ _ => { cls := .scalar }
  | .quorumArrival _ _ _ => { cls := .scalar }
  | .quorumDeadline _ _ => { cls := .scalar }
  | .killRequest _ _ _ => { cls := .scalar }
  | .codeObjectLoad _ _ => { cls := .scalar }
  | .unassignedEncoding => { cls := .scalar }
  | .fetchOutsideText => { cls := .scalar }
  | .companionMemAccess _ _ => { cls := .scalar }
  | .walaroRemoteRequest _ _ _ _ _ => { cls := .scalar }
  | .contextCreation _ _ => { cls := .scalar }
  | .moduleFlashWrite _ _ => { cls := .scalar }
  | .hostLinkTraining _ _ => { cls := .scalar }

/-- The switch marker of an instruction (R50). -/
def markerOf : Instr → Bool
  | .vadd _ _ _ _ _ mk => mk
  | .vsub _ _ _ _ _ mk => mk
  | .vmul _ _ _ _ _ mk => mk
  | .vmin _ _ _ _ _ mk => mk
  | .vmax _ _ _ _ _ mk => mk
  | .vshl _ _ _ _ _ mk => mk
  | .vshr _ _ _ _ _ mk => mk
  | .vand _ _ _ _ mk => mk
  | .vor _ _ _ _ mk => mk
  | .vxor _ _ _ _ mk => mk
  | .vcmp _ _ _ _ _ _ mk => mk
  | .vsel _ _ _ _ mk => mk
  | .vmad _ _ _ _ mk => mk
  | .vaddImm _ _ _ mk => mk
  | .vmov _ _ _ mk => mk
  | .vmovBcast _ _ _ mk => mk
  | .vmovMask _ _ _ mk => mk
  | .vidx _ _ _ mk => mk
  | .vbit _ _ _ _ _ mk => mk
  | .vshfl _ _ _ _ _ mk => mk
  | .vvote _ _ _ _ mk => mk
  | .vred _ _ _ _ mk => mk
  | .vscan _ _ _ _ _ mk => mk
  | .vfadd _ _ _ _ _ mk => mk
  | .vfsub _ _ _ _ _ mk => mk
  | .vfmul _ _ _ _ _ mk => mk
  | .vfmin _ _ _ _ _ mk => mk
  | .vfmax _ _ _ _ _ mk => mk
  | .vfcmp _ _ _ _ _ _ mk => mk
  | .vfma _ _ _ _ mk => mk
  | .vfmaF64 _ _ _ _ mk => mk
  | .vsfn _ _ _ _ _ mk => mk
  | .vcvt _ _ _ _ _ _ mk => mk
  | .smxu _ _ _ _ mk => mk
  | .smxf _ _ _ mk => mk
  | .cmprs _ _ _ _ mk => mk
  | .sadd _ _ _ mk => mk
  | .ssub _ _ _ mk => mk
  | .smul _ _ _ mk => mk
  | .smulh _ _ _ _ mk => mk
  | .sdiv _ _ _ _ mk => mk
  | .srem _ _ _ _ mk => mk
  | .sand _ _ _ mk => mk
  | .sor _ _ _ mk => mk
  | .sxor _ _ _ mk => mk
  | .sshl _ _ _ mk => mk
  | .sshr _ _ _ _ mk => mk
  | .smin _ _ _ _ mk => mk
  | .smax _ _ _ _ mk => mk
  | .sbit _ _ _ mk => mk
  | .smov _ _ mk => mk
  | .scmp _ _ _ mk => mk
  | .ssel _ _ _ _ mk => mk
  | .saddImm _ _ _ mk => mk
  | .sandImm _ _ _ mk => mk
  | .sorImm _ _ _ mk => mk
  | .sxorImm _ _ _ mk => mk
  | .scmpImm _ _ _ mk => mk
  | .sli _ _ _ mk => mk
  | .smovV _ _ _ mk => mk
  | .smovM _ _ mk => mk
  | .smovCcRead _ mk => mk
  | .smovCcWrite _ mk => mk
  | .mlog _ _ _ _ mk => mk
  | .mlogNot _ _ mk => mk
  | .mcnt _ _ _ mk => mk
  | .mset _ _ mk => mk
  | .msetAll _ mk => mk
  | .msetNone _ mk => mk
  | .msetFirst _ mk => mk
  | .br _ _ mk => mk
  | .bmz _ _ _ mk => mk
  | .call _ mk => mk
  | .fork _ _ mk => mk
  | .nop mk => mk
  | .join mk => mk
  | .exit mk => mk
  | .killpt mk => mk
  | .ret _ mk => mk
  | .yieldWave _ _ mk => mk
  | .rep _ _ _ _ _ _ => false
  | .ld _ _ _ _ _ _ _ mk => mk
  | .ldScalar _ _ _ _ _ _ _ mk => mk
  | .st _ _ _ _ _ _ _ mk => mk
  | .stScalar _ _ _ _ _ _ _ mk => mk
  | .lds _ _ _ _ _ mk => mk
  | .sts _ _ _ _ _ mk => mk
  | .ldp _ _ _ _ _ mk => mk
  | .atom _ _ _ _ _ _ mk => mk
  | .atomAr _ _ _ _ _ _ mk => mk
  | .atoms _ _ _ _ mk => mk
  | .fence _ _ mk => mk
  | .waita _ _ _ _ _ mk => mk
  | .cmake _ _ _ mk => mk
  | .cnarrow _ _ _ _ mk => mk
  | .cload _ _ _ mk => mk
  | .cstore _ _ _ mk => mk
  | .cinfo _ _ _ mk => mk
  | .cpy _ _ _ _ mk => mk
  | .gath _ _ _ mk => mk
  | .bld _ _ _ mk => mk
  | .coll _ _ _ _ mk => mk
  | .ewait _ mk => mk
  | .mma _ _ _ _ _ _ mk => mk
  | .mmas _ _ _ _ _ _ mk => mk
  | .mmac _ _ _ _ _ _ mk => mk
  | .mmax _ _ _ _ _ _ mk => mk
  | .aclr _ mk => mk
  | .ald _ _ _ _ mk => mk
  | .ast _ _ _ _ mk => mk
  | .stga _ _ _ mk => mk
  | .stgw _ _ _ mk => mk
  | .post _ _ _ _ mk => mk
  | .resv _ _ _ mk => mk
  | .publ _ _ mk => mk
  | .autld _ _ _ mk => mk
  | .autctl _ _ _ mk => mk
  | .autq _ _ _ mk => mk
  | .qopen _ _ mk => mk
  | .qarr _ _ mk => mk
  | .qstat _ _ mk => mk
  | .qscale _ _ mk => mk
  | .bar _ _ _ mk => mk
  | .bara _ _ _ mk => mk
  | .barw _ _ mk => mk
  | .part _ mk => mk
  | .trap _ mk => mk
  | .rett mk => mk
  | .mfsr _ _ mk => mk
  | .mtsr _ _ mk => mk
  | .oinv _ mk => mk
  | .bkpt _ mk => mk
  | .cntrd _ _ mk => mk
  | .vaddH _ _ mk => mk
  | .vsubH _ _ mk => mk
  | .vmulH _ _ mk => mk
  | .vandH _ _ mk => mk
  | .vorH _ _ mk => mk
  | .vxorH _ _ mk => mk
  | .vshlH _ _ mk => mk
  | .vshrH _ _ mk => mk
  | .vminH _ _ mk => mk
  | .vmaxH _ _ mk => mk
  | .vfaddH _ _ mk => mk
  | .vfsubH _ _ mk => mk
  | .vfmulH _ _ mk => mk
  | .vfmaxH _ _ mk => mk
  | .vfminH _ _ mk => mk
  | .vmovH _ _ mk => mk
  | .moduleReset => false
  | .hostTrafficBeforeRun => false
  | .hostMemAccess _ _ => false
  | .hostHeadStore _ _ => false
  | .hostTailCas _ _ _ => false
  | .oinvreq _ _ _ => false
  | .shootDownAck _ => false
  | .replay _ _ => false
  | .teamkill _ _ _ => false
  | .contextSave _ => false
  | .contextRestore _ => false
  | .contextTearDown _ => false
  | .preemptRequest _ _ _ => false
  | .forcedSave _ _ => false
  | .saveImageWrite _ => false
  | .debugStop _ => false
  | .debugStopComplete _ => false
  | .debugResume _ _ _ => false
  | .debugDump _ => false
  | .sampctlWrite _ => false
  | .cntselWrite _ _ _ _ => false
  | .registerWrite _ _ => false
  | .pcSample _ _ _ => false
  | .droopEvent _ _ => false
  | .droopRecovery _ _ => false
  | .podJoin _ _ _ => false
  | .podModuleLoss _ => false
  | .softError _ _ _ => false
  | .sectorFill _ _ _ _ _ => false
  | .sectorWriteback _ _ _ _ => false
  | .partialWrite _ _ _ => false
  | .l2Eviction _ _ => false
  | .tentativeStore _ _ => false
  | .storeQueueDrain _ _ => false
  | .walkerFill _ _ _ _ _ _ => false
  | .systemEventWrite _ _ => false
  | .ingestionStep _ _ _ => false
  | .timeout _ _ _ => false
  | .launch _ => false
  | .teamPlacement _ => false
  | .postRecordWrite _ _ => false
  | .waveRetire _ _ => false
  | .markerWaitComplete _ _ => false
  | .serviceEntry _ _ => false
  | .matrixPass _ _ _ _ _ => false
  | .mmaxStep _ _ _ _ => false
  | .accumulatorExecute _ _ => false
  | .engineAdmission _ _ _ => false
  | .engineCompletion _ _ _ => false
  | .engineFaultEnd _ _ _ => false
  | .collContribution _ => false
  | .collResultDelivery _ _ _ => false
  | .quorumArrival _ _ _ => false
  | .quorumDeadline _ _ => false
  | .killRequest _ _ _ => false
  | .codeObjectLoad _ _ => false
  | .unassignedEncoding => false
  | .fetchOutsideText => false
  | .companionMemAccess _ _ => false
  | .walaroRemoteRequest _ _ _ _ _ => false
  | .contextCreation _ _ => false
  | .moduleFlashWrite _ _ => false
  | .hostLinkTraining _ _ => false

/-- A role may issue a class (Table 2.6). -/
def roleAllows (role : BitVec 2) : IssueClass → Bool
  | .scalar | .sync | .service => true
  | .memory => role != 2
  | .engine => role == 0 || role == 1
  | .ring => role != 3
  | .matrix => role == 0 || role == 2
  | .vector => role == 0 || role == 3

/-- A register's pending-write bit (R51). m0 has none. -/
def Pending.has (p : Pending) : Reg → Bool
  | .v n => p.v.getLsbD n
  | .s n => p.s.getLsbD n
  | .m n => p.m.getLsbD n
  | .k n => p.k.getLsbD n
  | .a n => p.a.getLsbD n
  | .f .z => p.f.getLsbD 0
  | .f .n => p.f.getLsbD 1
  | .f .c => p.f.getLsbD 2
  | .f .v => p.f.getLsbD 3

/-- A register's pending-write bit set; the bit of m0 is never set. -/
def Pending.mark (p : Pending) : Reg → Pending
  | .v n => { p with v := p.v ||| BitVec.ofNat 64 (2 ^ n) }
  | .s n => { p with s := p.s ||| BitVec.ofNat 64 (2 ^ n) }
  | .m n => if n = 0 then p else { p with m := p.m ||| BitVec.ofNat 8 (2 ^ n) }
  | .k n => { p with k := p.k ||| BitVec.ofNat 16 (2 ^ n) }
  | .a n => { p with a := p.a ||| BitVec.ofNat 16 (2 ^ n) }
  | .f .z => { p with f := p.f ||| 1 }
  | .f .n => { p with f := p.f ||| 2 }
  | .f .c => { p with f := p.f ||| 4 }
  | .f .v => { p with f := p.f ||| 8 }

/-- The pending-write bits of a list of registers set. -/
def Pending.markAll (p : Pending) (rs : List Reg) : Pending := rs.foldl Pending.mark p

end Sys2Proof.Machine
end

