-- ==== Sys2Proof/Machine/Memory.lean ====
section
/-! DEFINITION. The named operations over the sparse byte memories: reading and writing bytes and little-endian numbers
(R4), keeping the canonical form. -/

namespace Sys2Proof.Machine

/-- The byte listed at an address; 0 where none is. -/
def lookupCell : List Host.Cell → Nat → Byte
  | [], _ => 0
  | (b, v) :: cs, a => if a = b then v else lookupCell cs a

/-- One byte written; a 0 removes the entry. -/
def putCell : List Host.Cell → Nat → Byte → List Host.Cell
  | [], a, v => if v = 0 then [] else [(a, v)]
  | (b, w) :: cs, a, v =>
    if a < b then (if v = 0 then (b, w) :: cs else (a, v) :: (b, w) :: cs)
    else if a = b then (if v = 0 then cs else (a, v) :: cs)
    else (b, w) :: putCell cs a v

/-- The byte at an address. -/
def Memory.read (m : Memory) (a : Nat) : Byte := lookupCell m.cells a

/-- One byte written. -/
def Memory.write (m : Memory) (a : Nat) (v : Byte) : Memory := ⟨putCell m.cells a v⟩

/-- `n` bytes from an address up. -/
def Memory.readBytes (m : Memory) (a : Nat) : Nat → List Byte
  | 0 => []
  | n + 1 => m.read a :: m.readBytes (a + 1) n

/-- Bytes written from an address up. -/
def Memory.writeBytes (m : Memory) (a : Nat) : List Byte → Memory
  | [] => m
  | v :: vs => (m.write a v).writeBytes (a + 1) vs

/-- A little-endian number of `n` bytes (R4). -/
def Memory.readNat (m : Memory) (a n : Nat) : Nat := leNat (m.readBytes a n)

/-- A little-endian number of `n` bytes written (R4). -/
def Memory.writeNat (m : Memory) (a n v : Nat) : Memory := m.writeBytes a (leBytes n v)

/-- `n` bytes of a byte string from an offset, zeros past its end. -/
def slice (bs : List Byte) (off n : Nat) : List Byte :=
  let got := (bs.drop off).take n
  got ++ List.replicate (n - got.length) 0

/-- A little-endian number of `n` bytes at an offset of a byte string. -/
def bytesNat (bs : List Byte) (off n : Nat) : Nat := leNat (slice bs off n)

/-- A byte string with `new` laid over it from an offset; what passes its end is dropped. -/
def overlay (bs : List Byte) (off : Nat) (new : List Byte) : List Byte :=
  bs.take off ++ new.take (bs.length - off) ++ bs.drop (off + new.length)

/-- `n` zero bytes. -/
def zeros (n : Nat) : List Byte := List.replicate n 0

end Sys2Proof.Machine
end

