-- ==== Sys2Proof/Machine/Home.lean ====
section
/-! DEFINITION. The homes of physical memory: the content-shared L2 of a die (R125 to R141), the LP6 home agent (R127) and
the coherence of L1 sectors with both (R123). -/

namespace Sys2Proof.Machine

/-! ## Places (R14, R125) -/

/-- Where a physical address has its home (Table 1.2). -/
inductive HomeAt where
  | die (d : Fin 4)
  | lp6
deriving DecidableEq, Repr

/-- The HBM4E bytes homed on one die. -/
def dieBytes : Nat := 0x3000000000

/-- The home of a physical address; none where the map has no backing (R14). -/
def homeOf (pa : Nat) : Option HomeAt :=
  if pa < 4 * dieBytes then some (.die (Fin.ofNat 4 (pa / dieBytes)))
  else if 0x10000000000 ≤ pa ∧ pa < 0x30000000000 then some .lp6
  else none

/-- The line number in the die (R125). -/
def lineOf (pa : Nat) : Nat := pa % dieBytes / 1024

/-- The sector of its line an address lies in. -/
def sectorOf (pa : Nat) : Fin 4 := Fin.ofNat 4 (pa / 256)

/-- The address of the sector that holds an address. -/
def sectorBase (pa : Nat) : Nat := pa / 256 * 256

/-- The slice of a line (Table 6.2). -/
def sliceOf (line : Nat) : Nat := line % 24

/-- The set of a line in its slice (Table 6.2). -/
def setOf (line : Nat) : Nat := line / 24 % 1024

/-- The HBM4E stack of a line of a die (Table 6.2). -/
def stackOf (d : Fin 4) (line : Nat) : Nat := 3 * d.val + line % 24 / 8

/-! ## One die's bank: its L2 and the memory behind it -/

/-- What an L2 operation works on: the L2, physical memory, the sectors of it that hold poisoned content (R140), the die and the
lines that are pinned (R138). -/
structure Bank where
  l2 : L2
  phys : Memory
  bad : List Nat
  die : Fin 4
  pinned : List Nat
deriving DecidableEq, Repr

/-- The valid tag of a line. -/
def L2.tag? (l : L2) (line : Nat) : Option L2Tag := l.tags.find? fun t => t.line == line

/-- The pointer of a sector, NONE where the line has no tag. -/
def L2.pointer (l : L2) (line : Nat) (sec : Fin 4) : SectorPtr :=
  match l.tag? line with
  | some t => t.ptr[sec]
  | none => .none

/-- A data entry in use. -/
def L2.entry? (l : L2) (sl e : Nat) : Option DataEntry := l.entries.find? fun x => x.slice == sl && x.num == e

/-- One data entry through a function. -/
def L2.mapEntry (l : L2) (sl e : Nat) (f : DataEntry → DataEntry) : L2 :=
  { l with entries := l.entries.map fun x => if x.slice == sl && x.num == e then f x else x }

/-- A reference given up; an entry whose count falls to 0 is free at once and leaves the directory (R129). -/
def L2.release (l : L2) (sl : Nat) (p : SectorPtr) : L2 :=
  match p with
  | .none | .zero => l
  | .data e =>
    match l.entry? sl e with
    | none => l
    | some x =>
      if x.count ≤ 1 then
        { l with
          entries := l.entries.filter fun y => !(y.slice == sl && y.num == e)
          dir := l.dir.filter fun y => !(y.slice == sl && y.num == e) }
      else l.mapEntry sl e fun y => { y with count := y.count - 1 }

/-- The content a pointer names, and whether it is poisoned (R140); none for NONE (Table 6.3). -/
def L2.content (l : L2) (sl : Nat) (p : SectorPtr) : Option (List Byte × Bool) :=
  match p with
  | .none => none
  | .zero => some (zeros 256, l.badZero.contains sl)
  | .data e => (l.entry? sl e).map fun x => (x.data, x.poison)

/-- A pointer and its dirtiness set in a valid tag, which becomes the most recently used. -/
def L2.setPtr (l : L2) (line : Nat) (sec : Fin 4) (p : SectorPtr) (dirty : Bool) : L2 :=
  match l.tag? line with
  | none => l
  | some t =>
    { l with
      tags := { t with ptr := t.ptr.set sec p, dirty := t.dirty.set sec dirty } ::
        l.tags.filter fun u => !(u.line == line) }

/-- Data entries in use in a slice, version entries included (R136, R141). -/
def L2.used (l : L2) (sl : Nat) : Nat :=
  (l.entries.filter fun x => x.slice == sl).length +
    (l.versions.foldl (fun n v =>
      if sliceOf (v.line % dieBytes / 1024) == sl then n + (v.data.toList.filter Option.isSome).length else n) 0)

/-- The lowest number of a slice that names no entry in use, searched upward with fuel. -/
def L2.freshFrom (l : L2) (sl : Nat) : Nat → Nat → Nat
  | 0, n => n
  | fuel + 1, n => if (l.entry? sl n).isSome then l.freshFrom sl fuel (n + 1) else n

/-- A data entry taken: its content and poison, with one reference. -/
def L2.take (l : L2) (sl : Nat) (data : List Byte) (poison : Bool) : L2 × Nat :=
  let n := l.freshFrom sl l.entries.length 0
  ({ l with entries := ⟨sl, n, data, 1, poison⟩ :: l.entries }, n)

/-- A valid tag used: it becomes the most recently used (R138). -/
def L2.touch (l : L2) (line : Nat) : L2 :=
  match l.tag? line with
  | none => l
  | some t => { l with tags := t :: l.tags.filter fun u => !(u.line == line) }

/-- The base address of a die's range. -/
def Bank.base (b : Bank) : Nat := b.die.val * dieBytes

/-- The physical address of a sector. -/
def Bank.addr (b : Bank) (line : Nat) (sec : Fin 4) : Nat := b.base + 1024 * line + 256 * sec.val

/-- A sector written to HBM4E; memory that takes poisoned content keeps the poison (R140). -/
def Bank.writeBack (b : Bank) (a : Nat) (d : List Byte) (poison : Bool) : Bank :=
  let rest := b.bad.filter fun x => x != a
  { b with phys := b.phys.writeBytes a d, bad := if poison then a :: rest else rest }

/-- One sector of a line evicted: written to memory where dirty, its pointer released (R138). -/
def Bank.evictSector (b : Bank) (t : L2Tag) (sec : Fin 4) : Bank :=
  let b' :=
    match t.dirty[sec], b.l2.content (sliceOf t.line) t.ptr[sec] with
    | true, some (d, poison) => b.writeBack (b.addr t.line sec) d poison
    | _, _ => b
  { b' with l2 := b'.l2.release (sliceOf t.line) t.ptr[sec] }

/-- A line evicted (R138). -/
def Bank.evict (b : Bank) (line : Nat) : Bank :=
  match b.l2.tag? line with
  | none => b
  | some t =>
    let b' := (List.finRange 4).foldl (fun acc sec => acc.evictSector t sec) b
    { b' with l2 := { b'.l2 with tags := b'.l2.tags.filter fun u => !(u.line == line) } }

/-- A line holds a data entry. -/
def L2Tag.hasData (t : L2Tag) : Bool :=
  t.ptr.toList.any fun p => match p with | .data _ => true | .none | .zero => false

/-- Every data entry a line names has count 1 (R138). -/
def L2.allSingle (l : L2) (t : L2Tag) : Bool :=
  t.ptr.toList.all fun p =>
    match p with
    | .none | .zero => true
    | .data e => match l.entry? (sliceOf t.line) e with | some x => x.count ≤ 1 | none => true

/-- The victim among candidates listed from the most to the least recently used: lines without data first (R138). -/
def victimOf (cs : List L2Tag) : Option L2Tag :=
  match (cs.filter fun t => !t.hasData).getLast? with
  | some t => some t
  | none => cs.getLast?

/-- A tag for a line that has none, in a domain with every pointer NONE; a full set evicts first. -/
def Bank.newTag (b : Bank) (line dom : Nat) : Bank :=
  let inSet := b.l2.tags.filter fun t => sliceOf t.line == sliceOf line && setOf t.line == setOf line
  let b' :=
    if inSet.length < 16 then b
    else
      match victimOf (inSet.filter fun t => !b.pinned.contains t.line) with
      | some v => b.evict v.line
      | none => b
  { b' with
    l2 := { b'.l2 with
      tags := ⟨line, dom, Vector.replicate 4 .none, Vector.replicate 4 false⟩ :: b'.l2.tags } }

/-- A valid tag for a line in a domain, as its most recently used one. A line whose page has passed to an object of another domain
leaves the L2 first (R130). -/
def Bank.withTag (b : Bank) (line dom : Nat) : Bank :=
  match b.l2.tag? line with
  | some t => if t.dom = dom then { b with l2 := b.l2.touch line } else (b.evict line).newTag line dom
  | none => b.newTag line dom

/-- Free entries made in a slice: lines are evicted until more than `keep` entries are free (R134, R138). The line in hand
is never taken. R138 orders victims within a set and R134 names no set: the victim is the least recently used line of the whole slice
(DESIGN CHOICE, log 61). -/
def Bank.makeRoom (b : Bank) (sl keep line : Nat) : Nat → Bank
  | 0 => b
  | fuel + 1 =>
    if b.l2.used sl + keep < 16384 then b
    else
      let cs := b.l2.tags.filter fun t =>
        sliceOf t.line == sl && t.hasData && !(t.line == line) && !b.pinned.contains t.line
      match (cs.filter fun t => b.l2.allSingle t).getLast? with
      | some v => (b.evict v.line).makeRoom sl keep line fuel
      | none =>
        match cs.getLast? with
        | some v => (b.evict v.line).makeRoom sl keep line fuel
        | none => b

/-- More than `keep` entries of a slice are free. -/
def Bank.hasRoom (b : Bank) (sl keep : Nat) : Bool := decide (b.l2.used sl + keep < 16384)

/-- A new entry that any sharing event may take: 256 free entries stay back (R134). -/
def Bank.roomForFill (b : Bank) (line : Nat) : Bank := b.makeRoom (sliceOf line) 256 line b.l2.tags.length

/-- A new entry that un-sharing takes, from the reserve where need be (R134). -/
def Bank.roomForWrite (b : Bank) (line : Nat) : Bank := b.makeRoom (sliceOf line) 0 line b.l2.tags.length

/-- A reserve below 256 free entries made whole again (R134). -/
def Bank.refill (b : Bank) (line : Nat) : Bank := b.makeRoom (sliceOf line) 255 line b.l2.tags.length

/-- A sector for which no entry can be freed: its pointer is NONE, and content that is written goes to memory (R134; log 61). -/
def Bank.uncached (b : Bank) (line : Nat) (sec : Fin 4) (c : List Byte) (dirty poison : Bool) : Bank :=
  let old := b.l2.pointer line sec
  let b := if dirty then b.writeBack (b.addr line sec) c poison else b
  { b with l2 := (b.l2.setPtr line sec .none false).release (sliceOf line) old }

/-- What a sharing attempt that finds no entry to share counts (R132, R141). -/
def L2.missed (l : L2) (cand : Option DataEntry) (c : List Byte) : L2 :=
  { l with
    collide := l.collide + if cand.any fun x => x.data != c then 1 else 0
    saturate := l.saturate + if cand.any fun x => x.count == 255 then 1 else 0 }

/-- A sector given an entry of its own, listed in the directory under a hash where `listed` (R132, R134). -/
def Bank.enterNew (b : Bank) (line : Nat) (sec : Fin 4) (c : List Byte) (dirty : Bool) (dom : Nat) (h : Nat)
    (listed : Bool) : Bank :=
  let sl := sliceOf line
  let old := b.l2.pointer line sec
  let b := b.roomForFill line
  if !b.hasRoom sl 256 then b.uncached line sec c dirty false
  else
    let r := b.l2.take sl c false
    let l :=
      if listed then
        { r.1 with dir := ⟨sl, dom, h, r.2⟩ :: r.1.dir.filter fun y => !(y.slice == sl && y.dom == dom && y.hash == h) }
      else r.1
    { b with l2 := (l.setPtr line sec (.data r.2) dirty).release sl old }

/-- A sharing attempt for a whole sector of a line with a valid tag (R132). `key` names the domain's hash key. -/
def Bank.attempt (b : Bank) (key line : Nat) (sec : Fin 4) (c : List Byte) (dirty : Bool) : Bank :=
  let sl := sliceOf line
  let old := b.l2.pointer line sec
  if c = zeros 256 then
    { b with l2 := (b.l2.setPtr line sec .zero dirty).release sl old }
  else
    let dom := match b.l2.tag? line with | some t => t.dom | none => 0
    let h := Config.keyedHash key c
    let cand := (b.l2.dir.find? fun x => x.slice == sl && x.dom == dom && x.hash == h).bind fun x => b.l2.entry? sl x.num
    match cand.filter fun x => decide (x.count < 255) && x.data == c && !x.poison with
    | some x =>
      let l := b.l2.mapEntry sl x.num fun y => { y with count := y.count + 1 }
      { b with l2 := ({ l with share := l.share + 1 }.setPtr line sec (.data x.num) dirty).release sl old }
    | none =>
      { b with l2 := b.l2.missed cand c }.enterNew line sec c dirty dom h
        (cand.isNone || cand.any fun (x : DataEntry) => x.count == 255)

/-- A sector filled with the poisoned content of memory: an entry of its own, outside the directory (R140). -/
def Bank.fillBad (b : Bank) (line : Nat) (sec : Fin 4) : Bank :=
  let b := b.roomForFill line
  if !b.hasRoom (sliceOf line) 256 then b
  else
    let r := b.l2.take (sliceOf line) (b.phys.readBytes (b.addr line sec) 256) true
    { b with l2 := r.1.setPtr line sec (.data r.2) false }

/-- A sector filled from HBM4E where its pointer is NONE (R131); the line becomes the most recently used (R138). -/
def Bank.fill (b : Bank) (key line dom : Nat) (sec : Fin 4) : Bank :=
  let b := b.withTag line dom
  match b.l2.pointer line sec with
  | .none =>
    if b.bad.contains (b.addr line sec) then b.fillBad line sec
    else b.attempt key line sec (b.phys.readBytes (b.addr line sec) 256) false
  | .zero | .data _ => b

/-- A partial write to an entry of its own, taken from the reserve where need be (R133, R134). -/
def Bank.patchNew (b : Bank) (line : Nat) (sec : Fin 4) (c : List Byte) (poison unshare : Bool) : Bank :=
  let sl := sliceOf line
  let old := b.l2.pointer line sec
  let b := b.roomForWrite line
  if !b.hasRoom sl 0 then b.uncached line sec c true poison
  else
    let r := b.l2.take sl c poison
    let l := if unshare then { r.1 with unshare := r.1.unshare + 1 } else r.1
    ({ b with l2 := (l.setPtr line sec (.data r.2) true).release sl old }).refill line

/-- A partial write: one indivisible step (R133). `f` lays the written bytes over the sector. -/
def Bank.patch (b : Bank) (key line dom : Nat) (sec : Fin 4) (f : List Byte → List Byte) : Bank :=
  let b := b.fill key line dom sec
  let sl := sliceOf line
  match b.l2.pointer line sec with
  | .none =>
    let a := b.addr line sec
    b.writeBack a (f (b.phys.readBytes a 256)) (b.bad.contains a)
  | .zero => b.patchNew line sec (f (zeros 256)) false false
  | .data e =>
    match b.l2.entry? sl e with
    | none => b
    | some x =>
      if 1 < x.count then b.patchNew line sec (f x.data) x.poison true
      else
        let l := b.l2.mapEntry sl e fun y => { y with data := f y.data }
        let l := { l with dir := l.dir.filter fun y => !(y.slice == sl && y.num == e) }
        { b with l2 := l.setPtr line sec (.data e) true }

/-! ## Homes as seen from the whole module -/

/-- A core's state, fresh where nothing has touched it. -/
def State.core (s : State) (die : Fin 4) (num : Nat) : Core :=
  match s.cores.find? fun c => c.die == die && c.num == num with
  | some c => c
  | none => Core.fresh die num

/-- A core's state replaced. -/
def State.setCore (s : State) (c : Core) : State :=
  if s.cores.any fun x => x.die == c.die && x.num == c.num then
    { s with cores := s.cores.map fun x => if x.die == c.die && x.num == c.num then c else x }
  else { s with cores := s.cores ++ [c] }

/-- A die replaced. -/
def State.setDie (s : State) (d : Fin 4) (x : Die) : State := { s with dies := s.dies.set d x }

/-- A context replaced. -/
def State.setCtx (s : State) (c : Nat) (x : Context) : State :=
  if h : c < 64 then { s with contexts := s.contexts.set c x } else s

/-- A context by number; numbers from 64 up name none. -/
def State.ctx (s : State) (c : Nat) : Context := s.contexts.toList.getD c Context.none

/-- The hash-key draw of a domain (R130): domain 0 keeps draw 0, domain c + 1 its context's. -/
def State.keyOf (s : State) (dom : Nat) : Nat := if dom = 0 then 0 else (s.ctx (dom - 1)).keyDraw

/-- An engine command's destination sectors that pin lines (R138), as physical ranges `(start, bytes)`; filled in by
`EngineCmd.pins` at admission. -/
def State.pinnedLines (s : State) (d : Fin 4) : List Nat :=
  s.cores.foldl (fun acc c => c.engines.foldl (fun acc e =>
    acc ++ (e.pins.filter fun pa => homeOf pa == some (.die d)).map lineOf) acc) []

/-- The bank of a die. -/
def State.bank (s : State) (d : Fin 4) : Bank := ⟨s.dies[d].l2, s.phys, s.badPhys, d, s.pinnedLines d⟩

/-- A bank put back. -/
def State.setBank (s : State) (b : Bank) : State :=
  { s with phys := b.phys, badPhys := b.bad, dies := s.dies.set b.die { s.dies[b.die] with l2 := b.l2 } }

/-- A whole sector written at its home (R131, R127); a write to no backing is dropped (its access has faulted). -/
def State.homeWhole (s : State) (pa dom : Nat) (data : List Byte) : State :=
  match homeOf pa with
  | some (.die d) =>
    let b := (s.bank d).withTag (lineOf pa) dom
    s.setBank (b.attempt (s.keyOf dom) (lineOf pa) (sectorOf pa) data true)
  | some .lp6 => { s with phys := s.phys.writeBytes (sectorBase pa) data }
  | none => s

/-- A partial write of a sector at its home (R133, R127). -/
def State.homePatch (s : State) (pa dom : Nat) (f : List Byte → List Byte) : State :=
  match homeOf pa with
  | some (.die d) => s.setBank ((s.bank d).patch (s.keyOf dom) (lineOf pa) dom (sectorOf pa) f)
  | some .lp6 =>
    { s with phys := s.phys.writeBytes (sectorBase pa) (f (s.phys.readBytes (sectorBase pa) 256)) }
  | none => s

/-- A sector filled at its home. -/
def State.homeFill (s : State) (pa dom : Nat) : State :=
  match homeOf pa with
  | some (.die d) => s.setBank ((s.bank d).fill (s.keyOf dom) (lineOf pa) dom (sectorOf pa))
  | some .lp6 => s
  | none => s

/-- What a sector holds at its home, and whether it is poisoned (R140). -/
def State.homeSector (s : State) (pa : Nat) : List Byte × Bool :=
  match homeOf pa with
  | some (.die d) =>
    let l := s.dies[d].l2
    match l.content (sliceOf (lineOf pa)) (l.pointer (lineOf pa) (sectorOf pa)) with
    | some c => c
    | none => (s.phys.readBytes (sectorBase pa) 256, s.badPhys.contains (sectorBase pa))
  | some .lp6 => (s.phys.readBytes (sectorBase pa) 256, false)
  | none => (zeros 256, false)

/-- A data entry poisoned, with every sector that points at it; it leaves the directory (R140). -/
def L2.poisonEntry (l : L2) (sl e : Nat) : L2 :=
  let l := l.mapEntry sl e fun y => { y with poison := true }
  { l with dir := l.dir.filter fun y => !(y.slice == sl && y.num == e) }

/-- What a home holds of a sector made poisoned (R140). -/
def State.poisonAt (s : State) (pa : Nat) : State :=
  match homeOf pa with
  | some (.die d) =>
    let line := lineOf pa
    match s.dies[d].l2.pointer line (sectorOf pa) with
    | .data e => s.setDie d { s.dies[d] with l2 := s.dies[d].l2.poisonEntry (sliceOf line) e }
    | .none => { s with badPhys := sectorBase pa :: s.badPhys.filter fun x => x != sectorBase pa }
    | .zero => s
  | some .lp6 | none => s

/-! ## Counters -/

/-- A selector counts an event of source `src` caused by context `ctx`, none for an event of the quad (Table 15.4). -/
def CntSel.counts (c : CntSel) (src : Nat) (ctx : Option Nat) : Bool :=
  c.en && c.src.toNat == src && (!c.own || ctx == some c.ctx.toNat)

/-- `n` events of a source counted on a core. -/
def Core.count (c : Core) (src : Nat) (ctx : Option Nat) (n : Nat) : Core :=
  { c with counters := Vector.ofFn fun j =>
      if c.cntsel[j].counts src ctx then c.counters[j] + BitVec.ofNat 48 n else c.counters[j] }

/-- Some counter of a core counts the source. -/
def Core.watches (c : Core) (src : Nat) (ctx : Option Nat) : Bool :=
  c.cntsel.toList.any fun x => x.counts src ctx

/-- `n` events of a source counted on a core of the module; a core on which nothing counts them is left as it is. -/
def State.count (s : State) (die : Fin 4) (num src : Nat) (ctx : Option Nat) (n : Nat) : State :=
  if (s.core die num).watches src ctx then s.setCore ((s.core die num).count src ctx n) else s

/-! ## Coherence of L1 with the homes (R123) -/

/-- The L1 sectors of the module that hold a physical sector. -/
def State.copies (s : State) (pa : Nat) : List L1Sector :=
  s.cores.foldl (fun acc c => acc ++ c.l1.filter fun x => x.pa == sectorBase pa) []

/-- The address of the line that holds an address: the grain of coherence (R123). -/
def lineBase (pa : Nat) : Nat := pa / 1024 * 1024

/-- The dirty sectors of a core's L1 that satisfy a condition written back whole to their homes, and counted (R122, source 7). -/
def State.writeBackCore (s : State) (c : Core) (p : L1Sector → Bool) : State :=
  let dirty := c.l1.filter fun x => p x && x.dirty
  if dirty.isEmpty then s
  else (dirty.foldl (fun acc x => acc.homeWhole x.pa x.dom x.data) s).count c.die c.num 7 none dirty.length

/-- The same on every core; `p` also sees the core. -/
def State.writeBackAll (s : State) (p : Core → L1Sector → Bool) : State :=
  s.cores.foldl (fun acc c => acc.writeBackCore c (p c)) s

/-- The L1 sectors of the module that satisfy a condition leave it, dirty ones written back first. -/
def State.dropL1 (s : State) (p : Core → L1Sector → Bool) : State :=
  if s.cores.any fun c => c.l1.any (p c) then
    let s := s.writeBackAll p
    { s with cores := s.cores.map fun c => { c with l1 := c.l1.filter fun x => !p c x } }
  else s

/-- A snoop of a sector (R123): dirty L1 copies are written back whole to its home, and clean from then on. -/
def State.recall (s : State) (pa : Nat) : State :=
  if (s.copies pa).any fun x => x.dirty then
    let s := s.writeBackAll fun _ x => x.pa == sectorBase pa
    { s with cores := s.cores.map fun c =>
      { c with l1 := c.l1.map fun x => if x.pa == sectorBase pa then { x with dirty := false } else x } }
  else s

/-- Every L1 copy of the line that holds an address invalidated, dirty sectors written back first (R123, R124). -/
def State.purge (s : State) (pa : Nat) : State := s.dropL1 fun _ x => lineBase x.pa == lineBase pa

/-- A core takes a line for writing: every other core's sectors of it are invalidated, dirty ones written back first, and so is
the core's own copy of the sector under another tag (R123). -/
def State.claim (s : State) (die : Fin 4) (num pa : Nat) (own : L1Sector → Bool) : State :=
  s.dropL1 fun c x =>
    if c.die == die && c.num == num then x.pa == sectorBase pa && !own x else lineBase x.pa == lineBase pa

/-- What a coherent reader finds in a sector now: a dirty L1 copy, else the home's content. -/
def State.peekSector (s : State) (pa : Nat) : List Byte × Bool :=
  match (s.copies pa).find? fun x => x.dirty with
  | some x => (x.data, false)
  | none => s.homeSector pa

/-- The byte a coherent reader finds at a physical address now. -/
def State.peek (s : State) (pa : Nat) : Byte := (s.peekSector pa).1.getD (pa % 256) 0

/-- `n` bytes a coherent reader finds from a physical address up. -/
def State.peekBytes (s : State) (pa : Nat) : Nat → List Byte
  | 0 => []
  | n + 1 => s.peek pa :: s.peekBytes (pa + 1) n

/-- A number a coherent reader finds at a physical address now. -/
def State.peekNat (s : State) (pa n : Nat) : Nat := leNat (s.peekBytes pa n)

/-- Bytes that lie in one sector written at its home, around every L1 (R124): copies are invalidated first. -/
def State.pokeSector (s : State) (pa dom : Nat) (bs : List Byte) : State :=
  (s.purge pa).homePatch pa dom fun c => overlay c (pa % 256) bs

/-- Bytes written at their homes from a physical address up, sector by sector, at most `fuel` sectors. -/
def State.poke (s : State) (pa dom : Nat) (bs : List Byte) : Nat → State
  | 0 => s
  | fuel + 1 =>
    if bs.isEmpty then s
    else
      let n := 256 - pa % 256
      (s.pokeSector pa dom (bs.take n)).poke (pa + n) dom (bs.drop n) fuel

/-- A number of `n` bytes written at its home. -/
def State.pokeNat (s : State) (pa dom n v : Nat) : State := s.poke pa dom (leBytes n v) (n / 256 + 2)

/-- A whole sector written by an engine or a release fill (R131, R269): L1 copies are invalidated. -/
def State.pokeWhole (s : State) (pa dom : Nat) (data : List Byte) : State := (s.purge pa).homeWhole pa dom data

end Sys2Proof.Machine
end

