-- ==== Sys2Proof/Machine/Walk.lean ====
section
/-! DEFINITION. Capabilities (R144, R151), object tables and translation (R150 to R153), and the reach of
an access into L1 or its home (R122, R147, R148). -/

namespace Sys2Proof.Machine

/-! ## Capabilities (Table 7.1) -/

/-- OBJ. -/
def capObj (c : Cap) : Nat := c.toNat % 2 ^ 24
/-- BASE. -/
def capBase (c : Cap) : Nat := c.toNat / 2 ^ 24 % 2 ^ 40
/-- LEN. -/
def capLen (c : Cap) : Nat := c.toNat / 2 ^ 64 % 2 ^ 40
/-- RIGHTS: read 1, write 2, atomic 4, engine 8, tentative 16. -/
def capRights (c : Cap) : Nat := c.toNat / 2 ^ 104 % 2 ^ 5
/-- VALID. -/
def capValid (c : Cap) : Bool := c.toNat.testBit 109
/-- PUB. -/
def capPub (c : Cap) : Bool := c.toNat.testBit 110
/-- Reserved bit 111. -/
def capRsv (c : Cap) : Bool := c.toNat.testBit 111
/-- GEN. -/
def capGen (c : Cap) : Nat := c.toNat / 2 ^ 112

/-- A valid capability of the given fields. -/
def capMake (obj base len rights : Nat) (pub : Bool) (gen : Nat) : Cap :=
  BitVec.ofNat 128 (obj % 2 ^ 24 + base % 2 ^ 40 * 2 ^ 24 + len % 2 ^ 40 * 2 ^ 64 + rights % 2 ^ 5 * 2 ^ 104 +
    2 ^ 109 + bit pub * 2 ^ 110 + gen % 2 ^ 16 * 2 ^ 112)

/-- A capability's rights hold all of `need`. -/
def capHas (c : Cap) (need : Nat) : Bool := capRights c &&& need == need

/-- The capability is tentative (R136). -/
def capTent (c : Cap) : Bool := capHas c 16

/-- The domain of an access through a capability in a context (R130). -/
def domainOf (ctx : Nat) (c : Cap) : Nat := if capPub c then 0 else ctx + 1

/-- A capability from its 16-byte image. -/
def capOfBytes (bs : List Byte) : Cap := BitVec.ofNat 128 (bytesNat bs 0 16)

/-- The image of a capability (R144). -/
def capBytes (c : Cap) : List Byte := leBytes 16 c.toNat

/-- An object identity of another module (R303). -/
def remoteObj (obj : Nat) : Bool := 2 ^ 23 ≤ obj

/-! ## Object tables (Table 7.4) -/

/-- An object table entry. -/
structure Entry where
  size : Nat
  rights : Nat
  alias_ : Bool
  tent : Bool
  pub : Bool
  tier : Nat
  home : Fin 4
  valid : Bool
  cgen : Nat
  mgen : Nat
  nleaf : Nat
  leafPa : Nat
deriving DecidableEq, Repr

/-- An entry from its bytes. R150 states no rejection of an entry whose reserved fields are not zero; they are not looked at. Table 7.4
has LEAFPA[3:0] zero and names no outcome where it is not: the address is used as it stands (both DESIGN CHOICE, log 56). -/
def Entry.ofBytes (bs : List Byte) : Entry :=
  let a := bytesNat bs 0 8
  let b := bytesNat bs 8 8
  { size := field a 0 40, rights := field a 40 5, alias_ := fieldBit a 45, tent := fieldBit a 46, pub := fieldBit a 47,
    tier := field a 48 1, home := fieldFin 4 (field a 49 2) 0, valid := fieldBit a 51, cgen := field b 0 16,
    mgen := field b 16 16, nleaf := field b 32 24, leafPa := bytesNat bs 16 8 % 2 ^ 48 }

/-- The bytes of an entry. -/
def Entry.toBytes (e : Entry) : List Byte :=
  leBytes 8 (e.size % 2 ^ 40 + e.rights % 32 * 2 ^ 40 + bit e.alias_ * 2 ^ 45 + bit e.tent * 2 ^ 46 +
      bit e.pub * 2 ^ 47 + e.tier % 2 * 2 ^ 48 + e.home.val * 2 ^ 49 + bit e.valid * 2 ^ 51) ++
    leBytes 8 (e.cgen % 2 ^ 16 + e.mgen % 2 ^ 16 * 2 ^ 16 + e.nleaf % 2 ^ 24 * 2 ^ 32) ++
    leBytes 8 (e.leafPa % 2 ^ 48) ++ zeros 8

/-- The physical address of an entry. -/
def State.entryPa (s : State) (ctx obj : Nat) : Nat := (s.ctx ctx).tableBase + 32 * obj

/-- Why a read of `n` bytes, at most 256, of a table or a leaf list fails: no backing (R14) or poison (R140). -/
def State.readFault (s : State) (pa n : Nat) : Option Nat :=
  if (homeOf pa).isNone || (homeOf (pa + n - 1)).isNone then some 0x29
  else if (s.peekSector pa).2 || (s.peekSector (pa + n - 1)).2 then some 0x2A
  else none

/-- An identity that a context's table can hold (R150, R303). -/
def State.inTable (s : State) (ctx obj : Nat) : Bool :=
  decide (obj ≠ 0) && decide (obj < (s.ctx ctx).tableLen) && !remoteObj obj

/-- Why an entry of a context's table cannot be read. -/
def State.entryFault (s : State) (ctx obj : Nat) : Option Nat :=
  if s.inTable ctx obj then s.readFault (s.entryPa ctx obj) 32 else none

/-- A valid entry of a context's table; none for identity 0, one at or beyond the table's length, VALID = 0 (R150), or one that
cannot be read. -/
def State.entry (s : State) (ctx obj : Nat) : Option Entry :=
  if !s.inTable ctx obj || (s.readFault (s.entryPa ctx obj) 32).isSome then none
  else
    let e := Entry.ofBytes (s.peekBytes (s.entryPa ctx obj) 32)
    if e.valid then some e else none

/-- The domain of an object of a context: 0 for a public one (R130). -/
def State.objDomain (s : State) (ctx obj : Nat) : Nat := if (s.entry ctx obj).any fun e => e.pub then 0 else ctx + 1

/-- The object is an alias of another (R124). -/
def State.aliased (s : State) (ctx obj : Nat) : Bool := (s.entry ctx obj).any fun e => e.alias_

/-- An entry written by the firmware, coherently. -/
def State.setEntry (s : State) (ctx obj : Nat) (e : Entry) : State := s.poke (s.entryPa ctx obj) (ctx + 1) e.toBytes 2

/-- An entry grants a set of rights: they lie within its RIGHTS, and tentative appears only with TENT (R149, R151). -/
def Entry.grants (e : Entry) (rights : Nat) : Bool := rights &&& e.rights == rights && (!rights.testBit 4 || e.tent)

/-- The checks of R151 on a capability image against an entry; the cause of the first failure that counts. An entry that cannot be
read is a bus error or poison met at the port (R338). -/
def State.validate (s : State) (ctx : Nat) (c : Cap) : Option Nat :=
  if capValid c = false ∨ capRsv c then some 0x23
  else if (s.entryFault ctx (capObj c)).isSome then s.entryFault ctx (capObj c)
  else
    match s.entry ctx (capObj c) with
    | none => some 0x23
    | some e =>
      if capPub c ≠ e.pub ∨ e.size < capBase c + capLen c ∨ !e.grants (capRights c) then some 0x23
      else if capGen c ≠ e.cgen then some 0x22
      else none

/-! ## Translation (R152) -/

/-- An extent leaf (Table 7.5). -/
structure Leaf where
  opage : Nat
  run : Nat
  ppage : Nat
  present : Bool
  migrating : Bool
  clean : Bool
deriving DecidableEq, Repr

/-- A leaf from its bytes; `clean`: its reserved bits are zero. -/
def Leaf.ofBytes (bs : List Byte) : Leaf :=
  let a := bytesNat bs 0 8
  { opage := field a 0 24, run := field a 24 8, ppage := field a 32 28, present := fieldBit a 60,
    migrating := fieldBit a 61, clean := field a 62 2 == 0 && bytesNat bs 8 8 == 0 }

/-- The leaves of an object, as a coherent reader finds them. -/
def State.leaves (s : State) (e : Entry) : List Leaf :=
  (List.range e.nleaf).map fun i => Leaf.ofBytes (s.peekBytes (e.leafPa + 16 * i) 16)

/-- A leaf covers a page. -/
def Leaf.covers (l : Leaf) (page : Nat) : Bool := l.opage ≤ page && page ≤ l.opage + l.run

/-- The physical run of a leaf lies in one backed range of the tier (Table 1.2). -/
def Leaf.backed (l : Leaf) (tier : Nat) : Bool :=
  let lo := l.ppage * 65536
  let hi := (l.ppage + l.run) * 65536 + 65535
  match homeOf lo, homeOf hi with
  | some (.die d), some (.die d') => tier == 0 && d == d'
  | some .lp6, some .lp6 => tier == 1
  | _, _ => false

/-- Two neighbouring leaves in order, without overlap. -/
def Leaf.inOrder (a b : Leaf) : Bool := a.opage + a.run < b.opage

/-- A leaf is well formed by itself: its reserved bits are zero, its run begins every page below SIZE, and it is backed. -/
def Leaf.sound (l : Leaf) (e : Entry) : Bool :=
  l.clean && decide (65536 * (l.opage + l.run) < e.size) && l.backed e.tier

/-- What a translation gives (R152): `failed` is BUS_ERROR (0x29), or poison that the walker read (0x2A, R140). -/
inductive Trans where
  | retired
  | notPresent (mgen : Nat)
  | migrating (mgen : Nat)
  | failed (cause : Nat)
  | ok (pa : Nat) (e : Entry) (l : Leaf)
deriving DecidableEq, Repr

/-- The outcome a covering leaf gives, judged on itself and on its neighbours in the list; M comes before P. -/
def judgeLeaf (e : Entry) (before : Option Leaf) (l : Leaf) (after : Option Leaf) (off : Nat) : Trans :=
  if l.migrating then .migrating e.mgen
  else if !l.present then .notPresent e.mgen
  else if (before.all fun b => b.inOrder l && b.sound e) && (after.all fun a => l.inOrder a && a.sound e) && l.sound e then
    .ok (l.ppage * 65536 + off % 65536 + 65536 * (off / 65536 - l.opage)) e l
  else .failed 0x29

/-- Every leaf with its neighbours, from the one before the list. -/
def withNeighbours (before : Option Leaf) : List Leaf → List (Option Leaf × Leaf × Option Leaf)
  | [] => []
  | l :: ls => (before, l, ls.head?) :: withNeighbours (some l) ls

/-- The list is sorted without overlap and every leaf is sound. -/
def leavesOk (e : Entry) : List Leaf → Bool
  | [] => true
  | [l] => l.sound e
  | l :: m :: ls => l.sound e && l.inOrder m && leavesOk e (m :: ls)

/-- A leaf with its neighbours that a page is not judged on is sound, and so is its order before the next one. -/
def Leaf.restOk (e : Entry) (page : Nat) (before : Option Leaf) (l : Leaf) (after : Option Leaf) : Bool :=
  (l.covers page || (before.any fun b => b.covers page) || (after.any fun a => a.covers page) || l.sound e) &&
    (l.covers page || after.all fun a => a.covers page || l.inOrder a)

/-- The leaves that cover a page stand next to each other, and the rest of the list is well formed: the page is judged on them and
their neighbours alone. -/
def onlyThese (e : Entry) (ls : List Leaf) (page : Nat) : Bool :=
  !((ls.dropWhile fun l => !l.covers page).dropWhile fun l => l.covers page).any (fun l => l.covers page) &&
    (withNeighbours none ls).all fun t => Leaf.restOk e page t.1 t.2.1 t.2.2

/-- What the leaves of an object say of a page (R152). Where two outcomes apply to one leaf, or the list is malformed elsewhere,
the outcome is one of those R152 allows, picked by a free value (log 14). -/
def State.judge (s : State) (e : Entry) (ls : List Leaf) (off : Nat) : Trans :=
  let page := off / 65536
  let cov := ((withNeighbours none ls).filter fun t => t.2.1.covers page).map fun t => judgeLeaf e t.1 t.2.1 t.2.2 off
  if leavesOk e ls then cov.headD (.notPresent e.mgen)
  else
    let all :=
      (if !cov.isEmpty && onlyThese e ls page then [Trans.failed 0x29]
        else [.failed 0x29, .notPresent e.mgen, .migrating e.mgen]) ++ cov
    all.getD (Config.walkChoice s.free page % all.length) (.failed 0x29)

/-- The causes for which the leaves of an object cannot be read, in their order, each with whether the page is judged on the leaf. -/
def State.leafFaults (s : State) (e : Entry) (ls : List Leaf) (page : Nat) : List (Nat × Bool) :=
  (withNeighbours none ls).zipIdx.filterMap fun p =>
    (s.readFault (e.leafPa + 16 * p.2) 16).map fun c =>
      (c, p.1.2.1.covers page || p.1.1.any (fun l => l.covers page) || p.1.2.2.any fun l => l.covers page)

/-- The walk of an entry's leaves (R152). A leaf that the page is judged on and that cannot be read fails the walk, and so does a list
of which no leaf can be read; whether a search meets another leaf that cannot be read is open (log 14). -/
def State.walkLeaves (s : State) (e : Entry) (off : Nat) : Trans :=
  let ls := s.leaves e
  let bad := s.leafFaults e ls (off / 65536)
  match bad with
  | [] => s.judge e ls off
  | b :: _ =>
    match bad.find? fun x => x.2 with
    | some x => .failed x.1
    | none =>
      if bad.length = ls.length || Config.walkChoice s.free (off / 65536 + 2 ^ 24) % 2 = 0 then .failed b.1
      else s.judge e ls off

/-- The walk of an object's table and leaves (R152, R153). -/
def State.walk (s : State) (ctx obj off : Nat) : Trans :=
  match s.entryFault ctx obj, s.entry ctx obj with
  | some c, _ => .failed c
  | none, none => .retired
  | none, some e => s.walkLeaves e off

/-- A physical address that an object's offset translates to, present and not migrating. -/
def State.objectPa (s : State) (ctx obj off : Nat) : Option Nat :=
  match s.walk ctx obj off with
  | .ok pa _ _ => some pa
  | .retired | .notPresent _ | .migrating _ | .failed _ => none

/-! ## The translation buffer (R153) -/

/-- The buffer entry that covers a page. -/
def Core.otbHit (c : Core) (dom obj page : Nat) : Option OtbEntry :=
  c.otb.find? fun x => x.dom == dom && x.obj == obj && x.opage ≤ page && page ≤ x.opage + x.run

/-- A leaf put into the buffer as its most recently used entry; the least recently used leaves a full one. -/
def Core.otbFill (c : Core) (dom obj : Nat) (e : Entry) (l : Leaf) : Core :=
  let x : OtbEntry :=
    ⟨dom, obj, BitVec.ofNat 16 e.mgen, BitVec.ofNat 16 e.cgen, bit e.alias_, l.opage, l.run, l.ppage⟩
  { c with otb := (x :: c.otb.filter fun y => !(y.dom == dom && y.obj == obj && y.opage == l.opage)).take 512 }

/-- A buffer entry used: it becomes the most recent. -/
def Core.otbTouch (c : Core) (x : OtbEntry) : Core := { c with otb := x :: c.otb.erase x }

/-- What the memory port finds for an access (R147). -/
inductive Reach where
  | l1 (x : L1Sector)
  | mem (pa : Nat) (around : Bool)
  | stale
  | failed (cause : Nat)
  | unfinished (cause mgen : Nat)
  | remote
deriving DecidableEq, Repr

/-- Translation at a core's memory port, through its buffer (R153). -/
def State.translate (s : State) (die : Fin 4) (num ctx dom obj off gen : Nat) : State × Reach :=
  let c := s.core die num
  match c.otbHit dom obj (off / 65536) with
  | some x =>
    let s := s.setCore (c.otbTouch x)
    if x.cgen.toNat ≠ gen then (s, .stale)
    else (s, .mem (x.ppage * 65536 + off % 65536 + 65536 * (off / 65536 - x.opage)) (x.flags % 2 == 1))
  | none =>
    let s := s.count die num 8 (some ctx) 1
    match s.walk ctx obj off with
    | .retired => (s, .stale)
    | .notPresent g => if (s.entry ctx obj).any fun e => e.cgen ≠ gen then (s, .stale) else (s, .unfinished 0x26 g)
    | .migrating g => if (s.entry ctx obj).any fun e => e.cgen ≠ gen then (s, .stale) else (s, .unfinished 0x27 g)
    | .failed c => if (s.entry ctx obj).any fun e => e.cgen ≠ gen then (s, .stale) else (s, .failed c)
    | .ok pa e l =>
      let s := s.setCore ((s.core die num).otbFill dom obj e l)
      if e.cgen ≠ gen then (s, .stale) else (s, .mem pa e.alias_)

/-- Translation for an access issued before a revoke of its object began, which completes although the entry's CGEN has moved on or its
VALID was cleared (R157). -/
def State.translateKept (s : State) (ctx obj off : Nat) : Reach :=
  if (s.entryFault ctx obj).isSome || !s.inTable ctx obj then .failed ((s.entryFault ctx obj).getD 0x29)
  else
    match s.walkLeaves { Entry.ofBytes (s.peekBytes (s.entryPa ctx obj) 32) with valid := true } off with
    | .retired => .stale
    | .notPresent g => .unfinished 0x26 g
    | .migrating g => .unfinished 0x27 g
    | .failed c => .failed c
    | .ok pa e _ => .mem pa e.alias_

/-- A shoot-down of an object has raised its generations and is not acknowledged: no L1 line of it is made (R157). -/
def State.shooting (s : State) (ctx obj : Nat) : Bool := (s.ctx ctx).shoot.any fun d => d.obj == obj && d.raised && d.result.isNone

/-- The entry of an object of which a publication may still be on its way: one whose VALID the shoot-down at work has cleared counts
(R157). -/
def State.keptEntry (s : State) (ctx obj : Nat) : Option Entry :=
  if s.shooting ctx obj && s.inTable ctx obj && (s.entryFault ctx obj).isNone then
    some { Entry.ofBytes (s.peekBytes (s.entryPa ctx obj) 32) with valid := true }
  else s.entry ctx obj

/-- The domain of such an object. -/
def State.keptDomain (s : State) (ctx obj : Nat) : Nat := if (s.keptEntry ctx obj).any fun e => e.pub then 0 else ctx + 1

/-- What a walk for a publication still on its way to an object gives. -/
def State.keptWalk (s : State) (ctx obj off : Nat) : Trans :=
  match s.keptEntry ctx obj with
  | none => s.walk ctx obj off
  | some e => s.walkLeaves e off

/-- The L1 sector that an access hits (R121, R148). -/
def Core.l1Hit (c : Core) (dom obj gen off : Nat) : Option L1Sector :=
  c.l1.find? fun x => x.dom == dom && x.obj == obj && x.gen.toNat == gen && x.off == sectorBase off

/-- Where an access through a capability goes at object offset `off`: an L1 hit needs no translation, a tentative
capability goes around L1 (R124, R137, R147). -/
def State.reach (s : State) (die : Fin 4) (num ctx : Nat) (cap : Cap) (off : Nat) : State × Reach :=
  if remoteObj (capObj cap) then (s, .remote)
  else
    let hit := if capTent cap then none else (s.core die num).l1Hit (domainOf ctx cap) (capObj cap) (capGen cap) off
    match hit with
    | some x => (s, .l1 x)
    | none =>
      match s.translate die num ctx (domainOf ctx cap) (capObj cap) off (capGen cap) with
      | (s, .mem pa al) => (s, .mem pa (al || capTent cap))
      | r => r

/-! ## L1 (R121, R122) -/

/-- The L1 set of a line: its line number in the object modulo 128 (DESIGN CHOICE, log 15: the manual gives the number of
sets and not which line lies in which). -/
def l1Set (off : Nat) : Nat := off / 1024 % 128

/-- The lines of a set, from the most to the least recently used. -/
def Core.l1Lines (c : Core) (set : Nat) : List (Nat × Nat × Nat) :=
  ((c.l1.filter fun x => l1Set x.off == set).map fun x => (x.dom, x.obj, x.off / 1024)).eraseDups

/-- The lines of an L1 that engine commands of the core pin (R138). -/
def Core.l1Pinned (c : Core) : List (Nat × Nat × Nat) := (c.engines.map fun e => e.pins1).flatten

/-- Room made in a set for a line: the least recently used line that is not pinned leaves a full one, its dirty sectors written
back (R138). -/
def State.l1Room (s : State) (die : Fin 4) (num dom obj off : Nat) : State :=
  let c := s.core die num
  let ls := c.l1Lines (l1Set off)
  if ls.length < 16 ∨ ls.contains (dom, obj, off / 1024) then s
  else
    match (ls.filter fun v => !c.l1Pinned.contains v).getLast? with
    | none => s
    | some v =>
      let out := fun (x : L1Sector) => (x.dom, x.obj, x.off / 1024) == v
      let s := s.writeBackCore c out
      let c := s.core die num
      s.setCore { c with l1 := c.l1.filter fun x => !out x }

/-- A sector placed in L1 as its most recently used one. -/
def State.l1Put (s : State) (die : Fin 4) (num : Nat) (x : L1Sector) : State :=
  let s := s.l1Room die num x.dom x.obj x.off
  let c := s.core die num
  s.setCore { c with
    l1 := x :: c.l1.filter fun y => !(y.dom == x.dom && y.obj == x.obj && y.off == x.off && y.gen == x.gen) }

/-- A load of a sector that misses: it is filled from its home and placed in L1 (R122). The result says whether the
sector is poisoned; then nothing is placed (R140). -/
def State.l1Fill (s : State) (die : Fin 4) (num ctx : Nat) (cap : Cap) (off pa : Nat) : State × List Byte × Bool :=
  let s := s.count die num 6 (some ctx) 1
  let s := (s.recall pa).homeFill pa (domainOf ctx cap)
  let c := s.homeSector pa
  if c.2 then (s, c)
  else
    (s.l1Put die num
      ⟨domainOf ctx cap, capObj cap, sectorBase off, BitVec.ofNat 16 (capGen cap), sectorBase pa, c.1, false⟩, c)

end Sys2Proof.Machine
end

