-- ==== Sys2Proof/Machine/Drain.lean ====
section
/-! DEFINITION. Performing queued stores (R397): into L1 (R122), around it (R124), into a tentative version (R136) or onto a
stream's HEAD (R184). -/

namespace Sys2Proof.Machine

/-! ## Tentative versions (R136, R137) -/

/-- The version pool a line has its versions in: its die's slices, or the LP6 home agent's own (R127). -/
def State.versions (s : State) (pa : Nat) : List Version :=
  match homeOf pa with
  | some (.die d) => s.dies[d].l2.versions
  | some .lp6 => s.lp6
  | none => []

/-- The pool replaced. -/
def State.setVersions (s : State) (pa : Nat) (vs : List Version) : State :=
  match homeOf pa with
  | some (.die d) => s.setDie d { s.dies[d] with l2 := { s.dies[d].l2 with versions := vs } }
  | some .lp6 => { s with lp6 := vs }
  | none => s

/-- A version belongs to a member and a line. -/
def Version.isFor (v : Version) (h : W32) (i pa : Nat) : Bool :=
  v.handle == h && v.mem == i && v.line == pa / 1024 * 1024

/-- A member's version of a sector; its entry is taken as the first store to it issues, and it holds nothing to read before that store
reaches it (R136). -/
def State.versionOf (s : State) (h : W32) (i pa : Nat) : Option (List Byte) :=
  ((s.versions pa).find? fun v => v.isFor h i pa).bind fun v => v.data[sectorOf pa]

/-- A store has reached a member's version of a sector. -/
def State.versionWritten (s : State) (h : W32) (i pa : Nat) : Bool :=
  (s.versions pa).any fun v => v.isFor h i pa && v.masks[sectorOf pa] != 0

/-- A member's version of a sector is poisoned (R140). -/
def State.versionBad (s : State) (h : W32) (i pa : Nat) : Bool :=
  (s.versions pa).any fun v => v.isFor h i pa && v.poison[sectorOf pa]

/-- Version tags in use where a line has its versions: its slice's, or the hub's (R127, R136). -/
def State.versionTags (s : State) (pa : Nat) : Nat :=
  match homeOf pa with
  | some (.die d) =>
    (s.dies[d].l2.versions.filter fun v => sliceOf (lineOf v.line) == sliceOf (lineOf pa)).length
  | some .lp6 => s.lp6.length
  | none => 0

/-- Room in a slice made before a version takes an entry, as un-sharing makes it, and its reserve made whole again after
(R134, R266). -/
def State.versionRoom (s : State) (pa : Nat) (after : Bool) : State :=
  match homeOf pa with
  | some (.die d) => s.setBank (if after then (s.bank d).refill (lineOf pa) else (s.bank d).roomForWrite (lineOf pa))
  | some .lp6 | none => s

/-- A sector of a version with content and poison. -/
def Version.setSector (v : Version) (sec : Fin 4) (c : List Byte) (poison : Bool) : Version :=
  { v with data := v.data.set sec (some c), poison := v.poison.set sec poison }

/-- A version tag that holds no sector yet. -/
def Version.fresh (h : W32) (i pa dom : Nat) : Version :=
  ⟨pa / 1024 * 1024, dom, h, i, Vector.replicate 4 none, Vector.replicate 4 0, Vector.replicate 4 false⟩

/-- A copy of the committed content put into a sector of a member's version, whose poison it keeps (R136, R140). -/
def State.copyVersion (s : State) (h : W32) (i pa dom : Nat) : State :=
  let s := (s.recall pa).homeFill pa dom
  let c := s.homeSector pa
  s.setVersions pa ((s.versions pa).map fun v => if v.isFor h i pa then v.setSector (sectorOf pa) c.1 c.2 else v)

/-- A sector of a member's version taken, with a copy of the committed content; nothing where it exists. -/
def State.makeVersion (s : State) (h : W32) (i pa dom : Nat) : State :=
  match s.versionOf h i pa with
  | some _ => s
  | none =>
    let s := s.versionRoom pa false
    let vs := s.versions pa
    let vs := if vs.any fun v => v.isFor h i pa then vs else vs ++ [Version.fresh h i pa dom]
    ((s.setVersions pa vs).copyVersion h i pa dom).versionRoom pa true

/-! ## The eviction of pages that move (R143) -/

/-- A physical address lies in the run of a leaf. -/
def Leaf.holds (l : Leaf) (pa : Nat) : Bool := decide (l.ppage ≤ pa / 65536) && decide (pa / 65536 ≤ l.ppage + l.run)

/-- The lines of a leaf's run leave a die's L2, and versions of them are freed. -/
def State.evictIn (s : State) (l : Leaf) (d : Fin 4) : State :=
  let b := s.bank d
  let lines := (b.l2.tags.filter fun t => l.holds (b.addr t.line 0)).map fun t => t.line
  let b := lines.foldl Bank.evict b
  s.setBank { b with l2 := { b.l2 with versions := b.l2.versions.filter fun v => !l.holds v.line } }

/-- The lines of a leaf's run leave every L1 and L2, and no version of them is left (R143; log 59). -/
def State.evictRun (s : State) (l : Leaf) : State :=
  let s := (List.finRange 4).foldl (fun acc d => acc.evictIn l d) (s.dropL1 fun _ x => l.holds x.pa)
  { s with lp6 := s.lp6.filter fun v => !l.holds v.line }

/-- The mask of `n` bytes from an offset in a sector. -/
def byteMask (off n : Nat) : BitVec 256 := BitVec.ofNat 256 ((2 ^ n - 1) * 2 ^ off)

/-- Bytes written into a member's version of a sector (R136). -/
def State.writeVersion (s : State) (h : W32) (i pa : Nat) (bs : List Byte) : State :=
  s.setVersions pa ((s.versions pa).map fun v =>
    if v.isFor h i pa then
      { v with
        data := v.data.set (sectorOf pa) ((v.data[sectorOf pa]).map fun c => overlay c (pa % 256) bs)
        masks := v.masks.set (sectorOf pa) (v.masks[sectorOf pa] ||| byteMask (pa % 256) bs.length) }
    else v)

/-- The bytes of `new` where a mask is set, of `old` elsewhere, from byte `k` on. -/
def mergeBytes (m : BitVec 256) : Nat → List Byte → List Byte → List Byte
  | k, o :: os, n :: ns => (if m.getLsbD k then n else o) :: mergeBytes m (k + 1) os ns
  | _, os, _ => os

/-- A sector holds no poison. -/
def State.readable (s : State) (pa : Nat) : Bool := !(s.peekSector pa).2

/-- An aligned eight-byte store to HEAD (R184): nothing while the Frame owns it, nor where the block is poisoned, so that neither ATT
nor TAIL can be read (R140). -/
def State.headStore (s : State) (pa dom : Nat) (bs : List Byte) : State :=
  let block := pa - 8
  if !s.readable block || fieldBit (s.peekNat (block + 24) 8) 44 then s
  else
    let tail := s.peekNat block 8
    let head := s.peekNat (block + 8) 8
    s.pokeNat pa dom 8 (max head (min (leNat bs) tail))

/-- A physical address begins the block of a stream of a context. -/
def State.blockOf (s : State) (ctx pa : Nat) : Bool := (s.ctx ctx).streams.any fun o => s.objectPa ctx o 0 == some pa

/-- HEAD of a stream block as a mask of its sector's bytes. -/
def headMask : BitVec 256 := BitVec.ofNat 256 (0xFF * 2 ^ 8)

/-- A written sector of a version applied to the committed sector as one partial write, which carries the version's poison
(R137, R140). -/
def State.commitSector (s : State) (pa dom : Nat) (mask : BitVec 256) (d : List Byte) (poison : Bool) : State :=
  if mask = 0 then s
  else
    let s := (s.purge pa).homePatch pa dom fun c => mergeBytes mask 0 c d
    if poison then s.poisonAt pa else s

/-- One version committed: its written sectors in ascending address (R137). HEAD of a stream block follows R184. -/
def State.commitVersion (s : State) (ctx : Nat) (v : Version) : State :=
  (List.finRange 4).foldl (fun acc sec =>
    match v.data[sec] with
    | none => acc
    | some d =>
      let pa := v.line + 256 * sec.val
      let m := v.masks[sec]
      if m &&& headMask ≠ 0 ∧ acc.blockOf ctx pa then
        (acc.commitSector pa v.dom (m &&& ~~~headMask) d v.poison[sec]).headStore (pa + 8) v.dom (slice d 8 8)
      else acc.commitSector pa v.dom m d v.poison[sec]) s

/-- A member's versions, in every pool. -/
def State.memberVersions (s : State) (h : W32) (i : Nat) : List Version :=
  ((s.dies.toList.map fun d => d.l2.versions).flatten ++ s.lp6).filter fun v => v.handle == h && v.mem == i

/-- The versions that are not a member's. -/
def otherVersions (h : W32) (i : Nat) (vs : List Version) : List Version :=
  vs.filter fun v => !(v.handle == h && v.mem == i)

/-- A member's versions retracted: the committed lines stay as they are (R137). -/
def State.retract (s : State) (h : W32) (i : Nat) : State :=
  let dies := s.dies.map fun (d : Die) => { d with l2 := { d.l2 with versions := otherVersions h i d.l2.versions } }
  { s with dies := dies, lp6 := otherVersions h i s.lp6 }

/-- A version put into a list in ascending line address. -/
def insertVersion (v : Version) : List Version → List Version
  | [] => [v]
  | w :: ws => if v.line < w.line then v :: w :: ws else w :: insertVersion v ws

/-- Versions in ascending line address. -/
def sortVersions (vs : List Version) : List Version := vs.foldl (fun acc v => insertVersion v acc) []

/-- A member's versions committed in a context, then freed (R137). -/
def State.commit (s : State) (h : W32) (i ctx : Nat) : State :=
  ((sortVersions (s.memberVersions h i)).foldl (fun acc v => acc.commitVersion ctx v) s).retract h i

/-- Tentative bytes that count against a quorum's quota: its members' sectors and the contributions its collectives hold
(R136, R344). -/
def State.quorumUsed (s : State) (h : W32) : Nat :=
  let vs := ((s.dies.toList.map fun d => d.l2.versions).flatten ++ s.lp6).filter fun v => v.handle == h
  let cs := (s.dies.toList.map fun d => d.collectives.filter fun c => c.q && c.group == h && c.result.isNone).flatten
  vs.foldl (fun n v => n + 256 * (v.data.toList.filter Option.isSome).length) 0 +
    cs.foldl (fun n c => n + c.len * (c.parts.filter fun p => !p.data.isEmpty).length) 0

/-! ## Quorum lookups that stores need (R260, R266) -/

/-- The die a quorum handle names. -/
def handleDie (h : W32) : Fin 4 := fieldFin 4 (field h.toNat 16 2) 0

/-- The register number a handle names. -/
def handleReg (h : W32) : Nat := field h.toNat 6 10

/-- The serial a handle names. -/
def handleSerial (h : W32) : Nat := field h.toNat 18 13

/-- The live quorum a handle names in a context (R260). -/
def State.quorum (s : State) (ctx : Nat) (h : W32) : Option Quorum :=
  if h.toNat.testBit 31 = false ∨ field h.toNat 0 6 ≠ 0 then none
  else
    s.dies[handleDie h].quorums.find? fun q =>
      q.num == handleReg h && q.serial.toNat == handleSerial h && q.ctx == ctx && q.state != .free

/-- A quorum register replaced, where its Frame holds it. -/
def State.setQuorum (s : State) (d : Fin 4) (q : Quorum) : State :=
  s.setDie d { s.dies[d] with quorums := s.dies[d].quorums.map fun x => if x.num == q.num then q else x }

/-- A team stands bound as a member (R265). -/
def Quorum.isBound (q : Quorum) (i : Nat) (die : Fin 4) (team : W32) : Bool := q.bound.contains (i, die.val, team)

/-! ## Performing a store -/

/-- A sector is the one a store's tag names. -/
def QueuedStore.names (q : QueuedStore) (x : L1Sector) : Bool :=
  x.dom == q.dom && x.obj == q.obj && x.gen == q.gen && x.off == sectorBase q.off

/-- A store into L1 (R122): the core takes the line, and an absent sector is filled first unless all 256 bytes are written. While a
shoot-down of the object is under way the store goes to its home. -/
def State.l1Store (s : State) (ctx : Nat) (die : Fin 4) (num : Nat) (q : QueuedStore) : State :=
  if s.shooting ctx q.obj then s.pokeSector q.pa q.dom q.bytes
  else
    match (s.core die num).l1Hit q.dom q.obj q.gen.toNat q.off with
    | some x =>
      (s.claim die num x.pa q.names).l1Put die num { x with data := overlay x.data (q.off % 256) q.bytes, dirty := true }
    | none =>
      let s := (s.count die num 6 (some ctx) 1).claim die num q.pa q.names
      let put := fun (s : State) (c : List Byte) =>
        s.l1Put die num
          ⟨q.dom, q.obj, sectorBase q.off, q.gen, sectorBase q.pa, overlay c (q.pa % 256) q.bytes, true⟩
      if q.bytes.length = 256 then put s (zeros 256)
      else
        let s := s.homeFill q.pa q.dom
        let c := s.homeSector q.pa
        if c.2 then s.homePatch q.pa q.dom fun b => overlay b (q.pa % 256) q.bytes else put s c.1

/-- A tentative store performed at its home: the first to reach a sector copies its committed content, which holds the wave's earlier
stores, and is laid over that (R136). One whose member's binding has ended is discarded (R266). -/
def State.tentPerform (s : State) (ctx : Nat) (die : Fin 4) (team : W32) (q : QueuedStore) (m : W32 × Nat) : State :=
  match s.quorum ctx m.1 with
  | none => s
  | some r =>
    if r.isBound m.2 die team then
      (if s.versionWritten m.1 m.2 q.pa then s else s.copyVersion m.1 m.2 q.pa q.dom).writeVersion m.1 m.2 q.pa q.bytes
    else s

/-- A queued store performed where it belongs. A store to another module takes effect there (R172). -/
def State.perform (s : State) (ctx : Nat) (die : Fin 4) (num : Nat) (team : W32) (q : QueuedStore) : State :=
  if remoteObj q.obj then s
  else
    match q.member with
    | some m => s.tentPerform ctx die team q m
    | none =>
      if (s.ctx ctx).streams.contains q.obj ∧ q.off = 8 then s.headStore q.pa q.dom q.bytes
      else if q.around then s.pokeSector q.pa q.dom q.bytes
      else s.l1Store ctx die num q

/-- A list of queued stores performed in order. -/
def State.performAll (s : State) (ctx : Nat) (die : Fin 4) (num : Nat) (team : W32) : List QueuedStore → State
  | [] => s
  | q :: qs => (s.perform ctx die num team q).performAll ctx die num team qs

/-- A queued store holds a byte of a physical address. -/
def QueuedStore.byteAt (q : QueuedStore) (pa : Nat) : Option Byte :=
  if q.pa ≤ pa && pa < q.pa + q.bytes.length && !remoteObj q.obj then q.bytes[pa - q.pa]? else none

/-- The byte a wave's own queue holds for a physical address, the newest of its plain stores (R165). -/
def plainByte (pa : Nat) : List QueuedStore → Option Byte
  | [] => none
  | q :: qs =>
    match plainByte pa qs with
    | some b => some b
    | none => if q.member.isNone then q.byteAt pa else none

/-- The byte a tentative load finds in the wave's own queue over a byte `b`: the version takes tentative stores, and until the first of
them to its sector has formed it, the plain stores that it will be a copy of (`formed`; R136, R137, R165). -/
def tentativeByte (pa : Nat) : Bool → Byte → List QueuedStore → Byte
  | _, b, [] => b
  | formed, b, q :: qs =>
    if q.member.isSome then
      tentativeByte pa (formed || sectorBase q.pa == sectorBase pa) ((q.byteAt pa).getD b) qs
    else tentativeByte pa formed (if formed then b else (q.byteAt pa).getD b) qs

/-- The byte a wave's own queue holds for an offset in an object of another module, the newest first (R165). -/
def forwardRemote (obj off : Nat) : List QueuedStore → Option Byte
  | [] => none
  | q :: qs =>
    match forwardRemote obj off qs with
    | some b => some b
    | none => if q.obj == obj && q.off ≤ off && off < q.off + q.bytes.length then q.bytes[off - q.off]? else none

/-- Bytes of an object of another module read with the wave's own queue laid over them. -/
def forwardRemotes (obj : Nat) (qs : List QueuedStore) : Nat → List Byte → List Byte
  | _, [] => []
  | off, b :: bs => (forwardRemote obj off qs).getD b :: forwardRemotes obj qs (off + 1) bs

/-- Bytes read with the wave's own queue laid over them: of a tentative load with a version that is `formed` or not, of any other with
its plain stores. -/
def forwardBytes (tent : Option Bool) (qs : List QueuedStore) : Nat → List Byte → List Byte
  | _, [] => []
  | pa, b :: bs =>
    (match tent with
     | none => (plainByte pa qs).getD b
     | some formed => tentativeByte pa formed b qs) :: forwardBytes tent qs (pa + 1) bs

end Sys2Proof.Machine
end

