-- ==== Sys2Proof/Machine/Records.lean ====
section
/-! DEFINITION. Stream blocks (R182, R185) and the records that the home of a ring still has to write: their slots, their order (R163,
R174, R187) and the writing of a POST's records. -/

namespace Sys2Proof.Machine

/-! ## Stream blocks -/

/-- What a stream instruction reads of a stream block (Table 9.2). -/
structure Block where
  tail : Nat
  head : Nat
  ingest : Nat
  cfg : Nat
deriving DecidableEq, Repr

/-- A stream block as its home holds it. -/
def State.readBlock (s : State) (pa : Nat) : Block :=
  ⟨s.peekNat pa 8, s.peekNat (pa + 8) 8, s.peekNat (pa + 16) 8, s.peekNat (pa + 24) 8⟩

/-- CONFIG.LOGN. -/
def Block.logn (b : Block) : Nat := field b.cfg 36 5
/-- CONFIG.KIND: 0 plain, 1 bitmap, 2 sequenced. -/
def Block.kind (b : Block) : Nat := field b.cfg 41 2
/-- CONFIG.STAMPED. -/
def Block.stamped (b : Block) : Bool := fieldBit b.cfg 43
/-- CONFIG.SYS. -/
def Block.sys (b : Block) : Bool := fieldBit b.cfg 35
/-- CONFIG.MAXD. -/
def Block.maxd (b : Block) : Nat := field b.cfg 45 3
/-- CONFIG.ATT. -/
def Block.att (b : Block) : Bool := fieldBit b.cfg 44
/-- CONFIG.VALID. -/
def Block.valid (b : Block) : Bool := fieldBit b.cfg 63
/-- Positions that are not between HEAD and TAIL. -/
def Block.free (b : Block) : Nat := 2 ^ b.logn - (b.tail - b.head)

/-- The lap sequence of a position (R180). -/
def lapOf (logn p : Nat) : Nat := p / 2 ^ logn % 65535 + 1

/-- COMMIT bits set at the stream's home (R188). -/
def State.commitSlots (s : State) (pa dom : Nat) : List Nat → State
  | [] => s
  | i :: is =>
    let a := pa + 32 + i / 8
    (s.pokeNat a dom 1 ((s.peek a).toNat ||| 2 ^ (i % 8))).commitSlots pa dom is

/-! ## Records waiting to be written -/

/-- A stream's block as its home holds it, with its address; none where its page is not there to read, or where it is poisoned and gives no
data (R140). -/
def State.streamBlock (s : State) (ctx obj : Nat) : Option (Nat × Block) :=
  ((s.objectPa ctx obj 0).filter s.readable).map fun pa => (pa, s.readBlock pa)

/-- The physical address of the slot of a position; none where its page is not present. -/
def State.slotPa (s : State) (ctx obj logn p : Nat) : Option Nat := s.objectPa ctx obj (64 + 64 * (p % 2 ^ logn))

/-- Two waiting records of one stream are written in their order: those of one POST, and those that the G9 posts (R187). -/
def PendingRecord.sameTurn (q r : PendingRecord) : Bool :=
  q.ctx == r.ctx && q.obj == r.obj && q.posted == r.posted && (!r.posted || q.order == r.order)

/-- A record of the waiting ones of a die that may be written next: no earlier one that it takes turns with waits. -/
def Die.recordFirst (x : Die) (i : Nat) : Option PendingRecord :=
  (x.records[i]?).filter fun r => !((x.records.take i).any fun q => q.sameTurn r)

/-- A waiting record of a die taken off or replaced. -/
def State.setRecord (s : State) (d : Fin 4) (i : Nat) (r : Option PendingRecord) : State :=
  s.setDie d { s.dies[d] with
    records := match r with | some r => s.dies[d].records.set i r | none => s.dies[d].records.eraseIdx i }

/-- A record written into its slot, in the domain of its stream, and published: LAP last, or the COMMIT bit of a bitmap stream (R187,
R191). R187 names no LAP for a bitmap stream; its bytes are written zero there (DESIGN CHOICE, log 60). -/
def State.publish (s : State) (dom pa : Nat) (b : Block) (slot p : Nat) (bytes : List Byte) : State :=
  let s := s.poke slot dom bytes 2
  if b.kind = 1 then s.commitSlots pa dom [p % 2 ^ b.logn] else s.pokeNat (slot + 14) dom 2 (lapOf b.logn p)

/-! ## The order of publications (R163, R174) -/

/-- A POST of a wave left the record to be written. -/
def PendingRecord.ofWave (r : PendingRecord) (die : Fin 4) (team : W32) (wave : Nat) : Bool :=
  r.posted && r.team == team && r.wid / 2 ^ 19 % 4 == die.val && r.wid % 32 == wave

/-- The records of a wave's POSTs that are still to be written. -/
def State.owed (s : State) (die : Fin 4) (team : W32) (wave : Nat) : List PendingRecord :=
  (s.dies.toList.map fun d => d.records.filter fun r => r.ofWave die team wave).flatten

/-- A record comes after another in the order of publications: one of a POST after the earlier ones of its wave, a team's completion
event after all of its waves' (R48, R174). -/
def PendingRecord.after (r q : PendingRecord) : Bool :=
  match r.order, q.order with
  | some n, some m =>
    decide (m < n) && q.posted && q.team == r.team && q.wid / 2 ^ 19 % 4 == r.wid / 2 ^ 19 % 4 &&
      (!r.posted || q.wid % 32 == r.wid % 32)
  | _, _ => false

/-- A record has to wait for an earlier publication. -/
def State.mustFollow (s : State) (r : PendingRecord) : Bool := s.dies.toList.any fun d => d.records.any fun q => r.after q

/-- The record of a die that may be written next, with its place: no earlier one of its stream waits, nor an earlier publication. -/
def State.recordNext (s : State) (d : Fin 4) (i : Nat) : Option PendingRecord :=
  (s.dies[d].recordFirst i).filter fun r => !s.mustFollow r

/-- A byte of the stream of a record that a POST has reserved a slot for. -/
def State.recordPa (s : State) (r : PendingRecord) (off : Nat) : Option Nat :=
  match s.keptWalk r.ctx r.obj off with
  | .ok pa _ _ => some pa
  | .retired | .notPresent _ | .migrating _ | .failed _ => none

/-- A reserved record of a POST with its block and its slot, where they are there to write. -/
def State.postSlot (s : State) (r : PendingRecord) : Option (Nat × Block × Nat × Nat) :=
  if !r.posted then none
  else
    r.pos.bind fun p => ((s.recordPa r 0).filter s.readable).bind fun pa =>
      (s.recordPa r r.slot).map fun slot => (pa, s.readBlock pa, p, slot)

/-- A record of a wave's POSTs that can be written now: its die and its place there. -/
def State.writable (s : State) (die : Fin 4) (team : W32) (wave : Nat) : Option (Fin 4 × Nat) :=
  (List.finRange 4).findSome? fun d =>
    ((List.range s.dies[d].records.length).find? fun i =>
      (s.recordNext d i).any fun r => r.ofWave die team wave && (s.postSlot r).isSome).map fun i => (d, i)

/-- A reserved record of a POST written and published, where its turn has come and its page is there. -/
def State.writePosted (s : State) (d : Fin 4) (i : Nat) : State :=
  match s.recordNext d i with
  | none => s
  | some r =>
    match s.postSlot r with
    | none => s
    | some (pa, b, p, slot) => (s.setRecord d i none).publish (s.keptDomain r.ctx r.obj) pa b slot p r.bytes

/-- The records of a wave's POSTs that can be written are; `fuel` bounds their number. -/
def State.flushRecords (s : State) (die : Fin 4) (team : W32) (wave : Nat) : Nat → State
  | 0 => s
  | fuel + 1 =>
    match s.writable die team wave with
    | none => s
    | some (d, i) => (s.writePosted d i).flushRecords die team wave fuel

end Sys2Proof.Machine
end

