-- ==== Sys2Proof/Machine/Lifecycle.lean ====
section
/-! DEFINITION. Teams and waves as the rest of the module sees them: where they stand, the records the G9 posts about them
(R155, R427), trace records (R310, R311), barrier phases (R329), the end of a quorum member (R268), a wave's stop (R271)
and a team's end (R48). -/

namespace Sys2Proof.Machine

/-! ## Names -/

/-- WID[20:0] (Table 2.3). -/
def widOf (die : Fin 4) (wv : Wave) : Nat :=
  wv.number.val + wv.quarter.val * 2 ^ 5 + wv.wslot.val * 2 ^ 7 + wv.core % 256 * 2 ^ 11 + die.val * 2 ^ 19

/-- SRC of a record that concerns a wave (R180, R427). -/
def srcOf (die : Fin 4) (core wave : Nat) : Nat := wave % 32 + core % 256 * 2 ^ 5 + die.val * 2 ^ 13

/-- SRC of a record that concerns no wave (R427). -/
def srcDie (die : Fin 4) : Nat := 0x1FFF + die.val * 2 ^ 13

/-- The 64 bytes of an event record but for STAMP and LAP (Table 9.1). -/
def eventBytes (kind flags depth src key : Nat) (payload : List Byte) : List Byte :=
  leBytes 8 (kind % 256 + depth % 8 * 2 ^ 8 + flags % 32 * 2 ^ 11 + src % 2 ^ 16 * 2 ^ 16 + key % 2 ^ 32 * 2 ^ 32) ++
    zeros 8 ++ slice payload 0 48

/-- A team and its place among the resident teams. -/
def State.findTeam (s : State) (die : Fin 4) (serial : W32) : Option (Nat × Team) :=
  (s.teams.zipIdx.find? fun t => t.1.die == die && t.1.serial == serial).map fun t => (t.2, t.1)

/-- A team replaced where it stands. -/
def State.setTeam (s : State) (i : Nat) (t : Team) : State := { s with teams := s.teams.set i t }

/-- The wave a cursor names, with its team. -/
def State.waveAt (s : State) (c : Cursor) : Option (Team × Wave) :=
  (s.teams[c.team]?).bind fun t => (t.waves[c.wave]?).map fun w => (t, w)

/-- A wave replaced in its team. -/
def Team.setWave (t : Team) (i : Nat) (w : Wave) : Team := { t with waves := t.waves.set i w }

/-- The wave a cursor names replaced. -/
def State.setWaveAt (s : State) (c : Cursor) (w : Wave) : State :=
  match s.teams[c.team]? with
  | none => s
  | some t => s.setTeam c.team (t.setWave c.wave w)

/-! ## Records the G9 posts -/

/-- The die of an object's home; die 0 for one that has no valid entry. -/
def State.homeDie (s : State) (ctx obj : Nat) : Fin 4 :=
  match s.entry ctx obj with
  | some e => e.home
  | none => 0

/-- A record given to the home of its stream, to be written when there is room (R155, R211, R269). -/
def State.post (s : State) (r : PendingRecord) : State :=
  let d := s.homeDie r.ctx r.obj
  s.setDie d { s.dies[d] with records := s.dies[d].records ++ [r] }

/-- The number after every publication that is still to be written (R163). -/
def State.nextOrder (s : State) : Nat :=
  s.dies.toList.foldl (fun n d => d.records.foldl (fun k r => max k (r.order.getD 0 + 1)) n) 0

/-- An event for a context's fault stream, identity 1 (R155). -/
def State.postFault (s : State) (ctx kind src : Nat) (wid : Nat) (team : W32) (payload : List Byte) : State :=
  s.post { ctx := ctx, obj := 1, pos := none, slot := 0, bytes := eventBytes kind 0 0 src 0 payload, wid := wid, team := team
           posted := false, told := none, order := none }

/-- The translation fault event of a wave or of an engine command's wave (Table 7.6). -/
def State.postTranslation (s : State) (die : Fin 4) (core wave ctx wid : Nat) (team : W32)
    (cause obj page mgen access : Nat) : State :=
  s.postFault ctx 0xF0 (srcOf die core wave) wid team
    (leBytes 4 (obj % 2 ^ 24 + cause * 2 ^ 24) ++ leBytes 4 page ++ leBytes 2 mgen ++ leBytes 1 access ++
      leBytes 1 ctx ++ leBytes 4 wid ++ leBytes 4 team.toNat)

/-! ## Trace records (R310, R311) -/

/-- The largest n for which 2^n trace records fit in `bytes`, searched downward. -/
def traceLog (bytes : Nat) : Nat → Nat
  | 0 => 0
  | n + 1 => if 64 + 32 * 2 ^ (n + 1) ≤ bytes then n + 1 else traceLog bytes n

/-- The 32 bytes of a trace record. -/
def traceBytes (kind reason : Nat) (issued : Bool) (quarter ordinal : Nat) (team wid distance : Nat) (die : Fin 4)
    (ticks datum : Nat) : List Byte :=
  leBytes 4 (kind + reason * 2 ^ 8 + bit issued * 2 ^ 13 + quarter * 2 ^ 14 + ordinal % 2 ^ 16 * 2 ^ 16) ++ leBytes 4 team ++
    leBytes 4 wid ++ leBytes 4 distance ++ leBytes 8 (ticks % 2 ^ 48 + die.val * 2 ^ 48) ++ leBytes 8 datum

/-- The drops of a context's trace object that are still to be counted in its header counted there (R311). -/
def State.countDrops (s : State) (ctx hd dom n : Nat) : State :=
  if n = 0 then s
  else
    (s.pokeNat (hd + 16) dom 8 (s.peekNat (hd + 16) 8 + n)).setCtx ctx { s.ctx ctx with traceOwed := 0 }

/-- A byte of a trace object where the writer can use it: its page is present and does not move, and it is not poisoned (R140). -/
def State.tracePa (s : State) (ctx obj off : Nat) : Option Nat := (s.objectPa ctx obj off).filter s.readable

/-- A trace record dropped: counter source 15 counts it now, DROPPED as soon as the header is there to write. -/
def State.traceDrop (s : State) (ctx : Nat) (die : Fin 4) (core : Nat) : State :=
  let c := s.ctx ctx
  (s.setCtx ctx { c with traceDrops := c.traceDrops + 1, traceOwed := c.traceOwed + 1 }).count die core 15 (some ctx) 1

/-- A trace record written at WR when there is room and its page is present, after a gap record where records were
dropped; otherwise DROPPED and counter source 15 count it (R311). Drops while the header's page is away are added to DROPPED by the
first record after it is back (DESIGN CHOICE, log 75). -/
def State.trace (s : State) (ctx : Nat) (traceobj : W64) (die : Fin 4) (core : Nat) (rec : List Byte) : State :=
  if !traceobj.getLsbD 31 then s
  else
    let obj := field traceobj.toNat 0 24
    let dom := s.objDomain ctx obj
    match s.entry ctx obj, s.tracePa ctx obj 0 with
    | some e, some hd =>
      let cap := 2 ^ traceLog e.size 40
      let wr := s.peekNat hd 8
      let rd := s.peekNat (hd + 8) 8
      let drops := (s.ctx ctx).traceDrops
      let gap := if drops = 0 then 0 else 1
      let slotPa := fun (p : Nat) => s.tracePa ctx obj (64 + 32 * (p % cap))
      match decide (wr - rd < cap - 1), slotPa wr, slotPa (wr + gap) with
      | true, some p0, some p1 =>
        let s := s.countDrops ctx hd dom (s.ctx ctx).traceOwed
        let s :=
          if drops = 0 then s
          else s.poke p0 dom (traceBytes 2 0 false 0 0 0 0 0 die s.dies[die].ticks drops) 2
        let s := s.poke p1 dom rec 2
        let s := s.pokeNat hd dom 8 (wr + gap + 1)
        s.setCtx ctx { s.ctx ctx with traceDrops := 0 }
      | _, _, _ =>
        let s := s.traceDrop ctx die core
        s.countDrops ctx hd dom (s.ctx ctx).traceOwed
    | _, _ => s.traceDrop ctx die core

/-- TRACEOBJ and DUMPOBJ, whose reserved bits read zero (Table 15.6). -/
def traceField (v : W64) : W64 := v &&& 0x80FFFFFF

/-- A trace record about a team: placed, retired or stopped (kinds 3 to 5, Table 15.6), with a safe point's ordinal (R73). R310 gives
the field and no ordinal for a team that is placed or retires; it is 0 there (DESIGN CHOICE, log 75). -/
def State.traceTeam (s : State) (t : Team) (kind ordinal datum : Nat) : State :=
  match t.waves.head? with
  | none => s
  | some w =>
    s.trace t.ctx w.traceobj t.die t.leader
      (traceBytes kind 0 false 0 ordinal t.serial.toNat (widOf t.die w) 0 t.die s.dies[t.die].ticks datum)

/-! ## Barrier phases (R329) -/

/-- The group of a barrier of a team at a scope, as one number: the team below `.die`, its gang from there on. -/
def groupOf (t : Team) (sc : Scope) : Nat :=
  match sc with
  | .core | .quad => 2 * (4 * t.serial.toNat + t.die.val)
  | .die | .pkg | .pod | .sys => if t.gang = 0 then 2 * (4 * t.serial.toNat + t.die.val) else 2 * t.gang + 1

/-- The instance of a scope a wave lies in. -/
def placeOf (t : Team) (core : Nat) (sc : Scope) : Nat :=
  match sc with
  | .core => 256 * t.die.val + core
  | .die => t.die.val
  | .quad | .pkg | .pod | .sys => 0

/-- A wave of a team lies in a barrier's instance. -/
def Barrier.holds (b : Barrier) (t : Team) (core : Nat) : Bool :=
  b.ctx == t.ctx && b.group == groupOf t b.sc && b.place == placeOf t core b.sc

/-- The live splits of a wave with their slots. -/
def Wave.liveSplits (w : Wave) : List (Fin 4 × Split) :=
  (List.finRange 4).filterMap fun j => (w.splits[j]).map fun sp => (j, sp)

/-- A wave counts at barriers: it has neither retired nor stopped, and has a live split (R47, R329). -/
def Wave.counts (w : Wave) : Bool := w.status == .running && !w.liveSplits.isEmpty

/-- The context's state is off the module: saved, or saved and on its way back (R299). -/
def CtxState.offModule : CtxState → Bool
  | .saved | .restoring => true
  | .none | .running | .saving => false

/-- Teams off their cores that are not gone: swapped out by a debugger, or restored and not yet placed (R299, R314). -/
def State.awayTeams (s : State) : List Team :=
  s.contexts.toList.filterMap (fun c => if c.dbg.state = .stopped then c.dbg.swapped.map fun x => x.team else none) ++
    (s.dies.toList.map fun d => (d.queue ++ d.overflow).filterMap fun l => l.restored.map fun x => x.team).flatten

/-- The waves of an instance that count. -/
def State.barrierLive (s : State) (b : Barrier) : Nat :=
  (s.teams ++ s.awayTeams).foldl (fun n t => n + (t.waves.filter fun w => b.holds t w.core && w.counts).length) 0

/-- The count a phase needs. -/
def State.barrierNeed (s : State) (b : Barrier) : Nat :=
  if b.expected ≠ 0 then b.expected else s.barrierLive b + b.gone

/-- A phase completed where its arrivals reach the expected count; the next one begins empty. -/
def State.barrierStep (s : State) (b : Barrier) : Barrier :=
  if b.arrivals.length + b.gone ≠ 0 ∧ s.barrierNeed b ≤ b.arrivals.length + b.gone then
    { b with phase := b.phase + 1, expected := 0, arrivals := [], gone := 0 }
  else b

/-- Every barrier's count evaluated again (R329). -/
def State.barriersAgain (s : State) : State := { s with barriers := s.barriers.map s.barrierStep }

/-- A wave, as (die, team, number), leaves a barrier: an arrival it holds in a phase stays counted (R329, R331). -/
def Barrier.leave (b : Barrier) (who : Nat × Nat × Nat) : Barrier :=
  if b.arrivals.contains who then { b with arrivals := b.arrivals.erase who, gone := b.gone + 1 } else b

/-- A wave leaves every barrier. -/
def State.leaveBarriers (s : State) (t : Team) (w : Wave) : State :=
  let s' : State := { s with barriers := s.barriers.map fun b => b.leave (t.die.val, t.serial.toNat, w.number.val) }
  s'.barriersAgain

/-! ## The end of a quorum member (R268) -/

/-- The context's tentative versions of a register freed and the register returned to FREE; its serial advances (R260). -/
def State.freeQuorum (s : State) (d : Fin 4) (q : Quorum) : State :=
  let x := s.dies[d]
  s.setDie d { x with
    quorums := x.quorums.filter fun y => !(y.num == q.num)
    serials := (q.num, q.serial + 1) :: x.serials.filter fun y => !(y.1 == q.num) }

/-- A register in DRAIN whose last killed member has stopped becomes FREE (Table 13.4). -/
def State.settleQuorum (s : State) (d : Fin 4) (q : Quorum) : State :=
  if q.state = .drain ∧ q.killing = [] ∧ q.record ≠ [] then s.freeQuorum d q else s.setQuorum d q

/-- A member's team is gone: its versions are retracted; in OPEN the member has departed, in DRAIN it counts as stopped. -/
def State.memberLeaves (s : State) (ctx : Nat) (die : Fin 4) (team : W32) (h : W32) (i : Nat) : State :=
  let s := s.retract h i
  match s.quorum ctx h with
  | none => s
  | some q =>
    let who := (i, die.val, team)
    let q := { q with bound := q.bound.erase who, killing := q.killing.erase who }
    let q := if q.arrived.getLsbD i then q else { q with departed := q.departed ||| BitVec.ofNat 64 (2 ^ i) }
    s.settleQuorum (handleDie h) q

/-- A team that was a member is gone. -/
def State.memberGone (s : State) (t : Team) : State :=
  match t.member with
  | none => s
  | some (h, i) => s.memberLeaves t.ctx t.die t.serial h i

/-! ## Held entries (R195) -/

/-- A reference to a held entry given up; its last frees it (R195). -/
def releaseHeld (num : Nat) (hs : List Held) : List Held :=
  (hs.map fun h => if h.num == num then { h with refs := h.refs - 1 } else h).filter fun h => h.refs != 0

/-- A reference to a held entry taken. -/
def retainHeld (num : Nat) (hs : List Held) : List Held :=
  hs.map fun h => if h.num == num then { h with refs := h.refs + 1 } else h

/-- References that a launch or a team holds given up. -/
def State.releaseAll (s : State) (d : Fin 4) (ns : List Nat) : State :=
  s.setDie d { s.dies[d] with held := ns.foldl (fun hs n => releaseHeld n hs) s.dies[d].held }

/-! ## The end of waves and teams -/

/-- The matrix and accumulator instructions and the engine commands of a wave that have not ended (R47). -/
def State.outstanding (s : State) (t : Team) (w : Wave) : Bool :=
  s.cores.any fun c =>
    c.die == t.die &&
      ((c.queue.any fun q => q.team == t.serial && q.wave == w.number.val) ||
        c.engines.any fun e => e.die == t.die && e.team == t.serial && e.wave == w.number.val)

/-- Results of a wave that are still to be written: those of its matrix and accumulator instructions (R50). -/
def State.inFlight (s : State) (t : Team) (w : Wave) : Bool :=
  s.cores.any fun c => c.die == t.die && c.queue.any fun q => q.team == t.serial && q.wave == w.number.val

/-- The completion event of a team whose last wave was `w` (R48, R211, R427). -/
def State.postCompletion (s : State) (t : Team) (w : Wave) : State :=
  let done := bytesNat t.record 24 3
  if done = 0 then s
  else
    let ev := t.events[0]
    let flags := match ev with | some e => field e.head.toNat 11 5 | none => 0
    let key := match ev with | some e => field e.head.toNat 32 32 | none => 0
    s.post { ctx := t.ctx, obj := done, pos := none, slot := 0
             bytes := eventBytes (bytesNat t.record 27 1) flags t.depth (srcOf t.die w.core w.number.val) key
               (leBytes 4 t.serial.toNat ++ leBytes 4 t.rod.toNat)
             wid := widOf t.die w, team := t.serial, posted := false, told := none, order := some s.nextOrder }

/-- A team's queued and running matrix work discarded (R230, R271). -/
def State.discardMatrix (s : State) (t : Team) : State :=
  { s with cores := s.cores.map fun c =>
      if c.die == t.die && (c.queue.any fun q => q.team == t.serial) then
        { c with queue := c.queue.filter fun q => !(q.team == t.serial) }
      else c }

/-- A debug stop of a team that is gone is over (R314). -/
def State.endStop (s : State) (t : Team) : State :=
  let c := s.ctx t.ctx
  match t.halt with
  | .stopping _ _ _ false => if c.dbg.state = .stopping then s.setCtx t.ctx { c with dbg := { c.dbg with state := .none } } else s
  | _ => s

/-- A core's engine commands with a saved one put at their end: it keeps its place in the issue order of its team, and goes on where it
stood, also one that waited for a page (R235, R294). -/
def State.readmit (s : State) (die : Fin 4) (core : Nat) (e : EngineCmd) : State :=
  let c := s.core die core
  s.setCore { c with engines := c.engines ++ [{ e with waiting := none }] }

/-- A team that is killed off its cores is gone: its waves leave every barrier, and its engine commands go on, for none is cancelled
(R271). -/
def State.killAway (s : State) (x : SavedTeam) : State :=
  let s := x.engines.foldl (fun (acc : State) e => acc.readmit x.team.die e.1 e.2) s
  (x.team.waves.foldl (fun (acc : State) w => acc.leaveBarriers x.team w) s).barriersAgain

/-- A team all of whose waves have retired or stopped ends (R48, R271): its wave slots, pool units and array are free once it
is no longer among the teams. `last` is the wave that ended last. -/
def State.endTeam (s : State) (i : Nat) (t : Team) (last : Wave) : State :=
  let s : State := { s with teams := s.teams.eraseIdx i }
  let s := ((s.memberGone t).releaseAll t.frame t.held).endStop t
  let s := s.traceTeam t 4 0 0
  if t.killed then (s.discardMatrix t).barriersAgain else (s.postCompletion t last).barriersAgain

/-- A wave has ended: it has retired or stopped, and every store it issued is performed. -/
def Wave.over (w : Wave) : Bool := w.status != .running && w.stores.isEmpty

/-- A team whose waves have all ended is ended; any other is left. -/
def State.reapTeam (s : State) (die : Fin 4) (serial : W32) (last : Wave) : State :=
  match s.findTeam die serial with
  | none => s
  | some (i, t) => if t.waves.all Wave.over then s.endTeam i t last else s

/-- The stores a stopping wave has queued, performed at once with the records of its POSTs before them; where such a record cannot be
written yet, they keep their place behind it, and STORE_QUEUE_DRAIN performs them (R163, R166, R271; log 45). -/
def State.stopStores (s : State) (t : Team) (w : Wave) : State × List QueuedStore :=
  let s := s.flushRecords t.die t.serial w.number.val (s.owed t.die t.serial w.number.val).length
  if (s.owed t.die t.serial w.number.val).isEmpty then (s.performAll t.ctx t.die w.core t.serial w.stores, []) else (s, w.stores)

/-- A wave stops (R271): what it has stored is performed in its order, its splits end, it leaves every barrier; the team ends with its
last wave. -/
def State.stopWave (s : State) (c : Cursor) : State :=
  match s.waveAt c with
  | none => s
  | some (t, w) =>
    let r := s.stopStores t w
    let s := r.1
    let w' := { w with
      splits := Vector.replicate 4 none, svc := none, svcWait := none, park := none, marker := false, stores := r.2
      status := .stopped }
    let s := s.setWaveAt c w'
    let s := s.count t.die w.core 14 (some t.ctx) 1
    let s := s.leaveBarriers t w
    s.reapTeam t.die t.serial w'

/-! ## Kill requests (R270, R271) -/

/-- A split waits in a kill point (R270). -/
def Wait.killPoint : Wait → Bool
  | .waita _ _ _ | .ewait _ | .arrive | .bar _ | .quorumAnswer _ => true
  | .fence | .stga | .stgw _ _ | .admission | .oinv | .fpflags | .records | .tile _ => false

/-- A wave that a kill request stops at once (R270, R287, R314): it has yielded, a split of it waits in a kill point or is
stopped for a debugger, every live split is parked, or the whole wave is parked. In service mode it stops at its RETT. -/
def Wave.stopsNow (w : Wave) : Bool :=
  w.status == .running && (w.park.isSome ||
    (w.svc.isNone && (w.yielded ||
      (w.liveSplits.any fun p => match p.2.status with | .waiting k => k.killPoint | .held => true | _ => false) ||
      (!w.liveSplits.isEmpty && w.liveSplits.all fun p => p.2.status == .parked))))

/-- A wait that suspends fetch for the whole wave (R53). For the wait of an MFSR of fpflags, of which R105 and R375 say only that the
read waits, this is the model's choice (DESIGN CHOICE, log 74). -/
def Wait.suspends : Wait → Bool
  | .waita _ _ _ | .ewait _ | .arrive | .bar _ | .quorumAnswer _ | .oinv => false
  | .fence | .stga | .stgw _ _ | .admission | .fpflags | .records | .tile _ => true

/-- A split that a save need not stop: it waits in WAITA, BAR or EWAIT, is parked, or stands where it issues nothing (R294). -/
def Split.rests (sp : Split) : Bool :=
  match sp.status with
  | .parked | .atJoin => true
  | .waiting k =>
    (match k with
     | .waita _ _ _ | .ewait _ | .arrive | .bar _ => true
     | .fence | .stga | .stgw _ _ | .admission | .quorumAnswer _ | .oinv | .fpflags | .records | .tile _ => false)
  | .ready | .trapped | .held => false

/-- A split that keeps its wave from service mode while it rests: it waits. -/
def Split.waits (sp : Split) : Bool :=
  match sp.status with
  | .waiting _ => true
  | .ready | .atJoin | .parked | .trapped | .held => false

/-- A wave that counts as yielded without a YIELD while a save is requested: it waits in WAITA, BAR or EWAIT, or every live split it
has is parked (R294). Parked splits beside ones at a JOIN are serviced (R281). -/
def Wave.yieldsNow (w : Wave) : Bool :=
  w.cc.p && w.svc.isNone && !w.liveSplits.isEmpty && (w.liveSplits.all fun p => p.2.rests) &&
    ((w.liveSplits.all fun p => p.2.status == .parked) || w.liveSplits.any fun p => p.2.waits)

/-- A wave with cc.K = 1 that stops at once stopped (R270). -/
def State.stopKilled (s : State) (c : Cursor) : State :=
  match s.waveAt c with
  | some (_, w) => if w.cc.k && w.stopsNow then s.stopWave c else s
  | none => s

/-- The waves of a team that stop at once stopped; `fuel` bounds their number. -/
def State.stopNow (s : State) (die : Fin 4) (serial : W32) : Nat → State
  | 0 => s
  | fuel + 1 =>
    match s.findTeam die serial with
    | none => s
    | some (i, t) =>
      match t.waves.findIdx? Wave.stopsNow with
      | none => s
      | some j => (s.stopWave ⟨i, j, 0⟩).stopNow die serial fuel

/-- A kill request that reaches a resident team: cc.K is set in every wave, and waves in a kill point stop (R270). -/
def State.killResident (s : State) (die : Fin 4) (serial : W32) : State :=
  match s.findTeam die serial with
  | none => s
  | some (i, t) =>
    let kill := fun (w : Wave) => ({ w with cc := { w.cc with k := true } } : Wave)
    let s := s.setTeam i { t with killed := true, waves := t.waves.map kill }
    s.stopNow die serial t.waves.length

/-- A launch is the queued one of a team. -/
def Launch.isTeam (l : Launch) (serial : W32) : Bool := l.serial == some serial

/-- A queued launch on a die. -/
def Die.launchOf (x : Die) (serial : W32) : Option Launch := (x.queue ++ x.overflow).find? fun l => l.isTeam serial

/-- A queued launch removed and never placed; a member of a quorum has left it (R270). -/
def State.killQueued (s : State) (die : Fin 4) (serial : W32) : State :=
  match s.dies[die].launchOf serial with
  | none => s
  | some l =>
    let s := s.setDie die { s.dies[die] with
      queue := s.dies[die].queue.filter fun m => !m.isTeam serial
      overflow := s.dies[die].overflow.filter fun m => !m.isTeam serial }
    let s := s.releaseAll l.frame l.held
    let s :=
      match l.member with
      | none => s
      | some (h, i) => s.memberLeaves l.ctx die serial h i
    match l.restored with
    | none => s
    | some x => s.killAway x

/-- The context whose debugger has taken a team off its cores. -/
def State.swapper (s : State) (die : Fin 4) (serial : W32) : Option (Nat × SavedTeam) :=
  s.contexts.toList.zipIdx.findSome? fun c =>
    (c.1.dbg.swapped.filter fun x => x.team.die == die && x.team.serial == serial).map fun x => (c.2, x)

/-- A team that a debugger has taken off its cores is killed: it is gone, and STATE returns to 0 (R314). -/
def State.killSwapped (s : State) (die : Fin 4) (serial : W32) : State :=
  match s.swapper die serial with
  | none => s
  | some (c, y) =>
    let x := s.ctx c
    let s := s.setCtx c { x with dbg := { x.dbg with state := .none, swapped := none } }
    if x.dbg.state = .stopped then ((s.memberGone y.team).releaseAll y.team.frame y.team.held).killAway y else s

/-- A kill request for a team, resident, queued or taken off its cores (R270, R292, R314). -/
def State.killTeam (s : State) (die : Fin 4) (serial : W32) : State :=
  if (s.findTeam die serial).isSome then s.killResident die serial
  else (s.killQueued die serial).killSwapped die serial

/-! ## Splits at a JOIN (R31) -/

/-- Every live split stands at a JOIN. -/
def Wave.allAtJoin (w : Wave) : Bool := !w.liveSplits.isEmpty && w.liveSplits.all fun p => p.2.status == .atJoin

/-- Pending-write bits of two splits together. -/
def Pending.or (p q : Pending) : Pending := ⟨p.v ||| q.v, p.s ||| q.s, p.m ||| q.m, p.k ||| q.k, p.a ||| q.a, p.f ||| q.f⟩

/-- The splits that stand at the JOIN at one PC merged into the lowest of their slots, behind it; the others' slots are freed. -/
def Wave.mergeAt (w : Wave) (pc : BitVec 48) : Wave :=
  match w.liveSplits.filter fun p => p.2.pc == pc && p.2.status == .atJoin with
  | [] => w
  | (j, sp) :: rest =>
    let merged := rest.foldl (fun acc p => { acc with mask := acc.mask ||| p.2.mask, pend := acc.pend.or p.2.pend }) sp
    let cleared := rest.foldl (fun acc p => acc.set p.1 none) w.splits
    { w with splits := cleared.set j (some { merged with pc := pc + 4, status := .ready }) }

/-- The merge rule of R31, evaluated where every live split stands at a JOIN. -/
def Wave.joinStep (w : Wave) : Wave :=
  if !w.allAtJoin then w
  else
    let pcs := (w.liveSplits.map fun p => p.2.pc).eraseDups
    let w' := pcs.foldl Wave.mergeAt w
    if 1 < pcs.length then { w' with jmis := true } else w'

end Sys2Proof.Machine
end

