-- ==== Sys2Proof/Machine/Ops.lean ====
section
/-! DEFINITION. The operations every instruction is written over: the issuing split taken out of the state and put back,
its registers, the checks at issue (R52), taking a trap and entering service mode (R283), return from it (R286), lane
faults (R280), parks (R287, R288), and what follows an instruction's own effect. -/

namespace Sys2Proof.Machine

/-! ## The issuing split -/

/-- The issuing split with its wave and team, out of the state. `sp` is the split; `was` what it waited for before. -/
structure Iss where
  st : State
  tm : Team
  wv : Wave
  slot : Fin 4
  sp : Split
  was : Option Wait
deriving DecidableEq, Repr

/-- What a split waits for. -/
def Split.waitsFor (sp : Split) : Option Wait :=
  match sp.status with
  | .waiting w => some w
  | .ready | .atJoin | .parked | .trapped | .held => none

/-- What a split of a wave waits for: in service mode what its handler does (R282). -/
def Wave.waitOf (w : Wave) (slot : Fin 4) : Option Wait :=
  if w.svc = some slot then w.svcWait else (w.splits[slot]).bind Split.waitsFor

/-- The live split `State.cur` names, taken out. -/
def checkout (s : State) : Option Iss :=
  match s.teams[s.cur.team]? with
  | none => none
  | some tm =>
    match tm.waves[s.cur.wave]? with
    | none => none
    | some wv =>
      match wv.splits[s.cur.slot] with
      | none => none
      | some sp => some ⟨s, tm, wv, s.cur.slot, sp, wv.waitOf s.cur.slot⟩

/-- The issuing split put back. -/
def Iss.commit (x : Iss) : State :=
  x.st.setTeam x.st.cur.team
    (x.tm.setWave x.st.cur.wave { x.wv with splits := x.wv.splits.set x.slot (some x.sp) })

/-- The wave is in service mode, and the split it serves issues (R282). -/
def Iss.inService (x : Iss) : Bool := x.wv.svc == some x.slot

/-- Lanes cut down where a limit stands. -/
def cutTo (m : Mask) : Option Mask → Mask
  | none => m
  | some r => m &&& r

/-- The lanes an instruction runs for: the split's active mask, cut down where a replay names lanes, of the instruction or of the REP
it is a repeat of (R286, R288). -/
def Iss.mask (x : Iss) : Mask := cutTo (cutTo x.sp.mask x.sp.only) x.sp.repOnly

/-- The split waits at an instruction that has issued: a marker on it took effect then (R50). -/
def Wait.issued : Wait → Bool
  | .waita _ _ _ | .ewait _ | .arrive | .bar _ | .quorumAnswer _ => true
  | .fence | .stga | .stgw _ _ | .admission | .oinv | .fpflags | .records | .tile _ => false

/-- The instruction issued at an earlier try. -/
def Iss.waited (x : Iss) : Bool := x.was.any Wait.issued

/-- The PC of the instruction. -/
def Iss.pc (x : Iss) : BitVec 48 := if x.inService then x.wv.svcPc else x.sp.pc

/-! ## The text (R76, R77) -/

/-- The text a split fetches from: its die's replica of the kernel's code object, or of the handler's in service mode
(R284, R426). -/
def Iss.text (x : Iss) : List Byte :=
  let obj := if x.inService then x.wv.tvecObj.toNat else x.tm.code
  match (x.st.ctx x.tm.ctx).code.find? fun c => c.obj == obj with
  | some c => c.texts[x.tm.die]
  | none => []

/-- The parcel at a byte offset of a text; none outside it. -/
def parcelAt (text : List Byte) (pc : Nat) : Option Nat :=
  if pc + 2 ≤ text.length then some (bytesNat text pc 2) else none

/-- What a fetch finds: an instruction's bits, or the address of the first parcel outside the text (R77). -/
inductive Word where
  | bits (w : Nat)
  | outside (addr : Nat)
deriving DecidableEq, Repr

/-- The bits of the instruction at a byte offset of a text. -/
def wordAt (text : List Byte) (pc : Nat) : Word :=
  match parcelAt text pc with
  | none => .outside pc
  | some p =>
    if p % 2 = 0 then .bits p
    else
      match parcelAt text (pc + 2) with
      | none => .outside (pc + 2)
      | some q => .bits (p + 2 ^ 16 * q)

/-! ## Registers -/

/-- A scalar; in service mode s48 to s63 are the bank's (R284). -/
def Iss.s (x : Iss) (n : SReg) : W64 :=
  if x.inService && 48 ≤ n.val then x.wv.bankS[Fin.ofNat 16 (n.val - 48)] else x.wv.s[n]

/-- A scalar written. -/
def Iss.setS (x : Iss) (n : SReg) (w : W64) : Iss :=
  if x.inService && 48 ≤ n.val then { x with wv := { x.wv with bankS := x.wv.bankS.set (Fin.ofNat 16 (n.val - 48)) w } }
  else { x with wv := { x.wv with s := x.wv.s.set n w } }

/-- The scalar `i` past the first of a block; the encoding keeps blocks within s63. -/
def Iss.sBlock (x : Iss) (p : SReg) (i : Nat) : W64 := x.s (Fin.ofNat 64 (p.val + i))

/-- A mask; m0 reads all ones (R57). -/
def Iss.m (x : Iss) (n : MReg) : Mask := if n = 0 then 0xFFFFFFFF else x.wv.m[n]

/-- A mask written; a write to m0 is discarded (R85). -/
def Iss.setM (x : Iss) (n : MReg) (w : Mask) : Iss :=
  if n = 0 then x else { x with wv := { x.wv with m := x.wv.m.set n w } }

/-- A capability register; in service mode k15 is the bank's (R284). -/
def Iss.k (x : Iss) (n : KReg) : Cap := if x.inService && n = 15 then x.wv.bankK else x.wv.k[n]

/-- A capability register written. -/
def Iss.setK (x : Iss) (n : KReg) (c : Cap) : Iss :=
  if x.inService && n = 15 then { x with wv := { x.wv with bankK := c } }
  else { x with wv := { x.wv with k := x.wv.k.set n c } }

/-- One lane of a vector register. -/
def Iss.v (x : Iss) (n : VReg) (L : Fin 32) : W32 := x.wv.v[n][L]

/-- The register `i` past a vector register; operands are checked to lie within v63. -/
def vNext (n : VReg) (i : Nat) : VReg := Fin.ofNat 64 (n.val + i)

/-- A vector register written in the lanes of a mask. -/
def Iss.setV (x : Iss) (n : VReg) (lanes : Mask) (f : Fin 32 → W32) : Iss :=
  { x with wv := { x.wv with
      v := x.wv.v.set n (Vector.ofFn fun L => if lanes.getLsbD L.val then f L else x.wv.v[n][L]) } }

/-- The four condition flags written. -/
def Iss.setFlags (x : Iss) (z n c v : Bool) : Iss :=
  { x with wv := { x.wv with cc := { x.wv.cc with z := z, n := n, c := c, v := v } } }

/-- cc.Z written. -/
def Iss.setZ (x : Iss) (z : Bool) : Iss := { x with wv := { x.wv with cc := { x.wv.cc with z := z } } }

/-! ## What an instruction's body answers -/

/-- A split trap's cause and data (Table 14.6). -/
structure Trap where
  cause : Nat
  info : Nat := 0
  addr : Nat := 0
deriving DecidableEq, Repr

/-- A faulting lane (R280). -/
structure LaneFault where
  lane : Fin 32
  cause : Nat
  info : Nat
  addr : Nat
deriving DecidableEq, Repr

/-- Lanes left unfinished by NOT_PRESENT or MIGRATING, and what the event of R154 says. -/
structure Unfinished where
  lanes : Mask
  cause : Nat
  obj : Nat
  page : Nat
  mgen : Nat
  access : Nat
deriving DecidableEq, Repr

/-- What becomes of an instruction. -/
inductive Eff where
  /-- complete for its lanes but the faulting and the unfinished ones; `extra`: registers written beside those of `infoOf` -/
  | done (x : Iss) (extra : List Reg) (faults : List LaneFault) (left : Option Unfinished)
  /-- complete; the split goes on at a PC -/
  | jump (x : Iss) (pc : BitVec 48)
  /-- a split trap at the instruction -/
  | trap (x : Iss) (t : Trap)
  /-- a split trap with TEPC at the next instruction -/
  | trapNext (x : Iss) (t : Trap)
  /-- nothing yet: the split waits at the instruction -/
  | wait (x : Iss) (w : Wait)
  /-- complete, and the state is the whole outcome -/
  | final (s : State)
deriving DecidableEq, Repr

/-- The wave stops at a kill point (R270, R271). -/
def Iss.stop (x : Iss) : Eff := .final (x.commit.stopWave x.st.cur)

/-- Complete without a fault. -/
def Eff.ok (x : Iss) : Eff := .done x [] [] none

/-! ## Service mode (R282 to R287) -/

/-- A fault record for a split (Tables 14.4 and 14.6). -/
def FaultRec.of (t : Trap) (lane noslot : Bool) (slot : Fin 4) (fmask : Mask) (sibs : List (Fin 4 × Split))
    (epc : BitVec 48) : FaultRec :=
  { cause := BitVec.ofNat 8 t.cause, noslot := noslot, lane := lane, info := BitVec.ofNat 32 t.info, fmask := fmask
    siblanes := sibs.foldl (fun acc p => acc ||| p.2.mask) 0
    slot := BitVec.ofNat 2 slot.val
    sibs := BitVec.ofNat 4 (sibs.foldl (fun acc p => acc ||| 2 ^ p.1.val) 0)
    epc := epc, addr := BitVec.ofNat 64 t.addr, pc := epc }

/-- The other live splits of the wave. -/
def Iss.siblings (x : Iss) : List (Fin 4 × Split) := x.wv.liveSplits.filter fun p => p.1 != x.slot

/-- The debug stop a service park with DUMPOBJ.AUTO starts (R317), which names the split that parked. Where a stop is under way, the
dump is taken as it completes. -/
def autoDump (t : Team) (w : Wave) (slot : Fin 4) (cause : BitVec 8) : Team :=
  if w.dumpobj.getLsbD 31 && t.halt == .none then { t with halt := .stopping cause (some (w.number.val, slot)) 0 true } else t

/-- The wave parks for good (R287): its event of kind 0xF1, which carries TEPC as it stood at entry, is posted. A wave with cc.K = 1
stops instead (R270; log 57). -/
def State.servicePark (s : State) (c : Cursor) (second : Nat) (at_ : Nat) : State :=
  match s.waveAt c with
  | none => s
  | some (t, w) =>
    if w.cc.k then s.stopWave c
    else
      let r := match w.splits[c.slot] with | some sp => sp.record | none => FaultRec.zero
      let t' := autoDump (t.setWave c.wave { w with svcWait := none, park := some .service }) w c.slot r.cause
      (s.setTeam c.team t').postFault t.ctx 0xF1 (srcOf t.die w.core w.number.val) (widOf t.die w) t.serial
        (leBytes 4 (r.cause.toNat + second * 2 ^ 8 + bit r.noslot * 2 ^ 16) ++ leBytes 8 r.pc.toNat ++
          leBytes 4 r.fmask.toNat ++ leBytes 4 r.info.toNat ++ leBytes 4 (widOf t.die w) ++ leBytes 4 t.serial.toNat ++
          leBytes 8 r.addr.toNat ++ leBytes 4 at_)

/-- Every pending-write bit of a wave cleared (R50, R51). -/
def Wave.clearPending (w : Wave) : Wave :=
  { w with splits := w.splits.map fun o => o.map fun sp => { sp with pend := Pending.clear } }

/-- A split enters service mode (R283); with no handler the wave parks. -/
def State.enterService (s : State) (c : Cursor) : State :=
  match s.waveAt c with
  | none => s
  | some (_, w) =>
    let w := { w.clearPending with marker := false }
    if w.tvecObj = 0 then (s.setWaveAt c w).servicePark c 0xA1 0
    else
      s.setWaveAt c { w with
        svc := some c.slot, svcPc := BitVec.ofNat 48 (w.tvecEntry.toNat * 64), svcWait := none }

/-- A cursor to another split of the wave. -/
def Cursor.at_ (c : Cursor) (slot : Fin 4) : Cursor := { c with slot := slot }

/-- Taking a trap (R279, R283): in service mode the wave parks; else the split keeps the fault record and enters service
mode, at once where no result of the wave is in flight and the wave is not parked (R288). `epc` is TEPC, `fmask` FMASK. -/
def Iss.takeTrap (x : Iss) (t : Trap) (lane noslot : Bool) (fmask : Mask) (epc : BitVec 48) : State :=
  if x.inService then x.commit.servicePark x.st.cur t.cause x.wv.svcPc.toNat
  else
    let r := FaultRec.of t lane noslot x.slot fmask x.siblings epc
    let s := { x with sp := { x.sp with status := .trapped, only := none, record := r } }.commit
    if x.st.inFlight x.tm x.wv || x.wv.park.isSome then s else s.enterService x.st.cur

/-- A split trap at the instruction. -/
def Iss.trapHere (x : Iss) (t : Trap) : State := x.takeTrap t false false x.sp.mask x.sp.pc

/-- The parked split that enters service next: the lowest slot, once no other live split is runnable (R281). -/
def Wave.eligible (w : Wave) : Option (Fin 4) :=
  if w.svc.isSome || w.park.isSome then none
  else
    let trapped := w.liveSplits.filter fun p => p.2.status == .trapped
    match trapped.head? with
    | some p => some p.1
    | none =>
      if w.liveSplits.all fun p => p.2.status == .parked || p.2.status == .atJoin then
        ((w.liveSplits.filter fun p => p.2.status == .parked).head?).map fun p => p.1
      else none

/-! ## The checks at issue (R52) -/

/-- Vector registers an instruction names. -/
def Info.vectors (f : Info) : List Nat :=
  f.names ++ (f.reads ++ f.writes).filterMap fun r =>
    match r with
    | .v n => some n
    | .s _ | .m _ | .k _ | .a _ | .f _ => none

/-- Every vector register lies within POOLW.VREGS (R80). -/
def Info.inPool (f : Info) (vregs : Nat) : Bool := f.vectors.all fun n => n < vregs

/-- The role and array checks of rank 3 (R35, R36). -/
def Info.roleOk (f : Info) (x : Iss) : Bool := roleAllows x.wv.role f.cls && (!f.array || x.tm.array)

/-- The mode check of rank 2. -/
def Info.privOk (f : Info) (x : Iss) : Bool :=
  match f.priv with
  | .any => true
  | .service => x.inService
  | .never => false

/-- The registers an instruction reads: a BLD with KS = 0 reads k0 unless SRCSP, bit 32 of its parameters, has it read the scratchpad
(R237, R334). -/
def Info.readsOf (f : Info) (x : Iss) : List Reg :=
  match f.k0By with
  | none => f.reads
  | some p => if fieldBit (x.s p).toNat 32 then f.reads else .k 0 :: f.reads

/-- The first check at issue that fails (R52, R94). -/
def checkIssue (f : Info) (x : Iss) : Option Trap :=
  if x.inService && !f.service then some { cause := 0x00 }
  else if !f.inPool x.tm.vregs then some { cause := 0x01 }
  else if !f.privOk x then some { cause := 0x03 }
  else if !f.roleOk x then some { cause := 0x04 }
  else if (f.readsOf x).any x.sp.pend.has then some { cause := 0x05 }
  else if f.writes.any fun r => x.sp.pend.has r && !(f.readsOf x).contains r then some { cause := 0x06 }
  else none

/-! ## After the instruction's own effect -/

/-- Pending-write bits of the registers written set in the issuing split (R51). -/
def Iss.markWrites (f : Info) (extra : List Reg) (x : Iss) : Iss :=
  { x with sp := { x.sp with pend := x.sp.pend.markAll (f.writes ++ extra) } }

/-- The split outside every REP. -/
def Split.noRep (sp : Split) : Split := { sp with repActive := false, repNext := 0, repCount := 0, repOnly := none }

/-- Past the instruction: the PC advances, a REP goes on to its next repeat or past its target, and the marker takes effect
(R50, R76, R91). -/
def Iss.advance (f : Info) (mk : Bool) (x : Iss) : Iss :=
  if x.inService then
    { x with wv := { x.wv with
        svcPc := x.wv.svcPc + BitVec.ofNat 48 f.len, svcWait := none, marker := x.wv.marker || mk } }
  else if x.sp.repActive then
    if x.sp.repNext.toNat < x.sp.repCount.toNat then
      { x with sp := { x.sp with status := .ready, only := none, repNext := x.sp.repNext + 1 } }
    else
      { x with
        sp := { x.sp.noRep with status := .ready, only := none, pc := x.sp.pc + 4 + BitVec.ofNat 48 f.len }
        wv := { x.wv with marker := x.wv.marker || mk } }
  else
    { x with
      sp := { x.sp with status := .ready, only := none, pc := x.sp.pc + BitVec.ofNat 48 f.len }
      wv := { x.wv with marker := x.wv.marker || mk } }

/-- The split goes on at a PC. -/
def Iss.jumpTo (mk : Bool) (x : Iss) (pc : BitVec 48) : Iss :=
  { x with
    sp := { x.sp with status := .ready, only := none, pc := pc }
    wv := { x.wv with marker := x.wv.marker || mk } }

/-- The split waits at its instruction, or its handler does; a marker on one that has issued takes effect now (R50). -/
def Iss.waitAt (mk : Bool) (x : Iss) (w : Wait) : Iss :=
  if x.inService then { x with wv := { x.wv with svcWait := some w, marker := x.wv.marker || (mk && w.issued) } }
  else { x with
    sp := { x.sp with status := .waiting w }
    wv := { x.wv with marker := x.wv.marker || (mk && w.issued) } }

/-- The lowest free split slot. -/
def Iss.freeSlot (x : Iss) : Option (Fin 4) := (List.finRange 4).find? fun j => j != x.slot && (x.wv.splits[j]).isNone

/-- The lanes of a list of lane faults. -/
def faultLanes (fs : List LaneFault) : Mask := maskOf fun L => fs.any fun f => f.lane == L

/-- The fault a record describes: the lowest code, at the lowest lane that raised it (R280). -/
def worstFault (fs : List LaneFault) : Trap :=
  let code := fs.foldl (fun acc f => min acc f.cause) 0xFF
  let ofCode := fs.filter fun f => f.cause == code
  let lane := ofCode.foldl (fun acc f => min acc f.lane.val) 31
  match ofCode.find? fun f => f.lane.val == lane with
  | some f => { cause := f.cause, info := f.info, addr := f.addr }
  | none => { cause := code }

/-- A wave parked replayable posts the event of R154. -/
def State.postPark (s : State) (t : Team) (w : Wave) (obj cause page mgen access : Nat) : State :=
  s.postTranslation t.die w.core w.number.val t.ctx (widOf t.die w) t.serial cause obj page mgen access

/-- The wave parks replayable at the instruction with its unfinished lanes recorded, once every earlier register result of it is
written (R53), and the event of R154 is posted (R288). A wave with cc.K = 1 stops instead (R270; log 57). -/
def Iss.parkReplay (x : Iss) (u : Unfinished) : State :=
  let sp := if x.inService then x.sp else { x.sp with only := some u.lanes, status := .ready }
  let park := fun (p : Park) => ({ x with sp := sp, wv := { x.wv with svcWait := none, park := some p } } : Iss).commit
  if x.wv.cc.k then (park (.replayable x.slot u.lanes u.obj)).stopWave x.st.cur
  else if x.st.inFlight x.tm x.wv then park (.due x.slot u.lanes u.obj u.cause u.page u.mgen u.access)
  else (park (.replayable x.slot u.lanes u.obj)).postPark x.tm x.wv u.obj u.cause u.page u.mgen u.access

/-- A wave whose park waited for its results takes the park once they are written (R53). -/
def State.parkDue (s : State) (c : Cursor) : State :=
  match s.waveAt c with
  | none => s
  | some (t, w) =>
    match w.park with
    | some (.due slot lanes obj cause page mgen access) =>
      if s.inFlight t w then s
      else (s.setWaveAt c { w with park := some (.replayable slot lanes obj) }).postPark t w obj cause page mgen access
    | some (.replayable _ _ _) | some .service | none => s

/-- The same for a wave of a team by serial and number. -/
def State.parkDueOf (s : State) (die : Fin 4) (team : W32) (wave : Nat) : State :=
  match s.findTeam die team with
  | none => s
  | some (i, t) =>
    match t.waves.findIdx? fun w => w.number.val == wave with
    | none => s
    | some j => s.parkDue ⟨i, j, 0⟩

/-- An instruction complete for some of its lanes: the faulting lanes part from the split (R280), unfinished lanes park the
wave (R288). A killed wave stops once every live split of it is parked (R270). -/
def Iss.settle (f : Info) (mk : Bool) (x : Iss) (extra : List Reg) (faults : List LaneFault) (left : Option Unfinished) :
    State :=
  let F := faultLanes faults
  if F = 0 then
    match left with
    | some u => x.parkReplay u
    | none => ((x.markWrites f extra).advance f mk).commit
  else
    let x' := x.markWrites f extra
    let t := worstFault faults
    if F = x.sp.mask then
      let r := FaultRec.of t true false x.slot F x.siblings x.sp.pc
      { x' with
        sp := { x'.sp with status := .parked, only := none, record := r }
        wv := { x'.wv with marker := x'.wv.marker || (mk && !x.sp.repActive) } }.commit.stopKilled x.st.cur
    else
      match x.freeSlot with
      | some j =>
        let keep := { x'.sp with mask := Mask.without x.sp.mask F }
        let r := FaultRec.of t true false j F ((x.slot, keep) :: x.siblings) x.sp.pc
        let parked := { x'.sp with mask := F, status := .parked, only := none, record := r }
        let x'' := { x' with sp := keep, wv := { x'.wv with splits := x'.wv.splits.set j (some parked) } }
        match left with
        | some u => { x'' with sp := { keep with pend := x.sp.pend } }.parkReplay u
        | none => (x''.advance f mk).commit
      | none =>
        match left with
        | some u => x.parkReplay { u with lanes := u.lanes ||| F }
        | none => x'.takeTrap t true true F x.sp.pc

/-- What becomes of an instruction once its body has answered. -/
def Iss.finish (f : Info) (mk : Bool) (e : Eff) : State :=
  match e with
  | .done x extra faults left => x.settle f mk extra faults left
  | .jump x pc => ((x.markWrites f []).jumpTo mk pc).commit
  | .trap x t => x.trapHere t
  | .trapNext x t => x.takeTrap t false false x.sp.mask (x.sp.pc + BitVec.ofNat 48 f.len)
  | .wait x w => (x.waitAt mk w).commit
  | .final s => s

/-- The split past a REP and its target, whatever the target is: a 16-bit one is two bytes long (R76, R89). -/
def Iss.skipRep (x : Iss) : State :=
  let target := match wordAt x.text (x.sp.pc.toNat + 4) with
    | .bits w => if w % 2 = 0 then 2 else 4
    | .outside _ => 4
  (({ x with sp := x.sp.noRep }.advance { cls := .scalar, len := 4 + target } false)).commit

/-- A replay for no lane skips the instruction, a REP with its target (R286). -/
def Iss.skip (f : Info) (x : Iss) : State := if f.rep then x.skipRep else (x.advance f false).commit

/-- An instruction issued by the split taken out: a replay for no lane skips it (R286); else the checks of R52, then its
body, then what follows. -/
def Iss.run (f : Info) (mk : Bool) (x : Iss) (body : Iss → Eff) : State :=
  if x.sp.only = some 0 && !x.inService then x.skip f
  else
    match checkIssue f x with
    | some t => x.trapHere t
    | none => Iss.finish f (mk && !x.waited) (body x)

/-- An encoded instruction executed by the split `State.cur` names. -/
def issue (i : Instr) (s : State) (body : Iss → Eff) : Host.Outcome State Fault Refusal :=
  match checkout s with
  | none => .fault .noIssuer
  | some x => .next (x.run (infoOf i) (markerOf i) body)

end Sys2Proof.Machine
end

