-- ==== Sys2Proof/Machine/Flags.lean ====
section
/-! DEFINITION. The flags: conditions on cc (Table 4.6), the compare of R391, the cc image (R85), and the floating-point
mode, traps and sticky flags of a wave (R102 to R105). -/

namespace Sys2Proof.Machine

/-- A condition holds (Table 4.6). -/
def holds (c : BrCond) (f : CC) : Bool :=
  match c with
  | .al => true
  | .eq => f.z
  | .ne => !f.z
  | .lt => f.n != f.v
  | .ge => f.n == f.v
  | .le => f.z || f.n != f.v
  | .gt => !f.z && f.n == f.v
  | .ltn => !f.c
  | .gen => f.c
  | .ps => f.p
  | .pc => !f.p
  | .ks => f.k
  | .kc => !f.k

/-- The difference of SCMP overflows as signed (R391). -/
def subOverflows (a b : W64) : Bool := a.msb != b.msb && (a - b).msb != a.msb

/-- SCMP: Z, N, C and V from a − b (R391). -/
def Iss.compare (x : Iss) (a b : W64) : Iss :=
  x.setFlags (a - b == 0) (a - b).msb (decide (b.toNat ≤ a.toNat)) (subOverflows a b)

/-- The cc image (R85). -/
def CC.image (f : CC) : W64 :=
  BitVec.ofNat 64 (bit f.z + bit f.n * 2 + bit f.c * 4 + bit f.v * 8 + bit f.p * 16 + bit f.k * 32 + bit f.e * 64)

/-- The rounding FPMODE.RM names (Table 5.3). -/
def roundOf (rm : BitVec 2) : Round :=
  match rm.toNat with
  | 0 => .rne
  | 1 => .rtz
  | 2 => .rdn
  | _ => .rup

/-- The exceptions whose trap is enabled (Table 5.3). -/
def Wave.traps (w : Wave) : Exc :=
  ⟨w.enables.getLsbD 0, w.enables.getLsbD 1, w.enables.getLsbD 2, w.enables.getLsbD 3, w.enables.getLsbD 4⟩

/-- The exceptions as FPFLAGS bits (Table 5.4). -/
def Exc.bits (e : Exc) : BitVec 6 :=
  BitVec.ofNat 6 (bit e.nv + bit e.dz * 2 + bit e.ovf * 4 + bit e.uf * 8 + bit e.nx * 16)

/-- Exceptions made sticky in FPFLAGS. -/
def Iss.raise (x : Iss) (e : Exc) : Iss := { x with wv := { x.wv with flags := x.wv.flags ||| e.bits } }

/-- The lanes of a mask that raise an exception whose trap is enabled, as lane faults with the lowest such code (R104). -/
def Iss.fpFaults (x : Iss) (lanes : Mask) (exc : Fin 32 → Exc) : List LaneFault :=
  (lanesOf lanes).filterMap fun L =>
    let t := (exc L).and x.wv.traps
    if t.any then some ⟨L, t.cause, L.val, 0⟩ else none

/-- The exceptions of some lanes together. -/
def excOf (lanes : Mask) (exc : Fin 32 → Exc) : Exc := (lanesOf lanes).foldl (fun acc L => acc.or (exc L)) Exc.none

/-- A per-lane floating-point instruction's end (R104): lanes with an enabled exception fault; `write` stores the results of
the others, whose exceptions become sticky. -/
def Iss.fpEnd (x : Iss) (lanes : Mask) (exc : Fin 32 → Exc) (write : Iss → Mask → Iss) : Eff :=
  let faults := x.fpFaults lanes exc
  let ok := Mask.without lanes (faultLanes faults)
  .done ((write x ok).raise (excOf ok exc)) [] faults none

end Sys2Proof.Machine
end

