-- ==== Sys2Proof/Machine/Operands.lean ====
section
/-! DEFINITION. Operand forms: vector operands and pairs by lane (R81, R82, R99), predicates, lane tiles (R37), and the
results of vector instructions. -/

namespace Sys2Proof.Machine

/-! ## Vector operands -/

/-- The value of an operand in a lane: one register, or a pair with the low word first (R99). -/
def Iss.lane (x : Iss) (wide : Bool) (n : VReg) (L : Fin 32) : Nat :=
  if wide then (x.v n L).toNat + (x.v (vNext n 1) L).toNat * 2 ^ 32 else (x.v n L).toNat

/-- A result written in the lanes of a mask: to one register, or to a pair. -/
def Iss.setLane (x : Iss) (wide : Bool) (n : VReg) (lanes : Mask) (f : Fin 32 → Nat) : Iss :=
  let y := x.setV n lanes fun L => BitVec.ofNat 32 (f L)
  if wide then y.setV (vNext n 1) lanes fun L => BitVec.ofNat 32 (f L / 2 ^ 32) else y

/-- The lanes an instruction with a predicate runs for (R79). -/
def Iss.under (x : Iss) (m : MReg) : Mask := x.mask &&& x.m m

/-- An integer instruction's end: every lane of a mask gets its value. -/
def Iss.lanesEnd (x : Iss) (wide : Bool) (d : VReg) (lanes : Mask) (f : Fin 32 → Nat) : Eff :=
  Eff.ok (x.setLane wide d lanes f)

/-- A floating-point instruction's end: every lane of a mask gets its value unless it faults (R104). -/
def Iss.fpLanes (x : Iss) (wide : Bool) (d : VReg) (lanes : Mask) (f : Fin 32 → Nat × Exc) : Eff :=
  x.fpEnd lanes (fun L => (f L).2) fun y ok => y.setLane wide d ok fun L => (f L).1

/-- Bits of a mask register set from a predicate in the lanes of a mask, kept elsewhere (R408). -/
def Iss.setMaskLanes (x : Iss) (md : MReg) (lanes : Mask) (p : Fin 32 → Bool) : Iss :=
  x.setM md (maskOf fun L => if lanes.getLsbD L.val then p L else (x.m md).getLsbD L.val)

/-! ## Lane tiles (R37) -/

/-- Lanes of a tile (Table 2.7). -/
def tileLanes (t : TileCode) : Nat := 2 ^ t.code

/-- The first lane of a lane's tile. -/
def tileBase (t : TileCode) (L : Fin 32) : Nat := L.val - L.val % tileLanes t

/-- The lanes of a lane's tile. -/
def tileOf (t : TileCode) (L : Fin 32) : Mask := maskOf fun K => tileBase t K == tileBase t L

/-- The lanes of a team's wave that are present (R28). -/
def Iss.present (x : Iss) : Mask := lowLanes (x.tm.lanes - 32 * x.wv.number.val)

end Sys2Proof.Machine
end

