-- ==== Sys2Proof/Machine/Access.lean ====
section
/-! DEFINITION. Memory operands: the checks of R147 lane by lane and once for a whole structure (R422), stream blocks (R184),
member slots (R266), reads, stores and atomics of one lane, and watch registers (R315). -/

namespace Sys2Proof.Machine

/-! ## Checks -/

/-- The rights an access needs (Table 7.1). -/
inductive AccessKind where
  | read | write | atomic
deriving DecidableEq, Repr

/-- The right of an access. -/
def AccessKind.right : AccessKind → Nat
  | .read => 1
  | .write => 2
  | .atomic => 4

/-- The local check of R147 at a capability offset; an atomic through a tentative capability lacks its right (Table 7.2). -/
def localCheck (cap : Cap) (kind : AccessKind) (o w : Nat) : Option Nat :=
  if !capValid cap then some 0x23
  else if !capHas cap kind.right || (kind == .atomic && capTent cap) then some 0x21
  else if capLen cap < o + w then some 0x20
  else if (capBase cap + o) % w ≠ 0 then some 0x24
  else none

/-- A check of a whole range once per wave, without alignment (R422). -/
def rangeCheck (cap : Cap) (need o w : Nat) : Option Nat :=
  if !capValid cap then some 0x23
  else if !capHas cap need then some 0x21
  else if capLen cap < o + w then some 0x20
  else none

/-- A check of a whole structure once per wave: the range, then alignment to 16 bytes (R422). -/
def structCheck (cap : Cap) (need o w : Nat) : Option Nat :=
  match rangeCheck cap need o w with
  | some c => some c
  | none => if (capBase cap + o) % 16 ≠ 0 then some 0x24 else none

/-- The trap of a check made once per wave (Table 14.6). -/
def onceTrap (cause : Nat) (k : Nat) (o : Nat) : Trap := { cause := cause, info := k * 2 ^ 8 + 2 ^ 14, addr := o }

/-! ## What an access comes to -/

/-- What one lane's access comes to: its bytes, a queued store, a fault, or an unfinished lane (R147). -/
inductive Got where
  | bytes (bs : List Byte)
  | queued (q : QueuedStore)
  | fault (cause : Nat)
  | unfinished (cause mgen : Nat)
deriving DecidableEq, Repr

/-- No path leads to another module: this one is in no pod, the other has left it, or the context has no peer there (R303, R304). -/
def State.moduleLost (s : State) (ctx m : Nat) : Bool :=
  !s.joined || s.lost.contains m || !((s.ctx ctx).peers.any fun p => p.1 == m)

/-- The module that owns a remote object (R303). -/
def ownerOf (obj : Nat) : Nat := obj / 2 ^ 10 % 2 ^ 13

/-- What an access of a context to another module comes to (R304): BUS_ERROR where no path leads there, else an outcome R147 gives at
the owner (log 17). -/
def State.remote (s : State) (ctx obj key : Nat) (ok : Got) : Got :=
  if s.moduleLost ctx (ownerOf obj) then .fault 0x29
  else
    match Config.remoteOutcome s.free key % 6 with
    | 0 => ok
    | 1 => .fault 0x22
    | 2 => .unfinished 0x26 0
    | 3 => .unfinished 0x27 0
    | 4 => .fault 0x29
    | _ => .fault 0x2A

/-- Bytes read from another module (log 17). -/
def State.remoteBytes (s : State) (key w : Nat) : List Byte :=
  (List.range w).map fun i => Config.remoteByte s.free (key + i)

/-- A sector as its home gives it to a reader that goes around L1, and whether it is poisoned (R124, R140). -/
def State.homeRead (s : State) (pa dom : Nat) : State × List Byte × Bool :=
  let s := (s.recall pa).homeFill pa dom
  (s, s.homeSector pa)

/-- The member that a tentative capability reads as (R137). -/
def Iss.readsAs (x : Iss) (cap : Cap) : Option (W32 × Nat) := if capTent cap then x.tm.member else none

/-- The member's own version of a sector, for a tentative capability; none before a store has reached it (R136, R137). -/
def Iss.ownVersion (x : Iss) (s : State) (cap : Cap) (pa : Nat) : Option (List Byte) :=
  (x.readsAs cap).bind fun m => if s.versionWritten m.1 m.2 pa then s.versionOf m.1 m.2 pa else none

/-- What a tentative load finds in its member's own version: its bytes, unless it is poisoned (R137, R140). -/
def Iss.versionBytes (x : Iss) (s : State) (pa w : Nat) (d : List Byte) : Got :=
  if x.tm.member.any fun m => s.versionBad m.1 m.2 pa then .fault 0x2A
  else .bytes (forwardBytes (some true) x.wv.stores pa (slice d (pa % 256) w))

/-- Bytes of one lane read (R363): the wave's own queued stores lie over what L1 or the home holds. -/
def Iss.load (x : Iss) (s : State) (cap : Cap) (key o w : Nat) : State × Got :=
  match localCheck cap .read o w with
  | some c => (s, .fault c)
  | none =>
    let off := capBase cap + o
    match s.reach x.tm.die x.wv.core x.tm.ctx cap off with
    | (s, .l1 e) =>
      let pa := e.pa + off % 256
      (s.l1Put x.tm.die x.wv.core e, .bytes (forwardBytes none x.wv.stores pa (slice e.data (off % 256) w)))
    | (s, .mem pa around) =>
      match x.ownVersion s cap pa with
      | some d => (s, x.versionBytes s pa w d)
      | none =>
        let r := if around then s.homeRead pa (domainOf x.tm.ctx cap)
          else s.l1Fill x.tm.die x.wv.core x.tm.ctx cap off pa
        if r.2.2 then (r.1, .fault 0x2A)
        else
          (r.1, .bytes (forwardBytes ((x.readsAs cap).map fun _ => false) x.wv.stores pa (slice r.2.1 (pa % 256) w)))
    | (s, .stale) => (s, .fault 0x22)
    | (s, .failed c) => (s, .fault c)
    | (s, .unfinished c g) => (s, .unfinished c g)
    | (s, .remote) =>
      (s, s.remote x.tm.ctx (capObj cap) key
        (.bytes (forwardRemotes (capObj cap) x.wv.stores off (s.remoteBytes (key * 2 ^ 41 + o) w))))

/-- The physical address an access goes to, and whether it goes around L1. -/
def Reach.physical (off : Nat) : Reach → Option (Nat × Bool)
  | .l1 e => some (e.pa + off % 256, false)
  | .mem pa around => some (pa, around)
  | .stale | .failed _ | .unfinished _ _ | .remote => none

/-- Validation of an image (R151); that of a remote object is made at its owner (R303, log 17). -/
def State.validateImage (s : State) (ctx : Nat) (c : Cap) : Option Nat :=
  if !capValid c || capRsv c then some 0x23
  else if remoteObj (capObj c) then
    if s.moduleLost ctx (ownerOf (capObj c)) then some 0x29
    else [none, some 0x22, some 0x23].getD (Config.remoteOutcome s.free (capObj c) % 3) none
  else s.validate ctx c

/-! ## Stream blocks (R184) -/

/-- CONFIG of a stream whose block stands at a physical address (Table 9.2). -/
def State.streamConfig (s : State) (block : Nat) : Nat := s.peekNat (block + 24) 8

/-- Bytes of an object that a wave's store may not write: those of a stream block, but for an aligned eight-byte store to
HEAD of a stream that no rod reads. -/
def State.blockForbids (s : State) (ctx obj off w pa : Nat) : Bool :=
  (s.ctx ctx).streams.contains obj && decide (off < 64) &&
    !(off == 8 && w == 8 && !fieldBit (s.streamConfig (pa - 8)) 44)

/-! ## Tentative stores (R136, R266) -/

/-- STRIDE of a quorum's descriptor (Table 13.1). -/
def Quorum.stride (q : Quorum) : Nat := bytesNat q.desc 40 8 % 2 ^ 40

/-- QUOTA of a quorum's descriptor. -/
def Quorum.quota (q : Quorum) : Nat := bytesNat q.desc 48 4

/-- REGION of a quorum's descriptor. -/
def Quorum.region (q : Quorum) : Cap := capOfBytes q.desc

/-- Bytes of an object lie in a member's slot (R262). -/
def Quorum.inSlot (q : Quorum) (i obj off w : Nat) : Bool :=
  obj == capObj q.region && decide (capBase q.region + i * q.stride ≤ off) &&
    decide (off + w ≤ capBase q.region + (i + 1) * q.stride)

/-- The quorum and member index a team is bound to while the binding lasts (R265). -/
def State.binding (s : State) (t : Team) : Option (W32 × Nat × Quorum) :=
  t.member.bind fun m => (s.quorum t.ctx m.1).bind fun q =>
    if q.isBound m.2 t.die t.serial then some (m.1, m.2, q) else none

/-- A version of a sector taken for a member's first store to it, against its quota (R136); none is TENT_QUOTA. -/
def State.takeVersion (s : State) (h : W32) (i : Nat) (q : Quorum) (pa dom : Nat) : Option State :=
  if (s.versionOf h i pa).isSome then some s
  else if q.quota < s.quorumUsed h + 256 ∨ (1024 ≤ s.versionTags pa ∧ !((s.versions pa).any fun v => v.isFor h i pa)) then none
  else some (s.makeVersion h i pa dom)

/-! ## One lane's store and atomic -/

/-- The bytes of one lane made ready for the store queue (R397). -/
def Iss.store (x : Iss) (s : State) (cap : Cap) (key o w : Nat) (bs : List Byte) (release : Option Scope) : State × Got :=
  match localCheck cap .write o w with
  | some c => (s, .fault c)
  | none =>
    let off := capBase cap + o
    let dom := domainOf x.tm.ctx cap
    let entry := fun (pa : Nat) (around : Bool) (m : Option (W32 × Nat)) =>
      Got.queued ⟨dom, capObj cap, BitVec.ofNat 16 (capGen cap), off, pa, around, m, bs, release⟩
    let bound := s.binding x.tm
    let barred := capTent cap && !(bound.any fun b => b.2.2.inSlot b.2.1 (capObj cap) off w)
    match s.reach x.tm.die x.wv.core x.tm.ctx cap off with
    | (s, .stale) => (s, .fault 0x22)
    | (s, .failed c) => (s, .fault c)
    | (s, .unfinished c g) => (s, .unfinished c g)
    | (s, .remote) => if barred then (s, .fault 0x21) else (s, s.remote x.tm.ctx (capObj cap) key (entry 0 true none))
    | (s, r) =>
      match r.physical off with
      | none => (s, .fault 0x29)
      | some (pa, around) =>
        if barred || s.blockForbids x.tm.ctx (capObj cap) off w pa then (s, .fault 0x21)
        else if capTent cap then
          match bound with
          | none => (s, .fault 0x21)
          | some (h, i, q) =>
            match s.takeVersion h i q pa dom with
            | none => (s, .fault 0x28)
            | some s => (s, entry pa true (some (h, i)))
        else (s, entry pa around none)

/-- An integer atomic operation of n bits, or fadd (R323); cas gives the operand. -/
def atomApply (op : AtomOp) (n old new : Nat) : Nat :=
  match op with
  | .add => intOp .add n true old new
  | .and => old &&& new
  | .or => old ||| new
  | .xor => old ^^^ new
  | .mins => intOp .min n true old new
  | .minn => intOp .min n false old new
  | .maxs => intOp .max n true old new
  | .maxn => intOp .max n false old new
  | .xchg | .cas => new
  | .fadd => (fpBin fp32 .rne .add old new).1

/-- The value an atomic writes, none where a compare fails. -/
def atomNew (op : AtomOp) (n old operand compare : Nat) : Option Nat :=
  if op = .cas ∧ old ≠ compare then none else some (atomApply op n old operand)

/-- The value a cas on TAIL writes (R184): none where it is no reservation within the ring. -/
def tailNew (tail head cfg operand compare : Nat) : Option Nat :=
  if tail = compare ∧ tail ≤ operand ∧ operand ≤ head + 2 ^ field cfg 36 5 then some operand else none

/-- A sector that an atomic at an address works on, as the executing place finds it (Table 6.5). -/
def Iss.atomRead (x : Iss) (s : State) (cap : Cap) (off pa : Nat) (inL1 : Bool) : State × List Byte × Bool :=
  if inL1 then
    match (s.core x.tm.die x.wv.core).l1Hit (domainOf x.tm.ctx cap) (capObj cap) (capGen cap) off with
    | some e => (s, e.data, false)
    | none => s.l1Fill x.tm.die x.wv.core x.tm.ctx cap off pa
  else s.homeRead pa (domainOf x.tm.ctx cap)

/-- Bytes an atomic writes where it executes. -/
def Iss.atomWrite (x : Iss) (s : State) (cap : Cap) (off pa : Nat) (inL1 : Bool) (bs : List Byte) : State :=
  if inL1 then
    s.l1Store x.tm.ctx x.tm.die x.wv.core
      ⟨domainOf x.tm.ctx cap, capObj cap, BitVec.ofNat 16 (capGen cap), off, pa, false, none, bs, none⟩
  else s.pokeSector pa (domainOf x.tm.ctx cap) bs

/-- One lane of an ATOM (R323, R184): the old value. -/
def Iss.atom (x : Iss) (s : State) (cap : Cap) (sc : Scope) (op : AtomOp) (key o w operand compare : Nat) : State × Got :=
  match localCheck cap .atomic o w with
  | some c => (s, .fault c)
  | none =>
    let off := capBase cap + o
    match s.reach x.tm.die x.wv.core x.tm.ctx cap off with
    | (s, .stale) => (s, .fault 0x22)
    | (s, .failed c) => (s, .fault c)
    | (s, .unfinished c g) => (s, .unfinished c g)
    | (s, .remote) => (s, s.remote x.tm.ctx (capObj cap) key (.bytes (s.remoteBytes (key * 2 ^ 41 + o) w)))
    | (s, r) =>
      match r.physical off with
      | none => (s, .fault 0x29)
      | some (pa, around) =>
        let block := (s.ctx x.tm.ctx).streams.contains (capObj cap) && decide (off < 64)
        let tail := off == 0 && w == 8 && op == .cas && decide (field (s.streamConfig (pa - off)) 41 2 ≠ 0)
        if block && !tail then (s, .fault 0x21)
        else
          let inL1 := !around && !block && (sc == .core || sc == .quad)
          let r := x.atomRead s cap off pa inL1
          let s := r.1
          if r.2.2 then (s, .fault 0x2A)
          else
            let old := bytesNat r.2.1 (pa % 256) w
            let new := if block then tailNew old (s.peekNat (pa + 8) 8) (s.streamConfig pa) operand compare
              else atomNew op (8 * w) old operand compare
            match new with
            | none => (s, .bytes (leBytes w old))
            | some v => (x.atomWrite s cap off pa inL1 (leBytes w v), .bytes (leBytes w old))

/-! ## All lanes of an instruction -/

/-- What the lanes of a memory instruction come to. -/
structure Run where
  st : State
  got : List (Fin 32 × List Byte)
  queue : List QueuedStore
  faults : List LaneFault
  left : Option Unfinished
deriving DecidableEq, Repr

/-- One lane's outcome joins those before it. The event of R154 tells of the lowest unfinished lane (DESIGN CHOICE, log 58: R154 does not
say which of several pages it names). -/
def Run.add (r : Run) (s : State) (L : Fin 32) (k o access : Nat) (cap : Cap) (g : Got) : Run :=
  let r := { r with st := s }
  match g with
  | .bytes bs => { r with got := r.got ++ [(L, bs)] }
  | .queued q => { r with got := r.got ++ [(L, [])], queue := r.queue ++ [q] }
  | .fault c => { r with faults := r.faults ++ [⟨L, c, L.val + k * 2 ^ 8, o⟩] }
  | .unfinished c g =>
    let bit1 := BitVec.ofNat 32 (2 ^ L.val)
    match r.left with
    | some u => { r with left := some { u with lanes := u.lanes ||| bit1 } }
    | none => { r with left := some ⟨bit1, c, capObj cap, (capBase cap + o) / 65536, g, access⟩ }

/-- Lanes, each at its offset. R160 leaves accesses of different lanes unordered; they are made in ascending order (DESIGN CHOICE,
log 39). -/
def runLanes (k access : Nat) (cap : Cap) (off : Fin 32 → Nat) (f : State → Fin 32 → Nat → State × Got) :
    List (Fin 32) → Run → Run
  | [], r => r
  | L :: Ls, r =>
    let g := f r.st L (off L)
    runLanes k access cap off f Ls (r.add g.1 L k (off L) access cap g.2)

/-- Nothing yet. -/
def Run.start (s : State) : Run := ⟨s, [], [], [], none⟩

/-- The lanes that completed. -/
def Run.ok (r : Run) : Mask := maskOf fun L => r.got.any fun p => p.1 == L

/-- The value a completed lane got. -/
def Run.value (r : Run) (L : Fin 32) : Nat :=
  match r.got.find? fun p => p.1 == L with
  | some p => leNat p.2
  | none => 0

/-- Registers of a memory operand written from values: 1, 2 or 4 words of each lane (R363). -/
def Iss.setWords (x : Iss) (n : Nat) (d : VReg) (lanes : Mask) (f : Fin 32 → Nat) : Iss :=
  (List.range n).foldl (fun y i => y.setV (vNext d i) lanes fun L => BitVec.ofNat 32 (f L / 2 ^ (32 * i))) x

/-- Words of a memory operand in a lane, low register first. -/
def Iss.words (x : Iss) (n : Nat) (d : VReg) (L : Fin 32) : Nat :=
  (List.range n).foldl (fun acc i => acc + (x.v (vNext d i) L).toNat * 2 ^ (32 * i)) 0

/-! ## Watch registers (R315) -/

/-- The lowest watch register that an access hits. -/
def watchHit (c : Context) (kind : AccessKind) (obj off w : Nat) : Option Nat :=
  (c.watch.toList.zipIdx.find? fun p =>
    let r := p.1
    r.en && (match kind with | .read => r.read | .write => r.write | .atomic => r.atomic) && r.obj.toNat == obj &&
      decide (r.offset8.toNat * 8 < off + w) && decide (off < r.offset8.toNat * 8 + (r.len8.toNat + 1) * 8)).map fun p => p.2

/-- The team starts to stop for the debugger with a cause, the issuing split named as the one that hit; a hit while a stop is
under way has no effect (R314). -/
def Iss.debugStop (x : Iss) (cause : Nat) : Iss :=
  let c := x.st.ctx x.tm.ctx
  if x.tm.halt == .none && c.dbg.state == .none then
    let dbg := { c.dbg with state := .stopping, cause := BitVec.ofNat 8 cause, skid := 0, ord := 0xFFFF }
    { x with
      st := x.st.setCtx x.tm.ctx { c with dbg := dbg }
      tm := { x.tm with halt := .stopping (BitVec.ofNat 8 cause) (some (x.wv.number.val, x.slot)) 0 false } }
  else x

/-- Accesses completed while a debugger is attached: a hit stops the team with the lowest hitting WATCH (R315). -/
def Iss.watch (x : Iss) (kind : AccessKind) (cap : Cap) (w : Nat) (offs : List Nat) : Iss :=
  let c := x.st.ctx x.tm.ctx
  if !c.dbg.attach then x
  else
    let hits := offs.filterMap fun o => watchHit c kind (capObj cap) (capBase cap + o) w
    match hits with
    | [] => x
    | h :: hs => x.debugStop (0xF0 + hs.foldl min h)

/-- A store that goes into L1 (R122, R124). -/
def QueuedStore.inL1 (q : QueuedStore) : Bool := !q.around && q.member.isNone && !remoteObj q.obj

/-- Two stores into L1 go to one sector. -/
def QueuedStore.sameSector (p q : QueuedStore) : Bool :=
  q.inL1 && p.inL1 && p.dom == q.dom && p.obj == q.obj && p.gen == q.gen && sectorBase p.off == sectorBase q.off

/-- The bytes of a sector that some stores write. -/
def QueuedStore.cover (qs : List QueuedStore) : BitVec 256 :=
  qs.foldl (fun m q => m ||| byteMask (q.off % 256) q.bytes.length) 0

/-- The stores of one instruction to the sector of one of them made one store, where together they write all 256 bytes (R122). -/
def joinSector (qs : List QueuedStore) (q : QueuedStore) : List QueuedStore :=
  let mine := qs.filter q.sameSector
  if mine.length ≤ 1 ∨ QueuedStore.cover mine ≠ BitVec.allOnes 256 then qs
  else
    qs.filter (fun p => !q.sameSector p) ++
      [{ q with
        off := sectorBase q.off, pa := sectorBase q.pa
        bytes := mine.foldl (fun c p => overlay c (p.off % 256) p.bytes) (zeros 256) }]

/-- The stores of one instruction as the queue takes them. -/
def joinStores (qs : List QueuedStore) : List QueuedStore :=
  if qs.foldl (fun n q => n + q.bytes.length) 0 < 256 then qs else qs.foldl joinSector qs

/-- A vector memory instruction's end. -/
def Iss.endRun (x : Iss) (r : Run) (kind : AccessKind) (cap : Cap) (w : Nat) (off : Fin 32 → Nat) : Eff :=
  let y := { x with st := r.st, wv := { x.wv with stores := x.wv.stores ++ joinStores r.queue } }
  .done (y.watch kind cap w (r.got.map fun p => off p.1)) [] r.faults r.left

/-- An access made once per wave: its bytes, or how the instruction ends (R364, R398). -/
def Iss.once (x : Iss) (s : State) (k o access : Nat) (cap : Cap) (g : Got) (f : Iss → List Byte → Eff) : Eff :=
  let y := { x with st := s }
  match g with
  | .bytes bs => f y bs
  | .queued q => f { y with wv := { y.wv with stores := y.wv.stores ++ [q] } } []
  | .fault c => .trap y (onceTrap c k o)
  | .unfinished c g => .done y [] [] (some ⟨x.mask, c, capObj cap, (capBase cap + o) / 65536, g, access⟩)

/-- A whole structure at offset `o` reached once per wave (R422): its physical address at its home, or how the instruction ends.
What the checks at the owner of a structure in another module give is taken; where they find nothing wrong the end is BUS_ERROR, for
Walaro links carry no step on a stream (R304; log 17). -/
def Iss.structure_ (x : Iss) (cause : Option Nat) (k : Nat) (cap : Cap) (o access : Nat) (f : Iss → Nat → Eff) : Eff :=
  match cause with
  | some c => .trap x (onceTrap c k o)
  | none =>
    let off := capBase cap + o
    match x.st.reach x.tm.die x.wv.core x.tm.ctx cap off with
    | (s, .stale) => .trap { x with st := s } (onceTrap 0x22 k o)
    | (s, .failed c) => .trap { x with st := s } (onceTrap c k o)
    | (s, .remote) =>
      match s.remote x.tm.ctx (capObj cap) off (.bytes []) with
      | .fault c => .trap { x with st := s } (onceTrap c k o)
      | .unfinished c g => .done { x with st := s } [] [] (some ⟨x.mask, c, capObj cap, off / 65536, g, access⟩)
      | .bytes _ | .queued _ => .trap { x with st := s } (onceTrap 0x29 k o)
    | (s, .unfinished c g) => .done { x with st := s } [] [] (some ⟨x.mask, c, capObj cap, off / 65536, g, access⟩)
    | (s, r) =>
      match r.physical off with
      | none => .trap { x with st := s } (onceTrap 0x29 k o)
      | some (pa, _) =>
        if (s.peekSector pa).2 then .trap { x with st := s } (onceTrap 0x2A k o) else f { x with st := s } pa

/-- The wave's queued stores performed, in order (R165, R170). -/
def Iss.drain (x : Iss) : Iss :=
  { x with
    st := x.st.performAll x.tm.ctx x.tm.die x.wv.core x.tm.serial x.wv.stores
    wv := { x.wv with stores := [] } }

/-! ## Publications before what follows them (R163 to R167, R174) -/

/-- The records of the wave's POSTs that are still to be written. -/
def Iss.owed (x : Iss) : List PendingRecord := x.st.owed x.tm.die x.tm.serial x.wv.number.val

/-- Those records written, as far as they can be. -/
def Iss.flush (x : Iss) : Iss :=
  if x.owed.isEmpty then x
  else { x with st := x.st.flushRecords x.tm.die x.tm.serial x.wv.number.val x.owed.length }

/-- Everything the wave stored or published performed before an access that follows it; it waits while a record cannot be written. -/
def Iss.ordered (x : Iss) (f : Iss → Eff) : Eff :=
  let y := x.flush
  if y.owed.isEmpty then f y.drain else .wait y .records

/-- The wave's stores performed before a publication or an arrival. Its own earlier publications keep their place before a later one
by their order; only a store between the two has to wait for them. -/
def Iss.released (x : Iss) (f : Iss → Eff) : Eff :=
  let y := x.flush
  if y.owed.isEmpty || y.wv.stores.isEmpty then f y.drain else .wait y .records

/-- A load after the wave's own publications to the object it reads, or to one that shares its pages with it (R124, R165). -/
def Iss.reading (x : Iss) (cap : Cap) (f : Iss → Eff) : Eff :=
  let y := x.flush
  let twin := fun (r : PendingRecord) => y.st.aliased y.tm.ctx r.obj && y.st.aliased y.tm.ctx (capObj cap)
  if y.owed.any fun r => r.obj == capObj cap || twin r then .wait y .records else f y

/-- Why a range cannot be read whole: the cause, the MGEN of the entry where the access is unfinished, and the capability
offset of the first byte that fails. -/
structure RangeStop where
  cause : Nat
  mgen : Nat
  off : Nat
deriving DecidableEq, Repr

/-- `w` bytes of one sector of an object read coherently at capability offset `o`; in another module as its owner answers (R304, log 17). -/
def State.readPiece (s : State) (die : Fin 4) (num ctx : Nat) (cap : Cap) (o w : Nat) : State × Except RangeStop (List Byte) :=
  let off := capBase cap + o
  match s.reach die num ctx cap off with
  | (s, .stale) => (s, .error ⟨0x22, 0, o⟩)
  | (s, .failed c) => (s, .error ⟨c, 0, o⟩)
  | (s, .unfinished c g) => (s, .error ⟨c, g, o⟩)
  | (s, .remote) =>
    match s.remote ctx (capObj cap) off (.bytes (s.remoteBytes (capObj cap * 2 ^ 41 + off) w)) with
    | .bytes bs => (s, .ok bs)
    | .fault c => (s, .error ⟨c, 0, o⟩)
    | .unfinished c g => (s, .error ⟨c, g, o⟩)
    | .queued _ => (s, .error ⟨0x29, 0, o⟩)
  | (s, r) =>
    match r.physical off with
    | none => (s, .error ⟨0x29, 0, o⟩)
    | some (pa, _) =>
      let c := s.peekSector pa
      if c.2 then (s, .error ⟨0x2A, 0, o⟩) else (s, .ok (slice c.1 (pa % 256) w))

/-- Bytes of a range of an object read coherently, sector by sector, from capability offset `o` up (R422): at most `fuel`
sectors. -/
def State.readRange (s : State) (die : Fin 4) (num ctx : Nat) (cap : Cap) :
    Nat → Nat → Nat → State × Except RangeStop (List Byte)
  | 0, _, _ => (s, .ok [])
  | fuel + 1, o, n =>
    if n = 0 then (s, .ok [])
    else
      let w := min n (256 - (capBase cap + o) % 256)
      match s.readPiece die num ctx cap o w with
      | (s, .error e) => (s, .error e)
      | (s, .ok bs) =>
        match s.readRange die num ctx cap fuel (o + w) (n - w) with
        | (s, .ok cs) => (s, .ok (bs ++ cs))
        | r => r

/-- A structure read once per wave after its check, once every earlier access of the wave is performed (R422): its bytes,
or how the instruction ends. `bad` gives the trap of a bus error or a poisoned sector. -/
def Iss.readStruct (x : Iss) (k : Nat) (cap : Cap) (n : Nat) (bad : Nat → Nat → Trap) (f : Iss → List Byte → Eff) : Eff :=
  match structCheck cap 1 0 n with
  | some c => .trap x (onceTrap c k 0)
  | none =>
    x.ordered fun y =>
      match y.st.readRange y.tm.die y.wv.core y.tm.ctx cap (n / 256 + 2) 0 n with
      | (s, .ok bs) => f { y with st := s } bs
      | (s, .error e) =>
        let z := { y with st := s }
        if e.cause = 0x22 then .trap z (onceTrap 0x22 k e.off)
        else if e.cause = 0x29 ∨ e.cause = 0x2A then .trap z (bad e.cause e.off)
        else .done z [] [] (some ⟨z.mask, e.cause, capObj cap, (capBase cap + e.off) / 65536, e.mgen, 0⟩)

/-! ## Work of the wave that has not ended -/

/-- Matrix and accumulator instructions of the wave that have not completed (R105). -/
def Iss.passesOut (x : Iss) : Bool :=
  x.st.cores.any fun c => c.die == x.tm.die && c.queue.any fun q => q.team == x.tm.serial && q.wave == x.wv.number.val

/-- The wave has an engine command that has not ended. -/
def Iss.commandsOut (x : Iss) : Bool :=
  x.st.cores.any fun c => c.engines.any fun e =>
    e.die == x.tm.die && e.team == x.tm.serial && e.wave == x.wv.number.val

/-- cc.E cleared. -/
def Iss.clearE (x : Iss) : Iss := { x with wv := { x.wv with cc := { x.wv.cc with e := false } } }

/-! ## Scratchpad (R118, R119) -/

/-- The scratchpad of the team on the issuing core. -/
def Iss.scratch (x : Iss) : Memory :=
  match x.tm.cores.find? fun c => c.core == x.wv.core with
  | some c => c.scratch
  | none => Memory.empty

/-- The scratchpad replaced. -/
def Team.setScratch (t : Team) (core : Nat) (m : Memory) : Team :=
  { t with cores := t.cores.map fun c => if c.core == core then { c with scratch := m } else c }

/-- The scratchpad of the issuing core replaced. -/
def Iss.setScratch (x : Iss) (m : Memory) : Iss := { x with tm := x.tm.setScratch x.wv.core m }

/-- A lane's scratchpad check (R118, Table 14.6). -/
def Iss.scratchFault (x : Iss) (L : Fin 32) (off w : Nat) : Option LaneFault :=
  if x.tm.scru * 16384 < off + w then some ⟨L, 0x20, L.val + 2 ^ 12, off⟩
  else if off % w ≠ 0 then some ⟨L, 0x24, L.val + 2 ^ 12, off⟩
  else none

/-- The scratchpad faults of the lanes of a mask. -/
def Iss.scratchFaults (x : Iss) (lanes : Mask) (w : Nat) (off : Fin 32 → Nat) : List LaneFault :=
  (lanesOf lanes).filterMap fun L => x.scratchFault L (off L) w

end Sys2Proof.Machine
end

