-- ==== Sys2Proof/Machine/Atom.lean ====
section
/-! DEFINITION. Atomics in memory (R323, R324) and in scratchpad (R326). -/

namespace Sys2Proof.Machine

/-- The operand register of an atomic: behind the compare value for cas (Table 16.4). -/
def atomOperand (wide : Bool) (op : AtomOp) (d : VReg) : VReg :=
  if op = .cas then vNext d (if wide then 2 else 1) else d

/-- ATOM: the lanes apply in ascending order as one step, after the wave's own stores (R323, R165). -/
def Iss.atomLanes (x : Iss) (sc : Scope) (wide : Bool) (op : AtomOp) (v : VReg) (k : KReg) (d : VReg) : Eff :=
  let cap := x.k k
  let w := if wide then 8 else 4
  let off := fun (L : Fin 32) => (x.v v L).toNat
  x.ordered fun y =>
    let r := runLanes k.val 2 cap off
      (fun s L o => y.atom s cap sc op L.val o w (x.lane wide (atomOperand wide op d) L) (x.lane wide d L))
      (lanesOf x.mask) (Run.start y.st)
    (y.setWords (if wide then 2 else 1) d r.ok r.value).endRun r .atomic cap w off

/-- ATOM, relaxed (R323). -/
def execAtom (sc : Scope) (wide : Bool) (op : AtomOp) (ix : VReg) (k : KReg) (d : VReg) (mk : Bool)
    (s : State) : Host.Outcome State Fault Refusal :=
  issue (.atom sc wide op ix k d mk) s fun x => x.atomLanes sc wide op ix k d

/-- ATOM, acquire-release: everything here is performed in order (R323, R170). -/
def execAtomAr (sc : Scope) (wide : Bool) (op : AtomOp) (ix : VReg) (k : KReg) (d : VReg) (mk : Bool)
    (s : State) : Host.Outcome State Fault Refusal :=
  issue (.atomAr sc wide op ix k d mk) s fun x => x.atomLanes sc wide op ix k d

/-- Lanes of an ATOMS in ascending order: the scratchpad after them and the old values (R326). -/
def atomScratch (w : Nat) (op : AtomOp) (offs opnd cmp : Fin 32 → Nat) :
    List (Fin 32) → Memory → List (Fin 32 × Nat) → Memory × List (Fin 32 × Nat)
  | [], m, olds => (m, olds)
  | L :: Ls, m, olds =>
    let old := m.readNat (offs L) w
    let m' := match atomNew op (8 * w) old (opnd L) (cmp L) with
      | some v => m.writeNat (offs L) w v
      | none => m
    atomScratch w op offs opnd cmp Ls m' (olds ++ [(L, old)])

/-- ATOMS (R326). -/
def execAtoms (wide : Bool) (op : AtomOp) (ix : VReg) (d : VReg) (mk : Bool)
    (s : State) : Host.Outcome State Fault Refusal :=
  issue (.atoms wide op ix d mk) s fun x =>
    let w := if wide then 8 else 4
    let offs := fun (L : Fin 32) => (x.v ix L).toNat
    let faults := x.scratchFaults x.mask w offs
    let ok := Mask.without x.mask (faultLanes faults)
    let r := atomScratch w op offs (x.lane wide (atomOperand wide op d)) (x.lane wide d) (lanesOf ok) x.scratch []
    let old := fun (L : Fin 32) => match r.2.find? fun p => p.1 == L with | some p => p.2 | none => 0
    .done ((x.setScratch r.1).setWords (if wide then 2 else 1) d ok old) [] faults none

end Sys2Proof.Machine
end

