-- ==== Sys2Proof/Machine/Stream.lean ====
section
/-! DEFINITION. Streams as waves use them: RESV (R186), POST (R187) and PUBL (R188) on the stream block (R185). -/

namespace Sys2Proof.Machine

/-- The checks of R185 that do not depend on the instruction. -/
def Block.usable (b : Block) (cap : Cap) : Bool :=
  capBase cap == 0 && decide (64 + 64 * 2 ^ b.logn ≤ capLen cap) && b.valid

/-- A stream instruction: its capability is checked once for the block; then, once everything before it is performed (`order`), the
block is read and the instruction acts on it as one step (R174, R185). Table 7.2 has no row for RESV, POST and PUBL through a capability
with the tentative right: they act as through any other (DESIGN CHOICE, log 77). -/
def Iss.stream (x : Iss) (order : Iss → (Iss → Eff) → Eff) (k : KReg) (need access : Nat) (allows : Block → Bool)
    (f : Iss → Nat → Block → Eff) : Eff :=
  let cap := x.k k
  match structCheck cap need 0 64 with
  | some c => .trap x (onceTrap c k.val 0)
  | none =>
    order x fun z => z.structure_ none k.val cap 0 access fun y pa =>
      let b := y.st.readBlock pa
      if b.usable cap && allows b then f y pa b else .trap y { cause := 0x85 }

/-- RESV reserves positions or answers FULL (R186). -/
def execResv (d : SReg) (v : SReg) (k : KReg) (mk : Bool) (s : State) : Host.Outcome State Fault Refusal :=
  issue (.resv d v k mk) s fun x =>
    let c := (x.s v).toNat
    x.stream Iss.ordered k 4 2 (fun b => b.kind ≠ 0) fun y pa b =>
      if c = 0 ∨ 2 ^ b.logn < c then .trap y { cause := 0x85 }
      else if b.tail + c - b.head > 2 ^ b.logn then Eff.ok ((y.setS d (-1)).setZ true)
      else
        let z := { y with st := y.st.pokeNat pa (domainOf y.tm.ctx (x.k k)) 8 (b.tail + c) }
        Eff.ok ((z.setS d (BitVec.ofNat 64 b.tail)).setZ false)

/-- The event image of a lane of POST (R187), but for LAP. -/
def Iss.postBytes (x : Iss) (v : VReg) (L : Fin 32) : List Byte :=
  let w := fun (i : Nat) => (x.v (vNext v i) L).toNat
  eventBytes (field (w 0) 0 8) (field (w 0) 11 5) (x.tm.depth + 1) (srcOf x.tm.die x.wv.core x.wv.number.val) (w 1)
    ((List.range 12).map fun i => leBytes 4 (w (i + 2))).flatten

/-- How many of the lanes' positions POST reserves, none for STREAM_FULL (R187). -/
def postCount (mode : PostMode) (c free : Nat) : Option Nat :=
  if c ≤ free then some c
  else
    match mode with
    | .all => some 0
    | .part => some free
    | .trap => none

/-- Records given to the ring's home with their positions, in ascending order, as one publication of the wave (R187). -/
def Iss.postAll (x : Iss) (obj logn : Nat) (v : VReg) (order : Nat) : List (Fin 32) → Nat → State → State
  | [], _, s => s
  | L :: Ls, p, s =>
    let rec_ : PendingRecord :=
      { ctx := x.tm.ctx, obj := obj, pos := some p, slot := 64 + 64 * (p % 2 ^ logn), bytes := x.postBytes v L
        wid := widOf x.tm.die x.wv, team := x.tm.serial, posted := true, told := none, order := some order }
    x.postAll obj logn v order Ls (p + 1) (s.post rec_)

/-- The reservation step of POST and its results (R187). -/
def Iss.postStep (x : Iss) (mode : PostMode) (cap : Cap) (v : VReg) (d : SReg) (pa : Nat) (b : Block) : Eff :=
  let lanes := lanesOf x.mask
  match postCount mode lanes.length b.free with
  | none => .trap x { cause := 0x80 }
  | some g =>
    let posted := lanes.take g
    let s := if g = 0 then x.st else x.st.pokeNat pa (domainOf x.tm.ctx cap) 8 (b.tail + g)
    let z := { x with st := x.postAll (capObj cap) b.logn v s.nextOrder posted b.tail s }
    Eff.ok ((z.setS d ((maskOf fun L => posted.contains L).setWidth 64)).setZ (decide (g ≠ lanes.length)))

/-- POST offers one event from each active lane (R187). -/
def execPost (mode : PostMode) (d : SReg) (v : VReg) (k : KReg) (mk : Bool)
    (s : State) : Host.Outcome State Fault Refusal :=
  issue (.post mode d v k mk) s fun x =>
    x.stream Iss.released k 2 1 (fun b => !b.stamped && !b.sys) fun z pa b =>
      if z.mask ≠ 0 ∧ b.maxd < z.tm.depth + 1 then .trap z { cause := 0x81 }
      else if (lanesOf z.mask).any fun L => 0xE0 ≤ (z.v v L).toNat % 256 then .trap z { cause := 0x85 }
      else z.postStep mode (x.k k) v d pa b

/-- The position a slot index names in the window that starts at INGEST (R188). -/
def slotPosition (b : Block) (i : Nat) : Nat :=
  b.ingest + (i + 2 ^ b.logn - b.ingest % 2 ^ b.logn) % 2 ^ b.logn

/-- The fault of a lane of PUBL (R188). -/
def Iss.publFault (x : Iss) (k : KReg) (v : VReg) (b : Block) (L : Fin 32) : Option LaneFault :=
  let i := (x.v v L).toNat
  if 2 ^ b.logn ≤ i ∨ b.tail ≤ slotPosition b i then some ⟨L, 0x20, L.val + k.val * 2 ^ 8, 64 + 64 * i⟩ else none

/-- PUBL publishes reserved slots of a bitmap stream (R188). -/
def execPubl (v : VReg) (k : KReg) (mk : Bool) (s : State) : Host.Outcome State Fault Refusal :=
  issue (.publ v k mk) s fun x =>
    x.stream Iss.ordered k 2 1 (fun b => b.kind == 1) fun y pa b =>
      let faults := (lanesOf y.mask).filterMap fun L => y.publFault k v b L
      let ok := Mask.without y.mask (faultLanes faults)
      let s := y.st.commitSlots pa (domainOf y.tm.ctx (x.k k)) ((lanesOf ok).map fun L => (y.v v L).toNat)
      .done { y with st := s } [] faults none

end Sys2Proof.Machine
end

