-- ==== Sys2Proof/Machine/Image.lean ====
section
/-! DEFINITION. Automaton images (R198 to R200) and their verification field by field (R201, R423). -/

namespace Sys2Proof.Machine

/-! ## Fields -/

/-- Bytes of an automaton image. -/
def imageBytes : Nat := 1472

/-- A clock constraint (R199): its operator code, its clock and its constant. -/
structure Guard where
  op : Nat
  clk : Fin 4
  val : Nat
deriving DecidableEq, Repr

/-- A transition of an image (Table 10.2). -/
structure Edge where
  slot : Nat
  src : Nat
  dst : Nat
  act : Nat
  tmo : Bool
  consume : Bool
  keyEq : Bool
  stream : Nat
  kind : Nat
  reset : Nat
  bslot : Fin 4
  bind : Bool
  pcmp : Nat
  pword : Nat
  pval : Nat
  c0 : Guard
  c1 : Guard
deriving DecidableEq, Repr

/-- The transition of a slot. -/
def edgeAt (img : List Byte) (i : Nat) : Edge :=
  let w := fun (k : Nat) => bytesNat img (64 + 16 * i + 4 * k) 4
  { slot := i, src := field (w 0) 0 4, dst := field (w 0) 4 4, act := field (w 0) 8 2, tmo := fieldBit (w 0) 10,
    consume := fieldBit (w 0) 11, keyEq := fieldBit (w 0) 12, stream := field (w 0) 14 2, kind := field (w 0) 16 8,
    reset := field (w 1) 0 4, bslot := fieldFin 4 (field (w 1) 4 2) 0, bind := fieldBit (w 1) 6,
    pcmp := field (w 1) 8 3, pword := field (w 1) 11 4, pval := w 2,
    c0 := ⟨field (w 1) 16 3, fieldFin 4 (field (w 1) 19 2) 0, field (w 3) 0 16⟩,
    c1 := ⟨field (w 1) 21 3, fieldFin 4 (field (w 1) 24 2) 0, field (w 3) 16 16⟩ }

/-- NTRANS. -/
def imgTrans (img : List Byte) : Nat := bytesNat img 7 1
/-- NSTREAM. -/
def imgStreams (img : List Byte) : Nat := bytesNat img 8 1
/-- The unit exponent of a clock. -/
def imgUnit (img : List Byte) (c : Nat) : Nat := field (bytesNat img 10 2) (4 * c) 4
/-- QUOTA. -/
def imgQuota (img : List Byte) : Nat := field (bytesNat img 12 4) 0 17
/-- OVF. -/
def imgOvf (img : List Byte) : Nat := field (bytesNat img 12 4) 17 2
/-- NCONST. -/
def imgConst (img : List Byte) : Nat := bytesNat img 16 2
/-- The object identity of stream j. -/
def imgStream (img : List Byte) (j : Nat) : Nat := bytesNat img (24 + 4 * j) 3
/-- The streams an image reads, in order. -/
def imgObjs (img : List Byte) : List Nat := (List.range (imgStreams img)).map (imgStream img)
/-- The transitions of an image, in slot order. -/
def imgEdges (img : List Byte) : List Edge := (List.range (imgTrans img)).map (edgeAt img)

/-! ## Launch records (Table 10.3) -/

/-- The doubleword of LANES, the pool and GANG. -/
def recPool (r : List Byte) : Nat := bytesNat r 8 8
/-- CODE. -/
def recCode (r : List Byte) : Nat := bytesNat r 0 3
/-- ENTRY. -/
def recEntry (r : List Byte) : Nat := bytesNat r 4 4
/-- LANES. -/
def recLanes (r : List Byte) : Nat := field (recPool r) 0 11
/-- PAIRED. -/
def recPaired (r : List Byte) : Bool := fieldBit (recPool r) 11
/-- ARRAY. -/
def recArray (r : List Byte) : Bool := fieldBit (recPool r) 12
/-- VREGS. -/
def recVregs (r : List Byte) : Nat := field (recPool r) 16 7
/-- SCRU. -/
def recScru (r : List Byte) : Nat := field (recPool r) 24 8
/-- ACCU. -/
def recAccu (r : List Byte) : Nat := field (recPool r) 32 8
/-- HOME. -/
def recHome (r : List Byte) : Nat := field (recPool r) 40 4
/-- GANG. -/
def recGang (r : List Byte) : Nat := field (recPool r) 48 10
/-- Wave w's role. -/
def recRole (r : List Byte) (w : Nat) : Nat := field (bytesNat r 16 8) (2 * w) 2
/-- DONE. -/
def recDone (r : List Byte) : Nat := bytesNat r 24 3
/-- The six bits of KSRC for k1 to k4, by N − 1. -/
def recSrc (r : List Byte) (n : Nat) : Nat := field (bytesNat r 28 4) (6 * n) 6
/-- The capability image for k1 to k4, by N − 1. -/
def recKimg (r : List Byte) (n : Nat) : Cap := capOfBytes (slice r (32 + 16 * n) 16)
/-- W, the waves of a team (R28). -/
def recWaves (r : List Byte) : Nat := (recLanes r + 31) / 32
/-- The waves on the leader, the most that one core holds (R28). -/
def recLeaderWaves (r : List Byte) : Nat := if recPaired r then (recWaves r + 1) / 2 else recWaves r
/-- The footprint on a core that holds `w` waves, in units (R39). -/
def recUnits (r : List Byte) (w : Nat) : Nat := (w * recVregs r + 127) / 128 + recScru r + recAccu r

/-! ## Verification (R201, R423) -/

/-- A condition that fails, at the byte offset of the field it is checked at. -/
abbrev Check := Nat × Bool

/-- The offset of the first condition that fails. -/
def firstFailure (cs : List Check) : Option Nat := (cs.find? fun c => c.2).map fun c => c.1

/-- A stream object of a context that the Frame can read: its home and its block (R181). One whose block is on a page that is not present or
moves, or in a poisoned sector, is none, so that an image that names it is refused (DESIGN CHOICE, log 80). -/
def State.streamAt (s : State) (ctx obj : Nat) : Option (Fin 4 × Block) :=
  match s.entry ctx obj, s.streamBlock ctx obj with
  | some e, some (_, b) =>
    if (s.ctx ctx).streams.contains obj && b.valid && decide (b.kind ≠ 3) && decide (64 + 64 * 2 ^ b.logn ≤ e.size) then
      some (e.home, b)
    else none
  | _, _ => none

/-- The home of the first stream of an image. -/
def State.imageHome (s : State) (ctx : Nat) (img : List Byte) : Fin 4 :=
  match s.streamAt ctx (imgStream img 0) with
  | some p => p.1
  | none => 0

/-- A stream breaks the common home or the STAMPED rule with those before it (R197, R201). -/
def State.streamBreaks (s : State) (ctx : Nat) (img : List Byte) (j : Nat) (p : Fin 4 × Block) : Bool :=
  let before := (List.range j).filterMap fun i => s.streamAt ctx (imgStream img i)
  (decide (j ≠ 0) && p.1 != s.imageHome ctx img) || (decide (j ≠ 0) && (p.2.stamped || before.any fun q => q.2.stamped))

/-- The checks of the header (Table 10.1). -/
def State.headerChecks (s : State) (ctx : Nat) (img : List Byte) : List Check :=
  [(0, bytesNat img 0 4 != 0x41554D58), (4, bytesNat img 4 2 != 1),
    (6, bytesNat img 6 1 == 0 || decide (16 < bytesNat img 6 1)), (7, imgTrans img == 0 || decide (64 < imgTrans img)),
    (8, imgStreams img == 0 || decide (4 < imgStreams img)), (9, bytesNat img 9 1 != 0),
    (12, imgQuota img == 0 || decide (65536 < imgQuota img)), (14, imgOvf img == 3),
    (14, field (bytesNat img 12 4) 19 13 != 0), (16, decide (256 < imgConst img) || imgConst img % 4 != 0),
    (18, bytesNat img 18 6 != 0)] ++
  ((List.range 4).map fun j =>
    if j < imgStreams img then
      let p := s.streamAt ctx (imgStream img j)
      [(24 + 4 * j, p.isNone || p.any (s.streamBreaks ctx img j)), (24 + 4 * j + 3, bytesNat img (24 + 4 * j + 3) 1 != 0)]
    else [(24 + 4 * j, bytesNat img (24 + 4 * j) 4 != 0)]).flatten ++
  [(40, bytesNat img 40 24 != 0)]

/-- The checks of one transition slot in use (Table 10.2). -/
def slotChecks (img : List Byte) (i : Nat) : List Check :=
  let e := edgeAt img i
  let o := 64 + 16 * i
  let ns := bytesNat img 6 1
  let start := e.src == 0
  let w0 := bytesNat img o 4
  let w1 := bytesNat img (o + 4) 4
  [(o, decide (ns ≤ e.src)),
    (o + 1, if e.act = 0 then decide (ns ≤ e.dst) || e.dst == 0 else e.dst != 0),
    (o + 1, e.act == 3 || (start && e.act == 1)), (o + 1, e.tmo && start), (o + 1, e.tmo && e.consume),
    (o + 1, e.keyEq && (start || e.tmo)), (o + 1, fieldBit w0 13),
    (o + 1, decide (imgStreams img ≤ e.stream) || (e.tmo && e.stream != 0)), (o + 2, e.tmo && e.kind != 0),
    (o + 3, field w0 24 8 != 0), (o + 4, (start && !e.bind) || (e.tmo && e.bind)), (o + 4, fieldBit w1 7),
    (o + 5, e.pcmp == 7 || (e.tmo && e.pcmp != 0)), (o + 5, decide (11 < e.pword)), (o + 5, fieldBit w1 15),
    (o + 6, decide (5 < e.c0.op) || (e.tmo && e.c0.op != 3)), (o + 6, decide (5 < e.c1.op) || (e.tmo && e.c1.op != 0)),
    (o + 7, field w1 26 6 != 0)]

/-- Some state has no transition out of it but kills. -/
def deadState (img : List Byte) : Bool :=
  (List.range (bytesNat img 6 1)).any fun q => !((imgEdges img).any fun e => e.src == q && e.act != 1)

/-- The checks of the transition area: slots in use, the states, then the unused slots. -/
def slotAreaChecks (img : List Byte) : List Check :=
  ((List.range (imgTrans img)).map (slotChecks img)).flatten ++ [(64 + 16 * imgTrans img, deadState img)] ++
    (List.range (64 - imgTrans img)).map fun k =>
      (64 + 16 * (imgTrans img + k), bytesNat img (64 + 16 * (imgTrans img + k)) 16 != 0)

/-- The bytes of a code object's text; 0 where the context has no such object. -/
def State.textBytes (s : State) (ctx obj : Nat) : Nat :=
  match (s.ctx ctx).code.find? fun c => c.obj == obj with
  | some c => c.texts[0].length
  | none => 0

/-- The checks of the source of one of k1 to k4, by N − 1, in the record at image offset 1,088. -/
def sourceChecks (r : List Byte) (n : Nat) : List Check :=
  let src := recSrc r n
  let k := field src 0 2
  let place := fun (b : Nat) => 1088 + 28 + (6 * n + b) / 8
  [(place 0, k == 3 || (recHome r == n + 1 && k != 1 && k != 2)), (place 2, k != 2 && field src 2 2 != 0),
    (place 4, field src 4 2 == 3 || (k != 2 && field src 4 2 != 0))]

/-- The checks of one of the four capability images. -/
def State.kimgCheck (s : State) (ctx : Nat) (r : List Byte) (n : Nat) : Check :=
  (1088 + 32 + 16 * n,
    if field (recSrc r n) 0 2 = 1 then (s.validateImage ctx (recKimg r n)).isSome else recKimg r n != 0)

/-- The checks of the launch record (Table 10.3). -/
def State.recordChecks (s : State) (ctx : Nat) (img : List Byte) : List Check :=
  let r := slice img 1088 128
  let q := recPool r
  [(1088, s.textBytes ctx (recCode r) == 0), (1091, bytesNat r 3 1 != 0),
    (1092, recEntry r % 64 != 0 || decide (s.textBytes ctx (recCode r) ≤ recEntry r)),
    (1096, recLanes r == 0 || decide (1024 < recLanes r)), (1097, field q 13 3 != 0),
    (1098, recVregs r == 0 || decide (64 < recVregs r)), (1098, fieldBit q 23),
    (1100, decide (96 < recUnits r (recLeaderWaves r))), (1101, decide (4 < recHome r)), (1101, field q 44 4 != 0),
    (1102, decide (576 < recGang r)), (1103, field q 58 6 != 0),
    (1104, bytesNat r 16 8 / 2 ^ (2 * recWaves r) != 0),
    (1112, recDone r != 0 && (s.streamAt ctx (recDone r)).isNone)] ++
  ((List.range 4).map (sourceChecks r)).flatten ++ [(1119, bytesNat r 31 1 != 0)] ++
  (List.range 4).map (s.kimgCheck ctx r) ++ [(1184, bytesNat r 96 32 != 0)]

/-- The byte offset of the first field of an image that fails (R201, R423); none: the image is accepted. Unused words are zero (R201).
R423 has no field for them: an unused slot is reported at its start, 64 + 16i, an unused STREAMS word at its own, and the constants past
NCONST together at 1,216 + NCONST (DESIGN CHOICE, log 79). -/
def State.imageFault (s : State) (ctx : Nat) (img : List Byte) : Option Nat :=
  firstFailure (s.headerChecks ctx img ++ slotAreaChecks img ++ s.recordChecks ctx img ++
    [(1216 + imgConst img, bytesNat img (1216 + imgConst img) (256 - imgConst img) != 0)])

end Sys2Proof.Machine
end

