-- ==== Sys2Proof/Machine/Frame.lean ====
section
/-! DEFINITION. The Frame at work: clocks (R196), transitions (R203), offers (R204), deadlines (R205), timeouts (R206), room
for beads and held events (R207), acceptances (R208), and installing and unloading rods (R215, R216). -/

namespace Sys2Proof.Machine

/-! ## Events -/

/-- KIND of a record. -/
def EventRec.kind (e : EventRec) : Nat := e.head.toNat % 256
/-- DEPTH of a record. -/
def EventRec.depth (e : EventRec) : Nat := field e.head.toNat 8 3
/-- SRC of a record. -/
def EventRec.src (e : EventRec) : Nat := field e.head.toNat 16 16
/-- KEY of a record. -/
def EventRec.key (e : EventRec) : W32 := BitVec.ofNat 32 (e.head.toNat / 2 ^ 32)

/-- A record from the 64 bytes of its slot, with a stamp (Table 9.1). -/
def EventRec.ofBytes (bs : List Byte) (stamp : Nat) : EventRec :=
  ⟨BitVec.ofNat 64 (bytesNat bs 0 8), stamp, Vector.ofFn fun i => BitVec.ofNat 32 (bytesNat bs (16 + 4 * i.val) 4)⟩

/-- The 48 payload bytes of a record. -/
def EventRec.payloadBytes (e : EventRec) : List Byte := (e.payload.toList.map fun w => leBytes 4 w.toNat).flatten

/-- A record has the form of a quorum's release event: posted by a Frame, its key a handle (R269; DEDUCED, log 20). -/
def EventRec.isRelease (e : EventRec) : Bool :=
  e.key.getLsbD 31 && field e.key.toNat 0 6 == 0 && e.src % 2 ^ 13 == 0x1FFF && decide (e.src < 2 ^ 15)

/-! ## Clocks (R196) -/

/-- Whole units of 2^k ticks at a stamp; a stamp before the die's first tick, as a restore can leave one due (R220), is negative. -/
def unitsAt (k : Nat) (T : Int) : Int := T / (2 ^ k : Nat)

/-- The value of clock c of a bead at a stamp. -/
def Bead.clock (b : Bead) (img : List Byte) (T : Nat) (c : Fin 4) : Int := unitsAt (imgUnit img c.val) T - b.marks[c]

/-- A guard's operator (Table 10.2). -/
def Guard.holds (g : Guard) (v : Int) : Bool :=
  match g.op with
  | 0 => true
  | 1 => v < g.val
  | 2 => v ≤ g.val
  | 3 => v ≥ g.val
  | 4 => v > g.val
  | _ => v == g.val

/-- The payload comparison of a transition. -/
def Edge.payloadOk (e : Edge) (ev : EventRec) : Bool :=
  let w := (ev.payload[Fin.ofNat 12 e.pword]).toNat
  match e.pcmp with
  | 0 => true
  | 1 => w == e.pval
  | 2 => w != e.pval
  | 3 => w < e.pval
  | 4 => w ≤ e.pval
  | 5 => w > e.pval
  | _ => w ≥ e.pval

/-- A transition holds for an event of stream index `si`, whatever the bead's key, with the clocks' values (R203). -/
def Edge.holds (e : Edge) (ev : EventRec) (si : Nat) (clock : Fin 4 → Int) : Bool :=
  e.stream == si && e.kind == ev.kind && e.payloadOk ev && e.c0.holds (clock e.c0.clk) && e.c1.holds (clock e.c1.clk)

/-! ## Deadlines (R205) -/

/-- The last stamp at which a guard holds; none where it has no upper bound. -/
def Guard.last (g : Guard) (img : List Byte) (b : Bead) : Option Int :=
  let u : Int := (2 ^ imgUnit img g.clk.val : Nat)
  let m := b.marks[g.clk]
  match g.op with
  | 2 | 5 => some ((m + g.val + 1) * u - 1)
  | 1 => if g.val = 0 then some (-1) else some ((m + g.val) * u - 1)
  | _ => none

/-- The stamp at which a timeout transition falls due for a bead (R206). -/
def Edge.due (e : Edge) (img : List Byte) (b : Bead) : Int :=
  (b.marks[e.c0.clk] + e.c0.val) * (2 ^ imgUnit img e.c0.clk.val : Nat)

/-- The last stamp at which a transition may fire for a bead; none where it has no bound. -/
def Edge.last (e : Edge) (img : List Byte) (b : Bead) : Option Int :=
  if e.tmo then some (e.due img b)
  else
    match e.c0.last img b, e.c1.last img b with
    | none, r => r
    | r, none => r
    | some p, some q => some (min p q)

/-- The greatest of two bounds, none being greater than every stamp. -/
def laterBound (p q : Option Int) : Option Int :=
  match p, q with
  | some a, some b => some (max a b)
  | _, _ => none

/-- A bead's deadline; none where some transition has no bound. -/
def Bead.deadline (b : Bead) (img : List Byte) : Option Int :=
  ((imgEdges img).filter fun e => e.src == b.state && e.act != 1).foldl (fun acc e => laterBound acc (e.last img b))
    (some (-1))

/-- A bead whose deadline lies below a stamp. -/
def Bead.expired (b : Bead) (img : List Byte) (T : Nat) : Bool :=
  match b.deadline img with
  | some d => d < T
  | none => false

/-! ## A rod at work -/

/-- A rod taken out of its Frame while it is worked on: its beads apart (`rod.beads` holds those already settled), the
entry that holds the offered event, and the error events it posts. -/
structure Work where
  die : Die
  d : Fin 4
  rod : Rod
  num : Option Nat
  quorum : Option (List Byte)
  posts : List (List Byte)
deriving DecidableEq, Repr

/-- The rod handle (R214). -/
def Rod.handle (r : Rod) : W32 := BitVec.ofNat 32 (r.number + r.serial * 2 ^ 11)

/-- Beads in use in the Frame but for the working rod's. -/
def Work.otherBeads (w : Work) : Nat :=
  (w.die.rods.filter fun r => !(r.ctx == w.rod.ctx && r.number == w.rod.number)).foldl (fun n r => n + r.beads.length) 0

/-- The lowest number that names no held entry, searched upward with fuel. -/
def freshHeld (hs : List Held) : Nat → Nat → Nat
  | 0, n => n
  | fuel + 1, n => if hs.any fun h => h.num == n then freshHeld hs fuel (n + 1) else n

/-- The references of a bead given up. -/
def Work.drop (w : Work) (b : Bead) : Work :=
  let ns := b.bound.toList.filterMap id
  { w with die := { w.die with held := ns.foldl (fun hs n => releaseHeld n hs) w.die.held } }

/-- A refusal counted, and posted under ERRPOST (R207). -/
def Work.refuse (w : Work) (reason : Nat) (key : W32) (T : Nat) : Work :=
  let w := { w with rod := { w.rod with drops := w.rod.drops + 1 } }
  if w.rod.ovf = 2 then
    { w with posts := w.posts ++
      [leBytes 4 w.rod.handle.toNat ++ leBytes 4 reason ++ leBytes 4 key.toNat ++ leBytes 4 (T % 2 ^ 32)] }
  else w

/-- The offered event put into a held entry of its own; none where held storage is full (R207). -/
def Work.holdNew (w : Work) (ev : EventRec) : Option (Work × Nat) :=
  if 16384 ≤ w.die.held.length then none
  else
    let n := freshHeld w.die.held w.die.held.length 0
    some ({ w with die := { w.die with held := w.die.held ++ [⟨n, w.rod.ctx, ev, w.quorum, 0⟩] }, num := some n }, n)

/-- The entry that holds the offered event, made where there is none yet. -/
def Work.hold (w : Work) (ev : EventRec) : Option (Work × Nat) :=
  match w.num with
  | some n => if w.die.held.any fun h => h.num == n then some (w, n) else w.holdNew ev
  | none => w.holdNew ev

/-- A held entry's record. -/
def Die.heldAt (x : Die) (n : Nat) : Option Held := x.held.find? fun h => h.num == n

/-- The launch that an accepted bead makes (R208, R212). -/
def Work.launch (w : Work) (b : Bead) : Launch :=
  let hs := b.bound.map fun o => o.bind w.die.heldAt
  let evs := hs.map fun o => o.map fun h => h.ev
  { ctx := w.rod.ctx, frame := w.d, record := slice w.rod.image 1088 128
    consts := slice w.rod.image 1216 (imgConst w.rod.image)
    rod := w.rod.handle, events := evs
    quorum := (hs.toList.findSome? fun o => o.bind fun h => h.quorum)
    held := b.bound.toList.filterMap id
    depth := evs.toList.foldl (fun n o => match o with | some e => max n e.depth | none => n) 0
    gangSize := recGang (slice w.rod.image 1088 128), gangIndex := 0, gang := 0, caps := Vector.replicate 4 0
    member := none, serial := none, order := 0, restored := none }

/-- An acceptance: the launch joins those of the Frame, with references of its own (R208). -/
def Work.accept (w : Work) (b : Bead) : Work :=
  let l := w.launch b
  { w with die := { w.die with
      accepted := w.die.accepted ++ [l]
      held := l.held.foldl (fun hs n => retainHeld n hs) w.die.held } }

/-- The clocks a transition resets (R196). -/
def Bead.reset (b : Bead) (img : List Byte) (mask : Nat) (T : Int) : Bead :=
  { b with marks := Vector.ofFn fun c => if mask.testBit c.val then unitsAt (imgUnit img c.val) T else b.marks[c] }

/-- The event bound into a slot, the one it held before released (R199). -/
def Work.bindSlot (w : Work) (b : Bead) (slot : Fin 4) (n : Nat) : Work × Bead :=
  let hs := retainHeld n w.die.held
  let hs := match b.bound[slot] with | some old => releaseHeld old hs | none => hs
  ({ w with die := { w.die with held := hs } }, { b with bound := b.bound.set slot (some n) })

/-- What the action of a transition leaves of a bead (R204). -/
def Work.act (w : Work) (b : Bead) (e : Edge) : Work × Option Bead :=
  match e.act with
  | 0 => (w, some { b with state := e.dst })
  | 1 => (w.drop b, none)
  | _ => ((w.accept b).drop b, none)

/-- A bead takes a transition, with the event offered or none (R204). -/
def Work.take (w : Work) (b : Bead) (e : Edge) (ev : Option EventRec) (T : Int) : Work × Option Bead :=
  let b := b.reset w.rod.image e.reset T
  match e.bind, ev with
  | true, some r =>
    match w.hold r with
    | none => ((w.refuse 1 r.key T.toNat).drop b, none)
    | some (w, n) =>
      let p := w.bindSlot b e.bslot n
      p.1.act p.2 e
  | _, _ => w.act b e

/-- The first transition of a bead's state that holds for the event (R204). -/
def Bead.edge (b : Bead) (img : List Byte) (ev : EventRec) (si T : Nat) : Option Edge :=
  (imgEdges img).find? fun e =>
    e.src == b.state && !e.tmo && (!e.keyEq || ev.key == b.key) && e.holds ev si (b.clock img T)

/-- The event offered to the beads, oldest first; the result says whether it is spent (R204). -/
def Work.beads (w : Work) (ev : EventRec) (si T : Nat) : List Bead → Work × List Bead × Bool
  | [] => (w, [], false)
  | b :: bs =>
    match b.edge w.rod.image ev si T with
    | none =>
      let r := w.beads ev si T bs
      (r.1, b :: r.2.1, r.2.2)
    | some e =>
      let p := w.take b e (some ev) T
      if e.consume then (p.1, p.2.toList ++ bs, true)
      else
        let r := p.1.beads ev si T bs
        (r.1, p.2.toList ++ r.2.1, r.2.2)

/-- Room made for a new bead by the quota and the rod's policy (R207); none where no bead is made. R207 counts the beads left after the
expiry step; of them, those that the same offer has killed or accepted before its start step no longer count (DESIGN CHOICE, log 78). -/
def Work.room (w : Work) (key : W32) (T : Nat) : Option Work × Work :=
  if w.rod.beads.length < w.rod.quota ∧ w.otherBeads + w.rod.beads.length < 65536 then (some w, w)
  else
    match w.rod.ovf, w.rod.beads with
    | 1, b :: bs =>
      let w := ({ w with rod := { w.rod with beads := bs, drops := w.rod.drops + 1 } }).drop b
      (some w, w)
    | _, _ => (none, w.refuse 0 key T)

/-- The event starts a bead of its own where a start transition holds and there is room (R204, R207). -/
def Work.start (w : Work) (ev : EventRec) (si T : Nat) : Work :=
  match (imgEdges w.rod.image).find? fun e => e.src == 0 && !e.tmo && e.holds ev si fun _ => 0 with
  | none => w
  | some e =>
    match w.room ev.key T with
    | (none, w) => w
    | (some w, _) =>
      match w.hold ev with
      | none => w.refuse 1 ev.key T
      | some (w, _) =>
        let b : Bead :=
          ⟨0, ev.key, Vector.ofFn fun c => unitsAt (imgUnit w.rod.image c.val) T, Vector.replicate 4 none, []⟩
        let p := w.take b e (some ev) T
        { p.1 with rod := { p.1.rod with beads := p.1.rod.beads ++ p.2.toList } }

/-! ## Timeouts (R206) -/

/-- A timeout of a bead that falls due above `lo`, where that is given, and has not fired for this mark: its due stamp and slot. -/
def Bead.timeouts (b : Bead) (img : List Byte) (lo : Option Int) : List (Int × Edge) :=
  (imgEdges img).filterMap fun e =>
    if e.tmo && e.src == b.state && (lo.all fun l => decide (l < e.due img b)) && !(b.fired.contains (e.slot, b.marks[e.c0.clk])) then
      some (e.due img b, e)
    else none

/-- The timeout that comes first: by due stamp, then bead age, then slot. -/
def Rod.firstTimeout (r : Rod) (lo : Option Int) : Option (Int × Nat × Edge) :=
  let all := (r.beads.zipIdx.map fun p => (p.1.timeouts r.image lo).map fun t => (t.1, p.2, t.2)).flatten
  all.foldl (fun acc t =>
    match acc with
    | none => some t
    | some u => if t.1 < u.1 then some t else some u) none

/-- The first timeout due at or before a stamp fired, once (R206); none where none is due. -/
def Work.fireOne (w : Work) (lo : Option Int) (T : Nat) : Option Work :=
  match w.rod.firstTimeout lo with
  | none => none
  | some (due, i, e) =>
    if (T : Int) < due then none
    else
      match w.rod.beads[i]? with
      | none => none
      | some b =>
        let b' := { b with
          fired := (e.slot, b.marks[e.c0.clk]) :: b.fired.filter fun f => f.1 != e.slot }
        let p := w.take b' e none due
        some { p.1 with rod := { p.1.rod with
          beads := p.1.rod.beads.take i ++ p.2.toList ++ p.1.rod.beads.drop (i + 1) } }

/-- Every timeout due at or before a stamp fired in order, at most `fuel` of them. -/
def Work.fire (w : Work) (T : Nat) : Nat → Work
  | 0 => w
  | fuel + 1 =>
    match w.fireOne none T with
    | none => w
    | some w => w.fire T fuel

/-- The earliest due stamp of a rod's timeouts, or 0 where that is earlier. -/
def Work.earliest (w : Work) : Int :=
  match w.rod.firstTimeout none with
  | some t => min t.1 0
  | none => 0

/-- Timeouts that can fire up to a stamp: each bead fires each slot once for each mark, and a mark is one of the stamps from the first that
falls due. -/
def Work.fireFuel (w : Work) (T : Nat) : Nat := (w.rod.beads.length + 1) * 64 * ((T - w.earliest).toNat + 2 ^ 16 + 2)

/-! ## An offer (R204) -/

/-- Beads past their deadline removed and counted (R205). -/
def Work.expire (w : Work) (T : Nat) : Work :=
  let gone := w.rod.beads.filter fun b => b.expired w.rod.image T
  let w := gone.foldl Work.drop w
  { w with rod := { w.rod with
      beads := w.rod.beads.filter fun b => !b.expired w.rod.image T
      expired := w.rod.expired + BitVec.ofNat 32 gone.length } }

/-- An event offered to a rod with its stamp (R204). -/
def Work.offer (w : Work) (ev : EventRec) (si T : Nat) : Work :=
  let w := { w with rod := { w.rod with back := none, lastOffered := T } }
  let w := (w.fire T (w.fireFuel T)).expire T
  let r := w.beads ev si T w.rod.beads
  let w := { r.1 with rod := { r.1.rod with beads := r.2.1 } }
  let w := if r.2.2 then w else w.start ev si T
  { w with rod := { w.rod with offered := w.rod.beads.length } }

/-- A rod taken out of a die. -/
def Die.work (x : Die) (d : Fin 4) (r : Rod) (num : Option Nat) (q : Option (List Byte)) : Work := ⟨x, d, r, num, q, []⟩

/-- A rod is the one of a context and number. -/
def Rod.is (r : Rod) (ctx number : Nat) : Bool := r.ctx == ctx && r.number == number

/-- The die with the rod put back. -/
def Work.back (w : Work) : Die :=
  { w.die with rods := w.die.rods.map fun r => if r.is w.rod.ctx w.rod.number then w.rod else r }

/-- The result of work on a rod put into the module, its error events posted (R207, R427). -/
def State.putWork (s : State) (w : Work) : State :=
  w.posts.foldl (fun acc p => acc.postFault w.rod.ctx 0xE1 (srcDie w.d) 0 0 p) (s.setDie w.d w.back)

/-- A context's rods and quorums advance only while it runs (R293). -/
def State.frameRuns (s : State) (ctx : Nat) : Bool := (s.ctx ctx).state == .running

/-- An image reads a STAMPED stream (R197). -/
def State.imageStamped (s : State) (ctx : Nat) (img : List Byte) : Bool :=
  (imgObjs img).any fun o => (s.streamBlock ctx o).any fun p => p.2.stamped

/-- A rod of a die. -/
def State.rodAt (s : State) (d : Fin 4) (ctx n : Nat) : Option Rod := s.dies[d].rods.find? fun r => r.is ctx n

/-- What a rod without stamps has due now applied: its timeouts, then its expiries (R205, R206). A disabled rod, or one enabled again
since, waits for its next offer (R216). -/
def State.sweepRod (s : State) (d : Fin 4) (who : Nat × Nat) : State :=
  match s.rodAt d who.1 who.2 with
  | none => s
  | some r =>
    if !r.enabled || r.back.isSome || !s.frameRuns r.ctx || r.stamped then s
    else
      let T := s.dies[d].ticks
      let w := s.dies[d].work d r none none
      s.putWork ((w.fire T (w.fireFuel T)).expire T)

/-- The beads or the held events of a die fill its Frame (Table 1.4). -/
def Die.full (x : Die) : Bool :=
  decide (65536 ≤ x.rods.foldl (fun n r => n + r.beads.length) 0) || decide (16384 ≤ x.held.length)

/-- A full Frame reaps the beads past their deadline, which count for no rule (R205). -/
def State.sweepFull (s : State) (d : Fin 4) : State :=
  if s.dies[d].full then (s.dies[d].rods.map fun r => (r.ctx, r.number)).foldl (fun acc who => acc.sweepRod d who) s else s

/-- An event offered to every enabled rod that reads its stream, in ascending rod index (R202). -/
def State.offerAll (s : State) (d : Fin 4) (ctx obj : Nat) (ev : EventRec) (T : Nat) (q : Option (List Byte)) :
    List Nat → Option Nat → State
  | [], _ => s
  | n :: ns, num =>
    match s.dies[d].rods.find? fun r => r.is ctx n with
    | none => s.offerAll d ctx obj ev T q ns num
    | some r =>
      match r.enabled, (imgObjs r.image).findIdx? fun o => o == obj with
      | true, some si =>
        let s := s.sweepFull d
        let r := (s.rodAt d ctx n).getD r
        let w := (s.dies[d].work d r num q).offer ev si T
        (s.putWork w).offerAll d ctx obj ev T q ns w.num
      | _, _ => s.offerAll d ctx obj ev T q ns num

/-- The rods of a context on a die, in rod index order. -/
def State.rodsOf (s : State) (d : Fin 4) (ctx : Nat) : List Nat :=
  (s.dies[d].rods.filter fun r => r.ctx == ctx).map fun r => r.number

/-! ## Rods loaded and unloaded -/

/-- The rods of a context in the module. -/
def State.allRods (s : State) (ctx : Nat) : List (Fin 4 × Rod) :=
  ((List.finRange 4).map fun d => (s.dies[d].rods.filter fun r => r.ctx == ctx).map fun r => (d, r)).flatten

/-- The rod that a handle names in a context (R214). -/
def State.rodOf (s : State) (ctx : Nat) (h : W64) : Option (Fin 4 × Rod) :=
  (s.allRods ctx).find? fun p => p.2.handle == h.setWidth 32

/-- The lowest rod number that no loaded rod of the context holds (R214). -/
def freshRod (used : List Nat) : Nat → Nat → Nat
  | 0, n => n
  | fuel + 1, n => if used.contains n then freshRod used fuel (n + 1) else n

/-- A new rod installed in a Frame, after every rod there (R215; rod index: DESIGN CHOICE, log 19). -/
def State.installRod (s : State) (ctx : Nat) (d : Fin 4) (img : List Byte) (enabled : Bool) : State × W32 :=
  let used := (s.allRods ctx).map fun p => p.2.number
  let serial := if (s.ctx ctx).rodSerial = 0x1FFFFF then 1 else (s.ctx ctx).rodSerial + 1
  let r : Rod :=
    ⟨ctx, freshRod used used.length 0, serial, img, s.imageStamped ctx img, enabled, imgQuota img, imgOvf img, 0, 0, 0, 0, none, []⟩
  let s := s.setDie d { s.dies[d] with rods := s.dies[d].rods ++ [r] }
  (s.setCtx ctx { s.ctx ctx with rodSerial := serial }, r.handle)

/-- CONFIG.ATT. -/
def attBit : Nat := 2 ^ 44

/-- A stream attached to its Frame where it is not: INGEST := HEAD and ATT := 1 (R215). -/
def State.attach (s : State) (ctx : Nat) (d : Fin 4) (obj : Nat) : State :=
  match s.streamBlock ctx obj with
  | none => s
  | some (pa, b) =>
    if b.att then s
    else
      let dom := s.objDomain ctx obj
      let s := s.pokeNat (pa + 16) dom 8 b.head
      let s := s.pokeNat (pa + 24) dom 8 (b.cfg + attBit)
      s.setDie d { s.dies[d] with attached := s.dies[d].attached ++ [⟨ctx, obj, none⟩] }

/-- A stream that no remaining rod reads detached: ATT := 0 (R216). Where its block cannot be written then, ATT stays 1 there, and an AUTLD
later finds the stream attached in the block and does not attach it to the Frame (DESIGN CHOICE, log 80). -/
def State.detach (s : State) (ctx : Nat) (d : Fin 4) (obj : Nat) : State :=
  if (s.allRods ctx).any fun p => (imgObjs p.2.image).contains obj then s
  else
    let s := s.setDie d { s.dies[d] with
      attached := s.dies[d].attached.filter fun a => !(a.ctx == ctx && a.obj == obj) }
    match s.streamBlock ctx obj with
    | none => s
    | some (pa, b) =>
      if b.att then s.pokeNat (pa + 24) (s.objDomain ctx obj) 8 (b.cfg - attBit) else s

/-- Every stream of an image attached. -/
def State.attachAll (s : State) (ctx : Nat) (d : Fin 4) (objs : List Nat) : State :=
  objs.foldl (fun acc o => acc.attach ctx d o) s

/-- A rod unloaded: its beads and holds freed, streams that no rod reads any more detached (R216). -/
def State.unload (s : State) (d : Fin 4) (r : Rod) : State :=
  let w := r.beads.foldl Work.drop (s.dies[d].work d r none none)
  let s := s.setDie d { w.die with rods := w.die.rods.filter fun x => !x.is r.ctx r.number }
  (imgObjs r.image).foldl (fun acc o => acc.detach r.ctx d o) s

end Sys2Proof.Machine
end

