-- ==== Sys2Proof/Machine/Automata.lean ====
section
/-! DEFINITION. The automaton instructions AUTLD (R215), AUTCTL (R216) and AUTQ (R217), and how a code object's automata are
loaded together (R218). -/

namespace Sys2Proof.Machine

/-- AUT_IMAGE at a byte offset (R201, R327). -/
def imageTrap (off : Nat) : Trap := { cause := 0x82, addr := off }

/-- A verified image installed and its streams attached (R215); none where the Frame is full. -/
def State.loadImage (s : State) (ctx : Nat) (img : List Byte) (enabled : Bool) : Option (State × W32) :=
  let d := s.imageHome ctx img
  if 512 ≤ s.dies[d].rods.length then none
  else
    let r := s.installRod ctx d img enabled
    some (r.1.attachAll ctx d (imgObjs img), r.2)

/-- A rod's state through a function, where it is loaded. -/
def State.mapRod (s : State) (d : Fin 4) (r : Rod) (f : Rod → Rod) : State :=
  s.setDie d { s.dies[d] with rods := s.dies[d].rods.map fun x => if x.is r.ctx r.number then f x else x }

/-- A rod enabled: what fell due while it was disabled waits for its next offer (R216). -/
def Rod.enable (r : Rod) (now : Nat) : Rod := if r.enabled then r else { r with enabled := true, back := some (now : Int) }

/-- What AUTQ reads (R217); the beads are those of its latest offer. -/
def Rod.query (d : Fin 4) (r : Rod) : AutQuery → Nat
  | .state => bit r.enabled + 2 * d.val
  | .beads => r.offered
  | .drops => r.drops.toNat
  | .exp => r.expired.toNat

/-- What AUTCTL makes of its rod (R216); none where it traps AUT_ARG. -/
def State.autctl (s : State) (op : AutCtlOp) (d : Fin 4) (r : Rod) (arg : Nat) : Option State :=
  match op with
  | .en => some (s.mapRod d r fun y => y.enable s.dies[d].ticks)
  | .dis => some (s.mapRod d r fun y => { y with enabled := false })
  | .unload => some (s.unload d r)
  | .quota =>
    let q := field arg 0 17
    let ovf := field arg 17 2
    if q = 0 ∨ 65536 < q ∨ ovf = 3 then none else some (s.mapRod d r fun y => { y with quota := q, ovf := ovf })

/-- AUTLD: verify an image and install its rod (R215). -/
def execAutld (b : SReg) (a : SReg) (k : KReg) (mk : Bool) (s : State) : Host.Outcome State Fault Refusal :=
  issue (.autld b a k mk) s fun x =>
    let cap := x.k k
    x.readStruct k.val cap imageBytes (fun _ off => imageTrap off) fun y img =>
      match y.st.imageFault y.tm.ctx img with
      | some off => .trap y (imageTrap off)
      | none =>
        match y.st.loadImage y.tm.ctx img ((y.s b).getLsbD 0) with
        | none => .trap y { cause := 0x83 }
        | some (t, h) => Eff.ok ({ y with st := t }.setS a (h.setWidth 64))

/-- AUTCTL: enable, disable, unload or re-quota a rod (R216). -/
def execAutctl (op : AutCtlOp) (b : SReg) (a : SReg) (mk : Bool) (s : State) : Host.Outcome State Fault Refusal :=
  issue (.autctl op b a mk) s fun x =>
    match x.st.rodOf x.tm.ctx (x.s a) with
    | none => .trap x { cause := 0x86 }
    | some (d, r) =>
      match x.st.autctl op d r (x.s b).toNat with
      | none => .trap x { cause := 0x86 }
      | some t => Eff.ok { x with st := t }

/-- AUTQ: one value of a rod (R217). -/
def execAutq (q : AutQuery) (b : SReg) (a : SReg) (mk : Bool) (s : State) : Host.Outcome State Fault Refusal :=
  issue (.autq q b a mk) s fun x =>
    match x.st.rodOf x.tm.ctx (x.s a) with
    | none => .trap x { cause := 0x86 }
    | some (d, r) => Eff.ok (x.setS b (BitVec.ofNat 64 (r.query d q)))

end Sys2Proof.Machine
end

