-- ==== Sys2Proof/Machine/Barrier.lean ====
section
/-! DEFINITION. Barriers (R329 to R331) and stage rings (R240, R241). -/

namespace Sys2Proof.Machine

/-! ## Barriers -/

/-- The barrier instance an instruction of the wave names: its current one, or one that nothing has arrived at (R329). -/
def Iss.barrier (x : Iss) (id : Fin 32) (sc : Scope) : Barrier :=
  let place := placeOf x.tm x.wv.core sc
  let group := groupOf x.tm sc
  match x.st.barriers.find? fun b => b.ctx == x.tm.ctx && b.group == group && b.id == id && b.sc == sc && b.place == place with
  | some b => b
  | none => ⟨x.tm.ctx, x.tm.die.val, group, id, sc, place, 0, 0, [], 0⟩

/-- The wave as barriers know it. -/
def Iss.who (x : Iss) : Nat × Nat × Nat := (x.tm.die.val, x.tm.serial.toNat, x.wv.number.val)

/-- One barrier instance put among the module's, in place of its earlier state. -/
def State.setBarrier (s : State) (b : Barrier) : State :=
  { s with barriers := b :: s.barriers.filter fun c =>
      !(c.ctx == b.ctx && c.group == b.group && c.id == b.id && c.sc == b.sc && c.place == b.place) }

/-- The wave arrives in the current phase; the first arrival sets the expected count (R329). -/
def Barrier.arrive (b : Barrier) (who : Nat × Nat × Nat) (count : Nat) : Barrier :=
  { b with
    expected := if b.arrivals.isEmpty && b.gone == 0 then count else b.expected
    arrivals := b.arrivals ++ [who] }

/-- The arrival recorded in the wave and at the instance, and the phase completed where its count is reached (R330). -/
def Iss.arriveAt (x : Iss) (b : Barrier) (count : Nat) : Iss :=
  let b' := x.st.barrierStep (b.arrive x.who count)
  let rec_ : Arrival := ⟨b.id, b.sc, b.phase⟩
  { x with
    st := x.st.setBarrier b'
    wv := { x.wv with arrivals := x.wv.arrivals.filter (fun a => !(a.id == b.id && a.sc == b.sc)) ++ [rec_] } }

/-- A wait at a barrier, which is a kill point (R331). -/
def Iss.barWait (x : Iss) (w : Wait) : Eff := if x.wv.cc.k then x.stop else .wait x w

/-- The phase that the split waits for has completed. -/
def Iss.barDone (x : Iss) (b : Barrier) : Bool := match x.was with | some (.bar p) => decide (p < b.phase) | _ => false

/-- BAR and BARA (R330). `stay`: BAR, which waits for the phase of its arrival. The arrival is a release (R331): it waits for the
wave's publications too. -/
def Iss.barArrive (x : Iss) (stay : Bool) (id : Fin 32) (sc : Scope) (count : Nat) : Eff :=
  let b := x.barrier id sc
  if x.barDone b && stay then Eff.ok x
  else if b.arrivals.contains x.who then x.barWait (.bar b.phase)
  else
    let z := x.flush
    if z.passesOut || !z.owed.isEmpty then z.barWait .arrive
    else
      let y := z.drain.arriveAt b count
      if !stay || (y.barrier id sc).phase != b.phase then Eff.ok y else y.barWait (.bar b.phase)

/-- BAR: arrive and wait for the phase (R330). -/
def execBar (cnt : SReg) (sc : Scope) (id : Fin 32) (mk : Bool) (s : State) : Host.Outcome State Fault Refusal :=
  issue (.bar cnt sc id mk) s fun x => x.barArrive true id sc ((x.s cnt).toNat % 2 ^ 32)

/-- BARA: arrive and go on (R330). -/
def execBara (cnt : SReg) (sc : Scope) (id : Fin 32) (mk : Bool) (s : State) : Host.Outcome State Fault Refusal :=
  issue (.bara cnt sc id mk) s fun x => x.barArrive false id sc ((x.s cnt).toNat % 2 ^ 32)

/-- BARW: wait for the phase of an uncompleted arrival (R330). -/
def execBarw (sc : Scope) (id : Fin 32) (mk : Bool) (s : State) : Host.Outcome State Fault Refusal :=
  issue (.barw sc id mk) s fun x =>
    let b := x.barrier id sc
    if b.arrivals.contains x.who && !x.barDone b then x.barWait (.bar b.phase) else Eff.ok x

/-! ## Stage rings -/

/-- The ring of the team's kernel with a slot declared (R240, R241). -/
def Iss.ring (x : Iss) (rg : Fin 8) (sl : Nat) : Option Ring :=
  match (x.st.ctx x.tm.ctx).code.find? fun c => c.obj == x.tm.code with
  | none => none
  | some c =>
    match c.rings.find? fun r => r.1 == x.tm.entry with
    | none => none
    | some r => (r.2.getD rg.val none).filter fun g => sl < g.slots

/-- The phase bit of a slot on the issuing core. -/
def Iss.phase (x : Iss) (rg : Fin 8) (sl : Fin 64) : Bool :=
  match x.tm.cores.find? fun c => c.core == x.wv.core with
  | some c => c.phases.contains (rg.val, sl.val)
  | none => false

/-- The phase bit of a slot flipped. -/
def Iss.flip (x : Iss) (rg : Fin 8) (sl : Fin 64) : Iss :=
  let who := (rg.val, sl.val)
  { x with tm := { x.tm with cores := x.tm.cores.map fun c =>
      if c.core == x.wv.core then
        { c with phases := if c.phases.contains who then c.phases.erase who else c.phases ++ [who] }
      else c } }

/-- The places of the other waves of the team that wait at an STGW to a slot on the issuing core (R241). -/
def Iss.queuedAt (x : Iss) (key : Nat) : List Nat :=
  ((x.tm.waves.filter fun w => w.core == x.wv.core && w.number != x.wv.number).map fun w =>
    w.liveSplits.filterMap fun p =>
      match p.2.waitsFor with
      | some (.stgw k n) => if k = key then some n else none
      | _ => none).flatten

/-- STGA: suspend fetch until the slot's phase is PH (R241). -/
def execStga (ph : Bool) (sl : Fin 64) (rg : Fin 8) (mk : Bool) (s : State) : Host.Outcome State Fault Refusal :=
  issue (.stga ph sl rg mk) s fun x =>
    match x.ring rg sl.val with
    | none => .trap x { cause := 0x65 }
    | some _ => if x.phase rg sl == ph then Eff.ok x else .wait x .stga

/-- STGW: after everything earlier of the wave, the slot's phase is tested against PH and flipped (R241). -/
def execStgw (ph : Bool) (sl : Fin 64) (rg : Fin 8) (mk : Bool) (s : State) : Host.Outcome State Fault Refusal :=
  issue (.stgw ph sl rg mk) s fun x =>
    let key := 64 * rg.val + sl.val
    match x.ring rg sl.val with
    | none => .trap x { cause := 0x65 }
    | some _ =>
      let others := x.queuedAt key
      let mine := match x.was with
        | some (.stgw _ n) => n
        | _ => others.foldl (fun n k => max n (k + 1)) 0
      let y := x.flush
      if y.passesOut || y.commandsOut || others.any (fun n => n < mine) || !y.owed.isEmpty then .wait y (.stgw key mine)
      else
        let z := y.drain
        if z.phase rg sl == ph then Eff.ok (z.flip rg sl) else .trap z { cause := 0x65 }

end Sys2Proof.Machine
end

