-- ==== Sys2Proof/Machine/Cap.lean ====
section
/-! DEFINITION. The capability instructions (R149, R151, R338). -/

namespace Sys2Proof.Machine

/-- CMAKE's capability, or the cause of its trap (R149). -/
def makeCap (e : Option Entry) (obj rights : Nat) : Except Nat Cap :=
  match e with
  | none => .error 0x23
  | some e =>
    if !e.grants rights then .error 0x21
    else .ok (capMake obj 0 e.size rights e.pub e.cgen)

/-- CNARROW's capability, or the cause of its trap (R149). -/
def narrowCap (c : Cap) (base len rights : Nat) : Except Nat Cap :=
  if !capValid c then .error 0x23
  else if capLen c < base + len then .error 0x20
  else
    .ok (BitVec.ofNat 128 (c.toNat % 2 ^ 24 + (capBase c + base) % 2 ^ 40 * 2 ^ 24 + len * 2 ^ 64 +
      (capRights c &&& rights) * 2 ^ 104 + c.toNat / 2 ^ 109 * 2 ^ 109))

/-- The field of a capability that CINFO selects (R149). -/
def capField (sel : CapField) (c : Cap) : Nat :=
  match sel with
  | .id => capObj c
  | .base => capBase c
  | .len => capLen c
  | .rights => capRights c
  | .flags => c.toNat / 2 ^ 109 % 8
  | .gen => capGen c

/-- CMAKE of an identity with requested rights (R149); an entry that cannot be read traps as a bus error or poison at the port does
(R338). -/
def execCmake (b : SReg) (a : SReg) (kd : KReg) (mk : Bool) (s : State) : Host.Outcome State Fault Refusal :=
  issue (.cmake b a kd mk) s fun x =>
    let obj := (x.s a).toNat % 2 ^ 24
    match x.st.entryFault x.tm.ctx obj with
    | some c => .trap x (onceTrap c 0 0)
    | none =>
      match makeCap (x.st.entry x.tm.ctx obj) obj ((x.s b).toNat % 32) with
      | .error c => .trap x (onceTrap c 0 0)
      | .ok c => Eff.ok (x.setK kd c)

/-- CNARROW to a part of the range and of the rights (R149). -/
def execCnarrow (b : SReg) (a : SReg) (ks : KReg) (kd : KReg) (mk : Bool)
    (s : State) : Host.Outcome State Fault Refusal :=
  issue (.cnarrow b a ks kd mk) s fun x =>
    let base := (x.s a).toNat % 2 ^ 40
    match narrowCap (x.k ks) base ((x.s b).toNat % 2 ^ 40) (field (x.s b).toNat 40 5) with
    | .error c => .trap x (onceTrap c ks.val base)
    | .ok c => Eff.ok (x.setK kd c)

/-- CLOAD of a 16-byte image, validated (R149, R151). -/
def execCload (a : SReg) (ks : KReg) (kd : KReg) (mk : Bool) (s : State) : Host.Outcome State Fault Refusal :=
  issue (.cload a ks kd mk) s fun x =>
    let cap := x.k ks
    let off := (x.s a).toNat
    x.reading cap fun x =>
      let r := x.load x.st cap 0 off 16
      x.once r.1 ks.val off 0 cap r.2 fun y bs =>
        match y.st.validateImage y.tm.ctx (capOfBytes bs) with
        | some c => .trap y (onceTrap c ks.val off)
        | none => Eff.ok ((y.watch .read cap 16 [off]).setK kd (capOfBytes bs))

/-- CSTORE of the image exactly as held (R149). -/
def execCstore (a : SReg) (ks : KReg) (kd : KReg) (mk : Bool) (s : State) : Host.Outcome State Fault Refusal :=
  issue (.cstore a ks kd mk) s fun x =>
    let cap := x.k ks
    let off := (x.s a).toNat
    let r := x.store x.st cap 0 off 16 (capBytes (x.k kd)) none
    x.once r.1 ks.val off (if capTent cap then 5 else 1) cap r.2 fun y _ => Eff.ok (y.watch .write cap 16 [off])

/-- CINFO of a field, whatever the capability holds (R149). -/
def execCinfo (sel : CapField) (a : SReg) (ks : KReg) (mk : Bool) (s : State) : Host.Outcome State Fault Refusal :=
  issue (.cinfo sel a ks mk) s fun x => Eff.ok (x.setS a (BitVec.ofNat 64 (capField sel (x.k ks))))

end Sys2Proof.Machine
end

