-- ==== Sys2Proof/Machine/Fetch.lean ====
section
/-! DEFINITION. Fetch and decoding at a split's PC (R76, R77, R94), REP's target and its stepped repeats (R89 to R91). -/

namespace Sys2Proof.Machine

/-- The cause of a decoding failure (R94). -/
def decodeCause : DecodeErr → Nat
  | .illegalOp => 0x00
  | .illegalField => 0x01
  | .illegalParcel => 0x02

/-- An encoding of the service subset (Table 14.2). -/
def serviceWord (w : Nat) : Bool :=
  let major := field w 2 6
  let sub := field w 8 4
  w % 2 == 1 && ((0x1C ≤ major && major ≤ 0x1F) || major == 0x2A || major == 0x2C ||
    (major == 0x3C && (sub ≤ 4 || sub == 6)))

/-! ## REP (R89 to R91) -/

/-- A legal target of REP: a 32-bit instruction of a listed major (R89). -/
def repTarget (w : Nat) : Bool :=
  let major := field w 2 6
  w % 2 == 1 && ((1 ≤ major && major ≤ 0x1B) || major == 0x29 || major == 0x2B || major == 0x2D || major == 0x35)

/-- The fields STEP names, D, A and B, as lowest bit and width; none for a dash (Table 4.12). -/
def stepFields (major : Nat) : Option (Nat × Nat) × Option (Nat × Nat) × Option (Nat × Nat) :=
  match major with
  | 0x09 | 0x15 => (none, some (14, 6), some (20, 6))
  | 0x0C | 0x0D | 0x0F | 0x18 | 0x19 => (some (8, 6), some (14, 6), none)
  | 0x29 | 0x2B => (some (8, 6), some (18, 6), none)
  | 0x2D => (some (8, 6), some (14, 6), none)
  | 0x35 => (some (8, 4), some (15, 6), none)
  | _ => (some (8, 6), some (14, 6), some (20, 6))

/-- A field advanced by `n` where its step bit is set; none for a dash or a value past the field (R90, R91). -/
def stepField (on : Bool) (f : Option (Nat × Nat)) (n w : Nat) : Option Nat :=
  if !on then some w
  else
    match f with
    | none => none
    | some (lo, k) => if field w lo k + n < 2 ^ k then some (w + n * 2 ^ lo) else none

/-- The target's word in repeat `i` (R90). -/
def steppedWord (rep w i : Nat) : Option Nat :=
  let n := i * 2 ^ field rep 17 2
  let fs := stepFields (field w 2 6)
  (stepField (fieldBit rep 14) fs.1 n w).bind fun w =>
    (stepField (fieldBit rep 15) fs.2.1 n w).bind fun w => stepField (fieldBit rep 16) fs.2.2 n w

/-- Repeat `i` of a target; none where its fields break a limit of the encoding. -/
def repeatOf (rep w i : Nat) : Option Instr :=
  match (steppedWord rep w i).map decodeWord with
  | some (.ok t) => some t
  | _ => none

/-- What the split's next step is. -/
inductive Fetched where
  | instr (i : Instr)
  | outside (addr : Nat)
  | bad (cause : Nat)
deriving DecidableEq, Repr

/-- The word is a REP. -/
def isRep (w : Nat) : Bool := w % 2 == 1 && field w 2 6 == 0x28

/-- A word decoded (R94); in service mode an encoding outside the subset is ILLEGAL_OP. -/
def fetchedOf (svc : Bool) (w : Nat) : Fetched :=
  if svc && w % 2 ^ 16 ≠ 0 && !serviceWord w then .bad 0x00
  else
    match decodeWord w with
    | .ok i => .instr i
    | .error e => .bad (decodeCause e)

/-- An interrupted REP goes on at its next repeat (R93), after the checks at the REP in their order: its own reserved bits, its target
within the text, its target's class (R89). -/
def Iss.fetchRepeat (x : Iss) (text : List Byte) (rep : Nat) : Fetched :=
  match decodeWord rep with
  | .error e => .bad (decodeCause e)
  | .ok i =>
    if field rep 8 6 < x.sp.repNext.toNat then .instr i
    else
      match wordAt text (x.sp.pc.toNat + 4) with
      | .outside a => .outside a
      | .bits w =>
        if !repTarget w then .bad 0x08
        else
          match repeatOf rep w x.sp.repNext.toNat with
          | some t => .instr t
          | none => .bad 0x01

/-- What the split's PC holds. With ACTIVE = 1 a REP resumes at NEXT wherever TEPC was moved to one (R93); only repeat NEXT is checked
then (DESIGN CHOICE, log 62). -/
def Iss.fetch (x : Iss) : Fetched :=
  let text := x.text
  match wordAt text x.pc.toNat with
  | .outside a => .outside a
  | .bits w =>
    if !x.inService && x.sp.repActive && isRep w then x.fetchRepeat text w else fetchedOf x.inService w

/-- REPC made to fit the instruction at PC before it issues: COUNT is that of the REP there, and the record of a REP does not
outlive an instruction that is none (R92, R93). -/
def Iss.atRep (x : Iss) : Iss :=
  if x.inService || !x.sp.repActive then x
  else
    match wordAt x.text x.pc.toNat with
    | .bits w =>
      if isRep w then { x with sp := { x.sp with repCount := BitVec.ofNat 6 (field w 8 6) } }
      else { x with sp := x.sp.noRep }
    | .outside _ => { x with sp := x.sp.noRep }

/-- The trap of a fetch outside the text (R77, Table 14.6). -/
def fetchTrap (addr : Nat) : Trap := { cause := 0x20, info := 2 ^ 13 + 2 ^ 14, addr := addr }

/-- The word of a REP. -/
def repWord (stride : Fin 4) (stepB stepA stepD : Bool) (count : Fin 64) : Nat :=
  1 + 4 * 0x28 + count.val * 2 ^ 8 + bit stepD * 2 ^ 14 + bit stepA * 2 ^ 15 + bit stepB * 2 ^ 16 + stride.val * 2 ^ 17

/-- The checks at a REP (R89, R91, R35): its target lies in the text, is a legal target, every repeat lies within the limits
of its encoding, and the wave's role allows it. -/
def Iss.checkRep (x : Iss) (rep : Nat) : Option Trap :=
  match wordAt x.text (x.pc.toNat + 4) with
  | .outside a => some (fetchTrap a)
  | .bits w =>
    if !repTarget w then some { cause := 0x08 }
    else
      let all := (List.range (field rep 8 6 + 1)).map fun i => repeatOf rep w i
      if all.any fun t => match t with
          | none => true
          | some t => !(infoOf t).inPool x.tm.vregs then some { cause := 0x01 }
      else if all.any fun t => match t with
          | none => false
          | some t => !(infoOf t).roleOk x then some { cause := 0x04 }
      else none

/-! ## What a cursor's split issues -/

/-- The instruction a cursor's split issues, with REPC made to fit; none where no live split is there. -/
def State.fetchAt (s : State) (c : Cursor) : Option (State × Instr) :=
  match checkout { s with cur := c } with
  | none => none
  | some x =>
    let y := x.atRep
    match y.fetch with
    | .instr i => some (y.commit, i)
    | .outside _ => some (y.commit, .fetchOutsideText)
    | .bad _ => some (y.commit, .unassignedEncoding)

end Sys2Proof.Machine
end

