-- ==== Sys2Proof/Machine/MatVal.lean ====
section
/-! DEFINITION. The arithmetic of the matrix engine: elements and lattice indices (R96, R109), block scales (R110), exact
chunk sums and their rounding (R113), conversions between tile words and elements (R232, R320), sparse metadata (R231),
and digits (R249). -/

namespace Sys2Proof.Machine

/-! ## Formats (Table 5.1) -/

/-- The floating-point format of a code; codes that are not floating-point do not come here. -/
def fmtFloat (f : Nat) : FpFormat :=
  match f with
  | 0 => fp64
  | 1 => fp32
  | 2 => bf16
  | 3 => fp16
  | 4 => e4m3
  | 5 => e5m2
  | _ => e2m1

/-- Bits of an element; 2 for an element of CB2. -/
def fmtBits (f : Nat) : Nat :=
  match f with
  | 0 => 64
  | 1 => 32
  | 2 | 3 => 16
  | 4 | 5 | 7 | 8 => 8
  | 10 => 2
  | _ => 4

/-- The width class of a code (R112); 0 for a code of none. -/
def fmtClass (f : Nat) : Nat :=
  match f with
  | 2 | 3 => 16
  | 4 | 5 | 7 | 8 => 8
  | 6 | 9 | 10 => 4
  | _ => 0

/-- KD of a width class (R222). -/
def classDepth (c : Nat) : Nat := if c = 16 then 128 else if c = 8 then 256 else 512

/-- An element of codes 0 to 9 as a value. -/
def fmtVal (f bits : Nat) : FpVal :=
  match f with
  | 7 => FpVal.ofInt (asInt 8 bits) 0 false
  | 8 => FpVal.ofInt bits 0 false
  | 9 => FpVal.ofInt (asInt 4 bits) 0 false
  | _ => (fmtFloat f).decode bits

/-- A weight of a CB2 index in quarters (R109). -/
def cb2Quarters (idx i : Nat) : Int :=
  let mag := fun (n : Nat) => (2 + 4 * bit (idx.testBit (8 + n)) : Int)
  let signed := fun (n : Nat) => if idx.testBit (1 + n) then -mag n else mag n
  let sum := (List.range 7).foldl (fun acc n => acc + signed n) 0
  let w := if i < 7 then signed i else if (sum + mag 7) % 8 = 0 then mag 7 else -mag 7
  w + bit (idx.testBit 0)

/-- Element k of a row or column held as one number (R224, R225). -/
def rowElem (f raw k : Nat) : FpVal :=
  if f = 10 then FpVal.ofInt (cb2Quarters (field raw (16 * (k / 8)) 16) (k % 8)) (-2) false
  else fmtVal f (field raw (k * fmtBits f) (fmtBits f))

/-- Block b's scale in packed words held as one number (R110): kind 1 E8M0, kind 2 SE10; 1 where there are none. -/
def blockScale (kind raw b : Nat) : FpVal :=
  match kind with
  | 0 => .fin false 1 0
  | 1 =>
    let e := field raw (8 * b) 8
    if e = 255 then .nan false else .fin false 1 ((e : Int) - 127)
  | _ =>
    let word := field raw (32 * (b / 3)) 32
    let x := field word (10 * (b % 3)) 10
    if 2 ^ 30 ≤ word ∨ x / 4 = 255 then .nan false else .fin false (4 + x % 4) ((x / 4 : Nat) - 129)

/-- Bytes that `n` scales of a kind take. -/
def scaleBytes (kind n : Nat) : Nat := if kind = 0 then 0 else if kind = 1 then n else (n + 2) / 3 * 4

/-! ## Chunk sums (R113) -/

/-- Both infinities stand among the products. -/
def bothInf (ps : List (FpVal × Exc)) : Bool :=
  (ps.any fun p => p.1 == .inf false) && ps.any fun p => p.1 == .inf true

/-- The exact sum of finite products at the least of their exponents. -/
def exactSum (ps : List (FpVal × Exc)) : Int × Int :=
  let e := ps.foldl (fun (acc : Int) p => match p.1 with | .fin _ m e => if m = 0 then acc else min acc e | _ => acc) 0
  (ps.foldl (fun acc p =>
    match p.1 with
    | .fin s m f => if m = 0 then acc else acc + signedMant s (m * 2 ^ (f - e).toNat)
    | _ => acc) 0, e)

/-- The exact sum of a chunk's products with its special values and what they raise (R113, R103). Infinities of both signs raise
invalid also beside a NaN product, of which R113 says only that S is NaN: DESIGN CHOICE, log 64. -/
def chunkSum (ps : List (FpVal × Exc)) : FpVal × Exc :=
  let x := ps.foldl (fun (acc : Exc) p => acc.or p.2) Exc.none
  if bothInf ps then (.nan false, x.or Exc.invalid)
  else if ps.any fun p => p.1.isNan then (.nan false, x)
  else
    match ps.find? fun p => p.1 == .inf false || p.1 == .inf true with
    | some p => (p.1, x)
    | none =>
      let r := exactSum ps
      (FpVal.ofInt r.1 r.2 (!ps.isEmpty && ps.all fun p => p.1.sign), x)

/-- What a pass raises: the floating-point exceptions and INT32 saturation. -/
structure MatExc where
  fp : Exc
  sat : Bool
deriving DecidableEq, Repr

/-- Nothing raised. -/
def MatExc.none : MatExc := ⟨Exc.none, false⟩

/-- What either raises. -/
def MatExc.or (a b : MatExc) : MatExc := ⟨a.fp.or b.fp, a.sat || b.sat⟩

/-- The integer a chunk sum is. -/
def FpVal.toInt : FpVal → Int
  | .fin s m e => signedMant s (m * 2 ^ e.toNat)
  | .inf _ | .nan _ => 0

/-- An accumulator word after a sum is added: one rounding for FP32 and FP64, saturation for INT32 (R100, R113). -/
def accumulate (cf acc : Nat) (sum : FpVal × Exc) : Nat × MatExc :=
  if cf = 2 then
    let v := asInt 32 acc + sum.1.toInt
    let c := clampInt (-(2 ^ 31)) (2 ^ 31 - 1) v
    (wrap 32 c, ⟨Exc.none, decide (c ≠ v)⟩)
  else
    let f := if cf = 1 then fp64 else fp32
    let r := FpVal.add .rne (f.decode acc) sum.1
    let w := f.deliver .rne r.1
    (w.1, ⟨(sum.2.or r.2).or w.2, false⟩)

/-! ## Words and elements (R232, R320) -/

/-- The VCVT format of codes 2 to 6. -/
def cvtOf (f : Nat) : CvtFmt :=
  match f with
  | 2 => .bf16
  | 3 => .f16
  | 4 => .e4m3
  | 5 => .e5m2
  | _ => .e2m1

/-- A tile word narrowed to an element (R320). -/
def narrow (f word : Nat) : Nat × MatExc :=
  if f = 1 then (word, MatExc.none)
  else if f ≤ 6 then
    let r := cvtElem (cvtOf f) .f32 .rneSat word
    (r.1, ⟨r.2, false⟩)
  else
    let lo : Int := if f = 7 then -128 else if f = 8 then 0 else -8
    let hi : Int := if f = 7 then 127 else if f = 8 then 255 else 7
    let c := clampInt lo hi (asInt 32 word)
    (wrap (fmtBits f) c, ⟨Exc.none, decide (c ≠ asInt 32 word)⟩)

/-- An element widened to a tile word (R320). R98 has a signalling NaN raise invalid where it is computed on and not where it is moved, and
R320 names no flag: the widening raises none (DESIGN CHOICE, log 76). -/
def widen (f e : Nat) : Nat :=
  if f = 1 ∨ f = 8 then e
  else if f = 7 ∨ f = 9 then wrap 32 (asInt (fmtBits f) e)
  else (fp32.deliver .rne ((fmtFloat f).decode e)).1

/-! ## Sparse patterns (Table 11.2) -/

/-- N, G and b of a pattern. -/
def sparseShape (sp : Nat) : Nat × Nat × Nat :=
  match sp with
  | 1 => (2, 4, 2)
  | 2 => (4, 8, 3)
  | 3 => (6, 24, 5)
  | 4 => (8, 24, 5)
  | _ => (12, 24, 5)

/-- The dense depth Kd of a sparse pass of depth KD. -/
def sparseDepth (sp kd : Nat) : Nat := kd * (sparseShape sp).2.1 / (sparseShape sp).1

/-- Groups of a column: the dense start, the dense size and the kept count of each (R231). -/
def sparseGroups (sp kd : Nat) : List (Nat × Nat × Nat) :=
  let N := (sparseShape sp).1
  let G := (sparseShape sp).2.1
  let dense := sparseDepth sp kd
  ((List.range (dense / G)).map fun g => (g * G, G, N)) ++
    if dense % G = 0 then [] else [(dense / G * G, dense % G, dense % G * N / G)]

/-- idx(j, e) of a metadata image held as one number. -/
def metaIdx (sp kd image j e : Nat) : Nat :=
  let b := (sparseShape sp).2.2
  field image (b * (kd * j + e)) b

/-- The dense position of a kept element. -/
def metaPos (sp kd image j e : Nat) : Nat :=
  (sparseShape sp).2.1 * (e / (sparseShape sp).1) + metaIdx sp kd image j e

/-- The indices of a group ascend strictly below its dense size. -/
def metaGroupOk (sp kd image j g size kept : Nat) : Bool :=
  let e := fun (r : Nat) => metaIdx sp kd image j ((sparseShape sp).1 * g + r)
  (List.range kept).all fun r => decide (e r < size) && (r == 0 || decide (e (r - 1) < e r))

/-- The first column and group of a metadata image that are not valid (R231), of `n` columns. -/
def metaFault (sp kd image n : Nat) : Option (Nat × Nat) :=
  (((List.range n).map fun j => (sparseGroups sp kd).zipIdx.filterMap fun g =>
    if metaGroupOk sp kd image j g.2 g.1.2.1 g.1.2.2 then none else some (j, g.2)).flatten).head?

/-! ## Digits (R248, R249) -/

/-- floor(log2 |v|) of a finite non-zero value. -/
def valLog (v : FpVal) : Option Int :=
  match v with
  | .fin _ m e => if m = 0 then none else some (e + (Nat.log2 m : Nat))
  | .inf _ | .nan _ => none

/-- The exponent of a row or column: none is EMPTY (R248). -/
def maxLog (vs : List FpVal) : Option Int :=
  vs.foldl (fun acc v =>
    match acc, valLog v with
    | some a, some b => some (max a b)
    | none, r => r
    | r, none => r) none

/-- Digits d to s of a remainder r in units of 2^q, each clamped to 127 (R249, R257). -/
def digitsFrom (q : Int) (neg : Bool) : Nat → Nat → Nat → List Int
  | 0, _, _ => []
  | n + 1, d, r =>
    let sh := (-(q + 7 * d)).toNat
    let t := min 127 (r / 2 ^ sh)
    signedMant neg t :: digitsFrom q neg n (d + 1) (r - t * 2 ^ sh)

/-- The digits of a value against an exponent (R249). -/
def digits (v : FpVal) (x : Option Int) (s : Nat) : List Int :=
  match v, x with
  | .fin neg m e, some X =>
    let p := e - X - 1
    let q := min p (-(7 * s : Nat))
    digitsFrom q neg s 1 (m * 2 ^ (p - q).toNat)
  | _, _ => List.replicate s 0

/-- The steps of an MMAX in order, as t, p and K-chunk (R250). -/
def mmaxSteps (s : Nat) : List (Nat × Nat × Nat) :=
  ((List.range s).map fun u =>
    let t := u + 2
    let lo := max 1 (t - s)
    ((List.range (min s (t - 1) + 1 - lo)).map fun i =>
      (List.range 4).map fun c => (t, lo + i, c)).flatten).flatten

end Sys2Proof.Machine
end

