-- ==== Sys2Proof/Machine/Matrix.lean ====
section
/-! DEFINITION. The matrix engine: format words (R111, R112), pass descriptors and checks (R224 to R228, R231, R232, R428),
the sequencer's queue (R230), passes (R229, R233, R234), and ACLR, ALD and AST (R236, R319 to R321). -/

namespace Sys2Proof.Machine

/-! ## Format words (Table 5.7) -/

/-- AF. -/
def fwA (w : Nat) : Nat := field w 0 5
/-- BF. -/
def fwB (w : Nat) : Nat := field w 5 5
/-- CF: 0 FP32, 1 FP64, 2 INT32. -/
def fwC (w : Nat) : Nat := field w 10 2
/-- SCA. -/
def fwSca (w : Nat) : Nat := field w 12 2
/-- SCB. -/
def fwScb (w : Nat) : Nat := field w 14 2
/-- Elements of a scale block. -/
def fwBlock (w : Nat) : Nat := if fieldBit w 16 then 16 else 32
/-- SP. -/
def fwSparse (w : Nat) : Nat := field w 17 3
/-- SL. -/
def fwSlices (w : Nat) : Nat := field w 20 4
/-- TA. -/
def fwTrans (w : Nat) : Bool := fieldBit w 24
/-- NOCHK. -/
def fwNoCheck (w : Nat) : Bool := fieldBit w 25

/-- A code of an integer element. -/
def fmtIsInt (f : Nat) : Bool := f == 7 || f == 8 || f == 9

/-- A scale code is allowed for an element code (Table 5.8). -/
def scaleAllowed (f sc : Nat) : Bool := if f = 2 ∨ f = 3 then sc == 0 else sc != 3

/-- The word is valid for MMA, MMAC (`x` 0, 2) or MMAS (1). -/
def passWordValid (x w : Nat) : Bool :=
  let a := fwA w
  let b := fwB w
  let none_ := fwSca w == 0 && fwScb w == 0
  fmtClass a != 0 && fmtClass a == fmtClass b && fwSlices w == 0 && scaleAllowed a (fwSca w) && scaleAllowed b (fwScb w) &&
    (fwC w == if fmtIsInt a && fmtIsInt b && none_ then 2 else 0) && !(none_ && fieldBit w 16) &&
    (if x = 1 then b != 10 && decide (1 ≤ fwSparse w) && decide (fwSparse w ≤ 5) else fwSparse w == 0)

/-- The word is valid for MMAX (R245). -/
def digitWordValid (w : Nat) : Bool :=
  decide (fwA w ≤ 1) && decide (fwB w ≤ 1) && decide (fwC w ≤ 1) && field w 12 8 == 0 && decide (1 ≤ fwSlices w) &&
    decide (fwSlices w ≤ if fwC w = 0 then 5 else 10)

/-- A format word is valid for a matrix instruction (R112). -/
def wordValid (x w : Nat) : Bool := decide (w < 2 ^ 26) && if x = 3 then digitWordValid w else passWordValid x w

/-- KD. -/
def depthK (x w : Nat) : Nat := if x = 3 then 256 else classDepth (fmtClass (fwA w))

/-- The dense depth Kd. -/
def depthDense (x w : Nat) : Nat := if x = 1 then sparseDepth (fwSparse w) (depthK x w) else depthK x w

/-! ## Descriptors (Table 11.1) -/

/-- M. -/
def dM (d : Nat) : Nat := field d 8 6 + 1
/-- ROW0. -/
def dRow (d : Nat) : Nat := field d 16 6
/-- SLOT. -/
def dSlot (d : Nat) : Nat := field d 24 6
/-- BBLK. -/
def dBlk (d : Nat) : Nat := field d 0 7
/-- MSRC. -/
def dMsrc (d : Nat) : Bool := fieldBit d 32
/-- MOFF. -/
def dMoff (d : Nat) : Nat := field d 40 16
/-- ASRC. -/
def dAsrc (d : Nat) : Nat := field d 56 4

/-- Some reserved bit is set. -/
def dReserved (d : Nat) : Bool :=
  fieldBit d 7 || field d 14 2 != 0 || field d 22 2 != 0 || field d 30 2 != 0 || field d 33 7 != 0 || field d 60 4 != 0

/-- NB of an MMAX (R246). -/
def blocksB (w : Nat) : Nat := if fwB w = 0 then 8 else 4

/-- B blocks read: the first and how many (R225, R246). -/
def blockSpan (x w d : Nat) : Nat × Nat := (dBlk d, if x = 3 then blocksB w else if fwScb w = 0 then 1 else 2)

/-- Bytes of a row of A. -/
def aBytes (x w : Nat) : Nat := (depthDense x w * fmtBits (fwA w) + 7) / 8

/-- AP, the row pitch (R224). -/
def aPitch (x w : Nat) : Nat := (aBytes x w + 255) / 256 * 256

/-- Bytes that M rows of operand A and their scales take in a slot (R224; log 26). -/
def aExtent (x w m : Nat) : Nat :=
  let kd := depthDense x w
  let body :=
    if fwTrans w then ((64 * (kd - 1) + m) * fmtBits (fwA w) + 7) / 8 else (m - 1) * aPitch x w + aBytes x w
  if fwSca w = 0 then body
  else max body (64 * aPitch x w + 256 * (m - 1) + scaleBytes (fwSca w) (kd / fwBlock w))

/-- Registers of a metadata image (R231). -/
def metaRegs (w : Nat) (paired : Bool) : Nat :=
  depthK 1 w * (sparseShape (fwSparse w)).2.2 / 16 * if paired then 2 else 1

/-- Bytes of a metadata image. -/
def metaBytes (w : Nat) (paired : Bool) : Nat :=
  8 * depthK 1 w * (sparseShape (fwSparse w)).2.2 * if paired then 2 else 1

/-- Source tiles of an MMAC. -/
def sourceTiles (w d : Nat) : List Nat := (List.range (depthDense 2 w / 64)).map fun i => dAsrc d + i

/-- Tiles a matrix instruction writes. -/
def tilesWritten (w t : Nat) : List Nat := if fwC w = 1 then [t, t + 1] else [t]

/-! ## Checks (R228, R377) -/

/-- The word of a 32-bit instruction. -/
def insnWord (i : Instr) : W32 :=
  match encode i with
  | some (_, w) => BitVec.ofNat 32 w
  | none => 0

/-- What a matrix instruction is, by its X code, with its fields. -/
structure MatOp where
  insn : W32
  x : Nat
  ac : Bool
  p : Bool
  fw : VReg
  rg : Fin 8
  t : AReg
deriving DecidableEq, Repr

/-- Lanes whose format word differs from that of the lowest active lane (R111). -/
def Iss.dissent (x : Iss) (fw : VReg) (w : W32) : Mask := maskOf fun L => x.mask.getLsbD L.val && x.v fw L != w

/-- The format word of the lowest active lane. -/
def Iss.formatWord (x : Iss) (fw : VReg) : W32 :=
  match lanesOf x.mask with
  | [] => 0
  | L :: _ => x.v fw L

/-- Registers that the agreed word and the descriptor add (R428): read, then written. -/
def MatOp.added (o : MatOp) (w d : Nat) : List Reg × List Reg :=
  let second := if fwC w = 1 then [Reg.a (o.t.val + 1)] else []
  let image := if o.x = 1 ∧ dMsrc d = false then (List.range (metaRegs w o.p)).map fun i => Reg.v (o.fw.val + 1 + i) else []
  let tiles := if o.x = 2 then (sourceTiles w d).map Reg.a else []
  ((if o.ac then second else []) ++ image ++ tiles, second)

/-- The slot of operand A: its scratchpad offset and its bytes; none where it is not declared (R228). -/
def Iss.slotOf (x : Iss) (rg : Fin 8) (sl : Nat) : Option (Nat × Nat) :=
  (x.ring rg sl).map fun r => (r.offset + sl * r.bytes, r.bytes)

/-- A case of MX_OPERAND (R228 item 3, R231, R232, R247). `slot`: the bytes of operand A's slot. -/
def Iss.operandBad (x : Iss) (o : MatOp) (w d slot : Nat) : Bool :=
  dReserved d || (o.x != 2 && dAsrc d != 0) || (o.x != 1 && (dMsrc d || dMoff d != 0)) ||
    (o.x == 1 && !dMsrc d && dMoff d != 0) || decide (64 < dRow d + dM d) ||
    (o.x != 3 && dBlk d == 127 && fwScb w != 0) || (o.x == 3 && decide (128 < dBlk d + blocksB w)) ||
    (o.x != 2 && decide (slot < aExtent o.x w (dM d))) || (fwTrans w && fwA w == 10) ||
    (fwC w == 1 && o.t.val % 2 == 1) || (o.p && (x.tm.follower.isNone || x.wv.core != x.tm.leader)) ||
    (o.x == 1 && !dMsrc d && decide (x.tm.vregs ≤ o.fw.val + metaRegs w o.p)) ||
    (o.x == 1 && dMsrc d && decide (x.tm.scru * 16384 < 256 * dMoff d + metaBytes w o.p)) ||
    (o.x == 2 && (fwA w == 10 || fwTrans w || fwSca w != 0 || o.rg != 0 || dSlot d != 0 ||
      decide (16 < dAsrc d + depthDense 2 w / 64) ||
      (tilesWritten w o.t.val).any fun t => (sourceTiles w d).contains t))

/-- The poison of a tile on a core. -/
def Team.poisonOf (t : Team) (core tile : Nat) : Option Poison := t.poison.find? fun p => p.core == core && p.tile == tile

/-- The metadata image of an MMAS as one number, read at issue (R231). -/
def Iss.metaImage (x : Iss) (o : MatOp) (w d : Nat) : Nat :=
  if dMsrc d then x.scratch.readNat (256 * dMoff d) (metaBytes w o.p)
  else
    leNat ((List.range (metaRegs w o.p)).map fun i =>
      ((List.finRange 32).map fun L => leBytes 4 (x.v (vNext o.fw (1 + i)) L).toNat).flatten).flatten

/-! ## The queue of a sequencer (R230, R234, R253) -/

/-- The sequencer of the core that a wave is on takes no further instruction: four wait behind the one that runs, or an MMAX is held
(R230, R253). -/
def State.sequencerBusy (s : State) (t : Team) (w : Wave) : Bool :=
  let own := s.core t.die w.core
  let held := own.queue.any fun q => q.op == 3
  let lead := t.follower == some w.core &&
    (s.core t.die t.leader).queue.any fun q => q.op == 3 && q.paired && q.team == t.serial
  decide (5 ≤ own.queue.length) || held || lead

/-- The same for the issuing wave. -/
def Iss.sequencerBusy (x : Iss) : Bool := x.st.sequencerBusy x.tm x.wv

/-- The queue of the issuing core's sequencer changed. -/
def Iss.mapQueue (x : Iss) (f : List SeqItem → List SeqItem) : Iss :=
  let c := x.st.core x.tm.die x.wv.core
  { x with st := x.st.setCore { c with queue := f c.queue } }

/-- An instruction put into the queue of the issuing core's sequencer. -/
def Iss.enqueue (x : Iss) (q : SeqItem) : Iss := x.mapQueue fun l => l ++ [q]

/-- A queued instruction of the issuing wave, but for what its kind adds. -/
def Iss.seqItem (x : Iss) (insn : W32) (op tile : Nat) : SeqItem :=
  { team := x.tm.serial, wave := x.wv.number.val, pc := x.pc, insn := insn, op := op, accumulate := false, paired := false
    tile := tile, base := 0, rg := 0, fmt := 0, vreg := 0, mask := x.mask, word := 0, desc := 0, image := 0, age := x.st.free
    held := false, fixed := false, eexp := [], fexp := [], step := 0, z := [] }

/-- The cores an instruction of the sequencer runs on: its own, and for a paired pass the follower. -/
def SeqItem.coresOf (q : SeqItem) (t : Team) (core : Nat) : List Nat :=
  match q.paired, t.follower with
  | true, some f => [core, f]
  | _, _ => [core]

/-- A checksum mismatch is seen at all: NOCHK = 0. -/
def SeqItem.checked (q : SeqItem) : Bool := !fwNoCheck q.word.toNat

/-- The tiles whose reading traps ARRAY_CHECK where they are poisoned, each with its core: those of a pass with AC = 1, the
sources of an MMAC, and those of an AST (R234). -/
def SeqItem.reads (q : SeqItem) (t : Team) (core : Nat) : List (Nat × Nat) :=
  if q.op = 6 then (if q.fmt = 0 then [q.tile, q.tile + 1] else [q.tile]).map fun n => (core, n)
  else if 3 < q.op then []
  else
    let acc := if q.accumulate then
        (q.coresOf t core).flatMap fun c => (tilesWritten q.word.toNat q.tile).map fun n => (c, n)
      else []
    acc ++ if q.op = 2 then (sourceTiles q.word.toNat q.desc.toNat).map fun n => (core, n) else []

/-- The instruction may poison a tile or take its poison away (R234). -/
def SeqItem.turns (q : SeqItem) (tile : Nat) : Bool :=
  (decide (q.op ≤ 3) && q.checked && (tilesWritten q.word.toNat q.tile).contains tile) || (q.op == 4 && q.tile == tile)

/-- An instruction of the team that is queued before `q` on its cores still decides whether a tile `q` reads is poisoned. -/
def Iss.undecided (x : Iss) (q : SeqItem) : Bool :=
  (q.reads x.tm x.wv.core).any fun r =>
    (x.tm.leader :: x.tm.follower.toList).any fun n =>
      (x.st.core x.tm.die n).queue.any fun p =>
        p.team == x.tm.serial && decide (p.age < q.age) && (p.coresOf x.tm n).contains r.1 && p.turns r.2

/-- The poison of the first poisoned tile that an instruction reads (R234). -/
def Iss.poisoned (x : Iss) (q : SeqItem) : Option Poison :=
  (q.reads x.tm x.wv.core).findSome? fun r => x.tm.poisonOf r.1 r.2

/-- The last checks of an instruction for the sequencer: ARRAY_CHECK (R234), then the metadata of an MMAS (R231). -/
def Iss.lastCheck (x : Iss) (q : SeqItem) : Option Trap :=
  match x.poisoned q with
  | some p => some { cause := 0x61, addr := p.pc.toNat }
  | none =>
    if q.op = 1 then
      (metaFault (fwSparse q.word.toNat) (depthK 1 q.word.toNat) q.image (if q.paired then 128 else 64)).map fun f =>
        { cause := 0x62, info := f.1, addr := f.2 }
    else none

/-- Registers beside those of `infoOf` that an instruction of the sequencer writes: the second tile of a pair (R428). -/
def SeqItem.second (q : SeqItem) : List Reg :=
  if decide (q.op ≤ 3) && fwC q.word.toNat == 1 then [Reg.a (q.tile + 1)] else []

/-- An instruction enters the queue. Where an earlier one still decides whether a tile that it reads is poisoned, it keeps its place
there and its split waits, so that ARRAY_CHECK is precise (R234). -/
def Iss.intoQueue (x : Iss) (q : SeqItem) : Eff :=
  if x.undecided q then .wait (x.enqueue { q with held := true }) (.tile q.age)
  else
    match x.lastCheck q with
    | some e => .trap x e
    | none => .done (x.enqueue q) q.second [] none

/-- The item that the issuing split has in the queue and whose last checks it waits for. -/
def Iss.heldItem (x : Iss) : Option SeqItem :=
  match x.was with
  | some (.tile age) =>
    (x.st.core x.tm.die x.wv.core).queue.find? fun q => q.held && q.age == age && q.team == x.tm.serial
  | _ => none

/-- The last checks of an item that stands in the queue: a trap takes it out of the queue, else it may run. -/
def Iss.recheck (x : Iss) (q : SeqItem) : Eff :=
  let same := fun (r : SeqItem) => r.held && r.age == q.age && r.team == q.team
  if x.undecided q then .wait x (.tile q.age)
  else
    match x.lastCheck q with
    | some e => .trap (x.mapQueue fun l => l.filter fun r => !same r) e
    | none => .done (x.mapQueue fun l => l.map fun r => if same r then { r with held := false } else r) q.second [] none

/-- An instruction for the sequencer: one that stands in the queue already has its last checks; with the sequencer busy nothing issues
(R44); else `f` issues it. -/
def Iss.sequence (x : Iss) (f : Iss → Eff) : Eff :=
  match x.heldItem with
  | some q => x.recheck q
  | none => if x.sequencerBusy then .final x.commit else f x

/-- The checks of a matrix instruction after the vote, in order (Table 17.14), and its entry into the queue. -/
def Iss.matrixChecked (x : Iss) (o : MatOp) (w : Nat) (desc : W64) : Eff :=
  let d := desc.toNat
  let regs := o.added w d
  let slot := if o.x = 2 then some (0, 0) else x.slotOf o.rg (dSlot d)
  let tiles := tilesWritten w o.t.val
  let sources := if o.x = 2 then sourceTiles w d else []
  if regs.1.any x.sp.pend.has then .trap x { cause := 0x05 }
  else if regs.2.any x.sp.pend.has then .trap x { cause := 0x06 }
  else
    match slot with
    | none => .trap x { cause := 0x65 }
    | some (base, bytes) =>
      if x.operandBad o w d bytes then .trap x { cause := 0x66 }
      else if (tiles ++ sources).any fun t => x.tm.accu ≤ t then .trap x { cause := 0x63 }
      else
        x.intoQueue { x.seqItem o.insn o.x o.t.val with
          accumulate := o.ac, paired := o.p, base := base, word := BitVec.ofNat 32 w, desc := desc
          image := if o.x = 1 then x.metaImage o w d else 0 }

/-- The vote and the checks of a matrix instruction, and its entry into the queue (R111, R228). -/
def Iss.matrixVote (x : Iss) (o : MatOp) (desc : W64) : Eff :=
  let w := x.formatWord o.fw
  let diff := x.dissent o.fw w
  if diff ≠ 0 then .trap x { cause := 0x60, info := diff.toNat, addr := w.toNat }
  else if !wordValid o.x w.toNat then .trap x { cause := 0x64 }
  else x.matrixChecked o w.toNat desc

/-- A matrix instruction: nothing without an active lane; else the vote, the checks and the queue. -/
def Iss.matrix (x : Iss) (o : MatOp) (desc : W64) : Eff :=
  if x.mask = 0 then Eff.ok x else x.sequence fun x => x.matrixVote o desc

/-- MMA: a dense pass queued (R227, R228). -/
def execMma (ac : Bool) (p : Bool) (fw : VReg) (sb : SReg) (rg : Fin 8) (t : AReg) (mk : Bool)
    (s : State) : Host.Outcome State Fault Refusal :=
  issue (.mma ac p fw sb rg t mk) s fun x =>
    x.matrix ⟨insnWord (.mma ac p fw sb rg t mk), 0, ac, p, fw, rg, t⟩ (x.s sb)

/-- MMAS: a pass over pruned columns queued (R231). -/
def execMmas (ac : Bool) (p : Bool) (fw : VReg) (sb : SReg) (rg : Fin 8) (t : AReg) (mk : Bool)
    (s : State) : Host.Outcome State Fault Refusal :=
  issue (.mmas ac p fw sb rg t mk) s fun x =>
    x.matrix ⟨insnWord (.mmas ac p fw sb rg t mk), 1, ac, p, fw, rg, t⟩ (x.s sb)

/-- MMAC: a pass whose operand A comes from tiles queued (R232). -/
def execMmac (ac : Bool) (p : Bool) (fw : VReg) (sb : SReg) (rg : Fin 8) (t : AReg) (mk : Bool)
    (s : State) : Host.Outcome State Fault Refusal :=
  issue (.mmac ac p fw sb rg t mk) s fun x =>
    x.matrix ⟨insnWord (.mmac ac p fw sb rg t mk), 2, ac, p, fw, rg, t⟩ (x.s sb)

/-- MMAX: a digit-sliced product queued (R244 to R247). -/
def execMmax (ac : Bool) (p : Bool) (fw : VReg) (sb : SReg) (rg : Fin 8) (t : AReg) (mk : Bool)
    (s : State) : Host.Outcome State Fault Refusal :=
  issue (.mmax ac p fw sb rg t mk) s fun x =>
    x.matrix ⟨insnWord (.mmax ac p fw sb rg t mk), 3, ac, p, fw, rg, t⟩ (x.s sb)

/-! ## Tiles and operands as the sequencer reads them -/

/-- A word of a tile (R223). -/
def TeamCore.word (c : TeamCore) (tile row col : Nat) : Nat := c.tiles.readNat (16384 * tile + 4 * (64 * row + col)) 4

/-- A row of a tile written. -/
def TeamCore.setRow (c : TeamCore) (tile row : Nat) (ws : List Nat) : TeamCore :=
  { c with tiles := c.tiles.writeBytes (16384 * tile + 256 * row) (ws.map fun w => leBytes 4 w).flatten }

/-- What a team holds on a core. -/
def Team.onCore (t : Team) (core : Nat) : TeamCore :=
  match t.cores.find? fun c => c.core == core with
  | some c => c
  | none => ⟨core, Memory.empty, Memory.empty, []⟩

/-- What a team holds on a core replaced. -/
def Team.setOnCore (t : Team) (c : TeamCore) : Team :=
  { t with cores := t.cores.map fun d => if d.core == c.core then c else d }

/-- A value and what reading it raised. -/
abbrev Elem := FpVal × Exc

/-- The product of two operands (R113). -/
def elemMul (a b : Elem) : Elem :=
  let p := FpVal.mul a.1 b.1
  (p.1, (a.2.or b.2).or p.2)

/-- An element with its block scale (R110). -/
def scaled (v s : FpVal) : Elem := FpVal.mul v s

/-- An element of transposed A (R224). -/
def transElem (scr : Memory) (base f k i : Nat) : FpVal :=
  let n := fmtBits f
  let b := (64 * k + i) * n
  fmtVal f (field (scr.readNat (base + b / 8) ((n + 7) / 8)) (b % 8) n)

/-- The elements of row i of operand A in a slot, as they stand there (R224). -/
def slotRow (scr : Memory) (base x w i : Nat) : List FpVal :=
  let raw := if fwTrans w then 0 else scr.readNat (base + i * aPitch x w) (aBytes x w)
  (List.range (depthDense x w)).map fun k =>
    if fwTrans w then transElem scr base (fwA w) k i else rowElem (fwA w) raw k

/-- Row i of operand A from a slot, with its scales. -/
def rowFromSlot (scr : Memory) (base x w i : Nat) : List Elem :=
  let sc := scr.readNat (base + 64 * aPitch x w + 256 * i) (scaleBytes (fwSca w) (depthDense x w / fwBlock w))
  (slotRow scr base x w i).zipIdx.map fun v => scaled v.1 (blockScale (fwSca w) sc (v.2 / fwBlock w))

/-- Row i of operand A from tiles, converted (R232), and what the conversion raises. -/
def rowFromTiles (c : TeamCore) (w d i : Nat) : List Elem × MatExc :=
  let cs := (List.range (depthDense 2 w)).map fun k => narrow (fwA w) (c.word (dAsrc d + k / 64) (dRow d + i) (k % 64))
  (cs.map fun r => (fmtVal (fwA w) r.1, Exc.none), cs.foldl (fun acc r => acc.or r.2) MatExc.none)

/-- The kept elements of column j of operand B with their dense positions (R225, R231). `j` counts over both halves. -/
def SeqItem.column (q : SeqItem) (slices : Memory) (j : Nat) : List (Nat × Elem) :=
  let w := q.word.toNat
  let at_ := 32768 * (j % 64) + 256 * dBlk q.desc.toNat
  let raw := slices.readNat at_ 256
  let sc := slices.readNat (at_ + 256) (scaleBytes (fwScb w) (depthDense q.op w / fwBlock w))
  (List.range (depthK q.op w)).map fun e =>
    let k := if q.op = 1 then metaPos (fwSparse w) (depthK 1 w) q.image j e else e
    (k, scaled (rowElem (fwB w) raw e) (blockScale (fwScb w) sc (k / fwBlock w)))

/-- One result: the chunks of a column in ascending order, each added with one rounding (R113, R229). -/
def accumulateChunks (cf ch : Nat) (row : Array Elem) : Nat → List (Nat × Elem) → Nat × MatExc → Nat × MatExc
  | 0, _, r => r
  | n + 1, col, r =>
    let ps := (col.take ch).map fun c => elemMul (row.getD c.1 (.fin false 0 0, Exc.none)) c.2
    let a := accumulate cf r.1 (chunkSum ps)
    accumulateChunks cf ch row n (col.drop ch) (a.1, r.2.or a.2)

/-- One half of a pass: the tile's new rows and what they raise. -/
def SeqItem.runHalf (q : SeqItem) (rows : List (Array Elem)) (slices : Memory) (c : TeamCore) (half : Nat) :
    TeamCore × MatExc :=
  let w := q.word.toNat
  let cols := (List.range 64).map fun j => q.column slices (64 * half + j)
  rows.zipIdx.foldl (fun acc r =>
    let row := dRow q.desc.toNat + r.2
    let out := cols.zipIdx.map fun k =>
      accumulateChunks (fwC w) (depthK q.op w / 4) r.1 4 k.1
        (if q.accumulate then c.word q.tile row k.2 else 0, MatExc.none)
    (acc.1.setRow q.tile row (out.map fun p => p.1), out.foldl (fun x p => x.or p.2) acc.2)) (c, MatExc.none)

/-- The rows of operand A of a pass and what reading them raises. -/
def SeqItem.rows (q : SeqItem) (c : TeamCore) : List (Array Elem) × MatExc :=
  let w := q.word.toNat
  (List.range (dM q.desc.toNat)).foldl (fun acc i =>
    if q.op = 2 then
      let r := rowFromTiles c w q.desc.toNat i
      (acc.1 ++ [r.1.toArray], acc.2.or r.2)
    else (acc.1 ++ [(rowFromSlot c.scratch q.base q.op w i).toArray], acc.2)) ([], MatExc.none)

/-! ## The sequencer (R230, R233, R235) -/

/-- A wave of a team through a function. -/
def Team.mapWave (t : Team) (n : Nat) (f : Wave → Wave) : Team :=
  { t with waves := t.waves.map fun w => if w.number.val == n then f w else w }

/-- Flags of a pass in the FPFLAGS of its wave (R105). -/
def Team.flag (t : Team) (n : Nat) (e : MatExc) : Team :=
  t.mapWave n fun w => { w with flags := w.flags ||| e.fp.bits ||| BitVec.ofNat 6 (32 * bit e.sat) }

/-- A tile poisoned with a PC (R234). -/
def Team.addPoison (t : Team) (core tile : Nat) (pc : BitVec 48) : Team :=
  { t with poison := ⟨core, tile, pc⟩ :: t.poison.filter fun p => !(p.core == core && p.tile == tile) }

/-- B blocks that a BLD writes: the first and how many (R237). -/
def bldSpan (e : EngineCmd) : Nat × Nat := (field (e.params.getD 0 0) 0 7, field (e.params.getD 0 0) 24 7 + 1)

/-- Two spans of blocks share one. -/
def spansMeet (a b : Nat × Nat) : Bool := decide (a.1 < b.1 + b.2) && decide (b.1 < a.1 + a.2)

/-- A pass reads a block that a BLD writes. -/
def SeqItem.meets (q : SeqItem) (e : EngineCmd) : Bool :=
  decide (q.op ≤ 3) && e.sub == 2 && spansMeet (blockSpan q.op q.word.toNat q.desc.toNat) (bldSpan e)

/-- A pass waits for a BLD issued earlier at the core (R235). -/
def Core.bldBefore (c : Core) (q : SeqItem) : Bool := c.engines.any fun e => q.meets e && decide (e.age < q.age)

/-- The head of a core's queue with its team and place, where it may run: its last checks have passed, BLDs issued earlier at its cores that write its
blocks have ended, and on a pair the queues of both cores keep issue order (R230, R233, R235). -/
def State.seqHead (s : State) (die : Fin 4) (core : Nat) : Option (SeqItem × Nat × Team) :=
  match (s.core die core).queue with
  | [] => none
  | q :: _ =>
    match s.findTeam die q.team with
    | none => none
    | some (i, t) =>
      let passed := !q.held
      let free := (q.coresOf t core).all fun n => !(s.core die n).bldBefore q
      let first := (q.coresOf t core).all fun n =>
        n == core || (s.core die n).queue.all fun r => !(decide (r.age < q.age))
      let led := t.follower == some core &&
        (s.core die t.leader).queue.any fun r => r.paired && r.team == q.team && decide (r.age < q.age)
      if passed && free && first && !led then some (q, i, t) else none

/-- The head of a queue taken off. -/
def State.popSeq (s : State) (die : Fin 4) (core : Nat) : State :=
  let c := s.core die core
  s.setCore { c with queue := c.queue.drop 1 }

/-- The head of a queue ended, its team as it leaves it; a park of its wave that waited for its results is taken (R53). -/
def State.endSeq (s : State) (die : Fin 4) (core i : Nat) (q : SeqItem) (t : Team) : State :=
  ((s.popSeq die core).setTeam i t).parkDueOf die q.team q.wave

/-- Tiles poisoned, each with its core, counted there (source 5). -/
def State.countPoison (s : State) (t : Team) (tiles : List (Nat × Nat)) : State :=
  tiles.foldl (fun s p => s.count t.die p.1 5 (some t.ctx) 1) s

/-- Tiles poisoned with the PC of an instruction (R234). -/
def SeqItem.poisonTiles (q : SeqItem) (t : Team) (tiles : List (Nat × Nat)) : Team :=
  tiles.foldl (fun acc p => acc.addPoison p.1 p.2 q.pc) t

/-- The halves of a pass run, but those in `failed`, whose tiles stay as they were (R229, R234; log 25). -/
def State.runPass (s : State) (die : Fin 4) (core : Nat) (q : SeqItem) (t : Team) (failed : List (Nat × Nat)) : Team :=
  let rows := q.rows (t.onCore core)
  (q.coresOf t core).zipIdx.foldl (fun acc c =>
    if failed.contains (c.1, q.tile) then acc
    else
      let r := q.runHalf rows.1 (s.core die c.1).slices (t.onCore c.1) c.2
      (acc.setOnCore r.1).flag q.wave (rows.2.or r.2)) t

/-- MATRIX_PASS: the pass at the head of a core's queue runs. `bad1`, `bad2`: the checksums of the issuing core's array, and those of
its rerun, do not match; `follower`: the same of the follower's array in a paired pass. A mismatch on either array reruns the
pass; the tile of each half that mismatches again is poisoned (R229, R233, R234). Where no pass may run, nothing happens. -/
def execMatrixPass (die : Fin 4) (core : Nat) (bad1 bad2 : Bool) (follower : Bool × Bool) (s : State) :
    Host.Outcome State Fault Refusal :=
  match s.seqHead die core with
  | none => .next s
  | some (q, i, t) =>
    if 3 ≤ q.op then .next s
    else
      let rerun := q.checked && (bad1 || q.paired && follower.1)
      let failed := ((q.coresOf t core).zipIdx.filter fun c => rerun && (if c.2 = 0 then bad2 else follower.2)).map fun c =>
        (c.1, q.tile)
      let s := s.endSeq die core i q (q.poisonTiles (s.runPass die core q t failed) failed)
      let s := if rerun then s.count die core 4 (some t.ctx) 1 else s
      .next ((s.countPoison t failed).count die core 3 (some t.ctx) 1)

/-! ## ACLR, ALD, AST -/

/-- A check of an accumulator instruction at execution (R319, R321): FMT 10, an odd pair, a tile out of range. -/
def Iss.accCheck (x : Iss) (fmt : ElemFmt) (t : AReg) : Option Trap :=
  if fmt = .cb2 ∨ (fmt = .fp64 ∧ t.val % 2 = 1) then some { cause := 0x66 }
  else if x.tm.accu ≤ t.val + (if fmt = .fp64 then 1 else 0) then some { cause := 0x63 }
  else none

/-- Registers of a row group as one number (R236). -/
def Iss.regImage (x : Iss) (v : VReg) (n : Nat) : Nat :=
  leNat ((List.range n).map fun i =>
    ((List.finRange 32).map fun L => leBytes 4 (x.v (vNext v i) L).toNat).flatten).flatten

/-- ACLR: a tile cleared by the sequencer (R320). -/
def execAclr (t : AReg) (mk : Bool) (s : State) : Host.Outcome State Fault Refusal :=
  issue (.aclr t mk) s fun x => x.sequence fun x =>
    if x.tm.accu ≤ t.val then .trap x { cause := 0x63 } else x.intoQueue (x.seqItem (insnWord (.aclr t mk)) 4 t.val)

/-- ALD: registers read at issue and queued for a row group (R320, R321). -/
def execAld (fmt : ElemFmt) (v : VReg) (rg : Fin 8) (t : AReg) (mk : Bool)
    (s : State) : Host.Outcome State Fault Refusal :=
  issue (.ald fmt v rg t mk) s fun x => x.sequence fun x =>
    match x.accCheck fmt t with
    | some e => .trap x e
    | none =>
      x.intoQueue { x.seqItem (insnWord (.ald fmt v rg t mk)) 5 t.val with
        rg := rg.val, fmt := fmt.code, vreg := v.val, image := x.regImage v (accSpan fmt) }

/-- AST: a row group queued to be stored into registers (R320, R321). -/
def execAst (fmt : ElemFmt) (v : VReg) (rg : Fin 8) (t : AReg) (mk : Bool)
    (s : State) : Host.Outcome State Fault Refusal :=
  issue (.ast fmt v rg t mk) s fun x => x.sequence fun x =>
    match x.accCheck fmt t with
    | some e => .trap x e
    | none =>
      x.intoQueue { x.seqItem (insnWord (.ast fmt v rg t mk)) 6 t.val with rg := rg.val, fmt := fmt.code, vreg := v.val }

/-- The lane that holds element n of a row group (R236). -/
def elemLane (f n : Nat) : Nat := if f = 0 then n % 32 else n * fmtBits f % 1024 / 32

/-- The bit of the register image at which element n begins; of an FP64 element, its low word (R236). -/
def elemBit (f n : Nat) : Nat :=
  if f = 0 then 1024 * (4 * (n / 64) + 2 * (n % 64 / 32)) + 32 * (n % 32) else n * fmtBits f

/-- ALD's effect on one element of its row group. -/
def SeqItem.aldElem (q : SeqItem) (c : TeamCore) (n : Nat) : TeamCore :=
  if q.mask.getLsbD (elemLane q.fmt n) then
    let at_ := fun (t : Nat) => 16384 * t + 4 * (64 * (8 * q.rg + n / 64) + n % 64)
    let b := elemBit q.fmt n
    if q.fmt = 0 then
      let low : Memory := c.tiles.writeNat (at_ q.tile) 4 (field q.image b 32)
      { c with tiles := low.writeNat (at_ (q.tile + 1)) 4 (field q.image (b + 1024) 32) }
    else { c with tiles := c.tiles.writeNat (at_ q.tile) 4 (widen q.fmt (field q.image b (fmtBits q.fmt))) }
  else c

/-- The elements of a row group that lie in a word of the register image: word of register r, lane L. -/
def SeqItem.astWord (q : SeqItem) (c : TeamCore) (r L : Nat) : Nat × MatExc :=
  if q.fmt = 0 then
    (c.word (q.tile + r % 2) (8 * q.rg + r / 4) (32 * (r % 4 / 2) + L), MatExc.none)
  else
    let n := fmtBits q.fmt
    (List.range (32 / n)).foldl (fun acc i =>
      let m := (1024 * r + 32 * L) / n + i
      let e := narrow q.fmt (c.word q.tile (8 * q.rg + m / 64) (m % 64))
      (acc.1 + e.1 * 2 ^ (n * i), acc.2.or e.2)) (0, MatExc.none)

/-- Registers of a row group (Table 16.2). -/
def rowGroupRegs (f : Nat) : Nat := if f = 0 then 32 else fmtBits f / 2

/-- AST's effect: the active lanes of the registers, and the flags of their conversions (R320). -/
def SeqItem.astRun (q : SeqItem) (t : Team) (c : TeamCore) : Team :=
  let words := (List.range (rowGroupRegs q.fmt)).map fun r => (r, Vector.ofFn fun (L : Fin 32) => q.astWord c r L.val)
  let put := fun (v : Vector (Vector W32 32) 64) (p : Nat × Vector (Nat × MatExc) 32) =>
    let k : Fin 64 := Fin.ofNat 64 (q.vreg + p.1)
    v.set k (Vector.ofFn fun L => if q.mask.getLsbD L.val then BitVec.ofNat 32 p.2[L].1 else v[k][L])
  let exc := words.foldl (fun acc p =>
    (lanesOf q.mask).foldl (fun (e : MatExc) L => e.or p.2[L].2) acc) MatExc.none
  (t.mapWave q.wave fun w => { w with v := words.foldl put w.v }).flag q.wave exc

/-- ACCUMULATOR_EXECUTE: the ACLR, ALD or AST at the head of a core's queue runs (R320). Where none may run, nothing
happens. -/
def execAccumulatorExecute (die : Fin 4) (core : Nat) (s : State) : Host.Outcome State Fault Refusal :=
  match s.seqHead die core with
  | none => .next s
  | some (q, i, t) =>
    let c := t.onCore core
    let t' : Option Team :=
      match q.op with
      | 4 =>
        let t := t.setOnCore { c with tiles := c.tiles.writeBytes (16384 * q.tile) (zeros 16384) }
        some { t with poison := t.poison.filter fun p => !(p.core == core && p.tile == q.tile) }
      | 5 => some (t.setOnCore ((List.range 512).foldl q.aldElem c))
      | 6 => some (q.astRun t c)
      | _ => none
    match t' with
    | none => .next s
    | some t => .next (s.endSeq die core i q t)

/-! ## CMPRS (R239, R339) -/

/-- The magnitude of an element as CMPRS orders it: NaN above infinity above every finite value (R239). -/
def magnitude (f bits : Nat) : Nat × Nat :=
  match fmtVal f bits with
  | .nan _ => (2, 0)
  | .inf _ => (1, 0)
  | .fin _ m e => (0, m * 2 ^ (e + 160).toNat)

/-- Element r of a group is chosen before element k: larger, or equal and lower. -/
def magBefore (a b : Nat × Nat) (r k : Nat) : Bool :=
  decide (b.1 < a.1) || (a.1 == b.1 && (decide (b.2 < a.2) || (a.2 == b.2 && decide (r < k))))

/-- The indices of a group that are kept, in ascending order: the `n` largest magnitudes (R239). -/
def keptOf (f n : Nat) (vals : List Nat) : List (Nat × Nat) :=
  let ms := vals.zipIdx.map fun v => (magnitude f v.1, v.1, v.2)
  (ms.filter fun a => (ms.filter fun b => magBefore b.1 a.1 b.2.2 a.2.2).length < n).map fun a => (a.2.2, a.2.1)

/-- Kept values of a column and their indices, in order. -/
def cmprsColumn (scr : Memory) (src f sp kd j : Nat) : List (Nat × Nat) :=
  let n := fmtBits f
  let elem := fun (k : Nat) =>
    let b := (64 * k + j) * n
    field (scr.readNat (src + b / 8) ((n + 7) / 8)) (b % 8) n
  ((sparseGroups sp kd).map fun g => keptOf f g.2.2 ((List.range g.2.1).map fun r => elem (g.1 + r))).flatten

/-- Fields of equal width packed from bit 0 upward. -/
def packFields (n : Nat) (xs : List Nat) : Nat := xs.foldr (fun x acc => x + acc * 2 ^ n) 0

/-- Metadata registers of CMPRS written in the active lanes. -/
def Iss.setImage (x : Iss) (d : VReg) (image n : Nat) : Iss :=
  (List.range n).foldl (fun y i =>
    y.setV (vNext d i) x.mask fun L => BitVec.ofNat 32 (field image (1024 * i + 32 * L.val) 32)) x

/-- CMPRS after its checks: both outputs written, and the registers where MREG = 1. -/
def Iss.cmprsRun (x : Iss) (f sp kd src out : Nat) (regs : Option (VReg × Nat)) : Eff :=
  let cols := (List.range 64).map fun j => cmprsColumn x.scratch src f sp kd j
  let b := (sparseShape sp).2.2
  let image := packFields (b * kd) (cols.map fun c => packFields b (c.map fun p => p.1))
  let m := cols.zipIdx.foldl (fun (m : Memory) c =>
    m.writeBytes (out + 256 * c.2) (leBytes 256 (packFields (fmtBits f) (c.1.map fun p => p.2)))) x.scratch
  let y := x.setScratch (m.writeBytes (out + 16384) (leBytes (8 * kd * b) image))
  match regs with
  | none => Eff.ok y
  | some (d, n) => .done (y.setImage d image n) ((List.range n).map fun i => Reg.v (d.val + i)) [] none

/-- The trap of a scratchpad range past the end, raised once per wave (Table 14.6). -/
def scratchTrap (off : Nat) : Trap := { cause := 0x20, info := 2 ^ 12 + 2 ^ 14, addr := off }

/-- CMPRS: a dense tile pruned by magnitude into kept values and metadata (R239, R339). -/
def execCmprs (pat : SparsePat) (b : SReg) (a : SReg) (d : VReg) (mk : Bool)
    (s : State) : Host.Outcome State Fault Refusal :=
  issue (.cmprs pat b a d mk) s fun x =>
    let f := field (x.s a).toNat 24 5
    let src := field (x.s a).toNat 0 24
    let out := field (x.s b).toNat 0 24
    let mreg := fieldBit (x.s b).toNat 24
    let sp := pat.code + 1
    let kd := classDepth (fmtClass f)
    let n := kd * (sparseShape sp).2.2 / 16
    let ilen := sparseDepth sp kd * 64 * fmtBits f / 8
    let olen := 16384 + 8 * kd * (sparseShape sp).2.2
    let regs := if mreg ∧ 2 ≤ f ∧ f ≤ 9 then (List.range n).map fun i => Reg.v (d.val + i) else []
    if x.mask = 0 then Eff.ok x
    else if regs.any x.sp.pend.has then .trap x { cause := 0x06 }
    else if 2 ^ 29 ≤ (x.s a).toNat ∨ 2 ^ 25 ≤ (x.s b).toNat ∨ f < 2 ∨ 9 < f ∨ (mreg ∧ x.tm.vregs < d.val + n) ∨
        (mreg = false ∧ d ≠ 0) ∨ (src < out + olen ∧ out < src + ilen) then .trap x { cause := 0x66 }
    else if x.tm.scru * 16384 < src + ilen then .trap x (scratchTrap src)
    else if x.tm.scru * 16384 < out + olen then .trap x (scratchTrap out)
    else x.cmprsRun f sp kd src out (if mreg then some (d, n) else none)

end Sys2Proof.Machine
end

