-- ==== Sys2Proof/Machine/Quorum.lean ====
section
/-! DEFINITION. Quorum joins: descriptors (R262), opening (R264), arrivals (R267), releases (R269), the RESCALE factor
(R274), and the collectives over a quorum (R344). -/

namespace Sys2Proof.Machine

/-! ## Descriptors (Table 13.1) -/

/-- The control doubleword. -/
def descCtl (d : List Byte) : Nat := bytesNat d 32 8
/-- N. -/
def descN (d : List Byte) : Nat := field (descCtl d) 0 6 + 1
/-- FRAC. -/
def descFrac (d : List Byte) : Bool := fieldBit (descCtl d) 6
/-- K. -/
def descK (d : List Byte) : Nat := field (descCtl d) 7 7
/-- FLOOR. -/
def descFloor (d : List Byte) : Nat := field (descCtl d) 14 7
/-- FILL: 0 ZERO, 1 RESCALE, 2 SUBST. -/
def descFill (d : List Byte) : Nat := field (descCtl d) 21 2
/-- UNIT. -/
def descUnit (d : List Byte) : Nat := field (descCtl d) 24 4
/-- DEADLINE. -/
def descDeadline (d : List Byte) : Nat := field (descCtl d) 32 16
/-- RKIND. -/
def descKind (d : List Byte) : Nat := field (descCtl d) 48 8
/-- STRIDE. -/
def descStride (d : List Byte) : Nat := bytesNat d 40 5
/-- QUOTA. -/
def descQuota (d : List Byte) : Nat := bytesNat d 48 4
/-- REGION. -/
def descRegion (d : List Byte) : Cap := capOfBytes (slice d 0 16)
/-- RSTREAM. -/
def descStream (d : List Byte) : Cap := capOfBytes (slice d 16 16)
/-- The weight of a member. -/
def descWeight (d : List Byte) (i : Nat) : Nat := bytesNat d (64 + 4 * i) 4
/-- kreq. -/
def descKreq (d : List Byte) : Nat := if descFrac d then (descK d * descN d + 63) / 64 else descK d

/-- A capability names a stream that POST may reach (R185). -/
def State.postable (s : State) (ctx : Nat) (c : Cap) : Option Block :=
  match s.streamBlock ctx (capObj c) with
  | none => none
  | some (_, b) =>
    if b.usable c && !b.stamped && !b.sys then some b else none

/-- The checks of a descriptor in the order of R423 (R264). -/
def State.descChecks (s : State) (ctx : Nat) (d : List Byte) : List Check :=
  let w := descCtl d
  let r := descRegion d
  let t := descStream d
  let n := descN d
  [(0, (s.validateImage ctx r).isSome || !capHas r 18 || capBase r % 256 != 0),
    (16, (s.validateImage ctx t).isSome || !capHas t 2 || (s.postable ctx t).isNone),
    (32, descK d == 0 || decide ((if descFrac d then 64 else n) < descK d)), (33, decide (descKreq d < descFloor d)),
    (34, descFill d == 3), (34, fieldBit w 23), (35, field w 28 4 != 0), (36, descDeadline d == 0),
    (38, decide (0xE0 ≤ descKind d)), (39, field w 56 8 != 0),
    (40, descStride d == 0 || descStride d % 256 != 0 || decide (capLen r < n * descStride d)), (45, bytesNat d 45 3 != 0),
    (48, descQuota d % 256 != 0 || decide (n * descStride d < descQuota d)), (52, bytesNat d 52 12 != 0)] ++
  (List.range 64).map fun i =>
    (64 + 4 * i, if i < n then decide (0x7F800000 ≤ descWeight d i) else descWeight d i != 0)

/-! ## Registers -/

/-- The handle of a register (R260). -/
def quorumHandle (d : Fin 4) (num : Nat) (serial : BitVec 13) : W32 :=
  BitVec.ofNat 32 (num * 2 ^ 6 + d.val * 2 ^ 16 + serial.toNat * 2 ^ 18 + 2 ^ 31)

/-- The handle of a live quorum. -/
def Quorum.handle (q : Quorum) (d : Fin 4) : W32 := quorumHandle d q.num q.serial

/-- The lowest FREE register of a die, searched upward with fuel. -/
def freshQuorum (qs : List Quorum) : Nat → Nat → Nat
  | 0, n => n
  | fuel + 1, n => if qs.any fun q => q.num == n then freshQuorum qs fuel (n + 1) else n

/-- The quotas of a context's quorums that are not FREE. -/
def State.quotas (s : State) (ctx : Nat) : Nat :=
  s.dies.toList.foldl (fun n d => d.quorums.foldl (fun n q => if q.ctx == ctx then n + q.quota else n) n) 0

/-- A quorum opened in the lowest FREE register of a die (R264). -/
def State.openQuorum (s : State) (d : Fin 4) (ctx depth : Nat) (desc : List Byte) : State × W32 :=
  let x := s.dies[d]
  let num := freshQuorum x.quorums x.quorums.length 0
  let serial := match x.serials.find? fun p => p.1 == num with | some p => p.2 | none => 0
  let q : Quorum :=
    { num := num, serial := serial, state := .opened, ctx := ctx, desc := desc, depth := depth, arrived := 0, departed := 0
      bound := [], late := 0, mark := unitsAt (descUnit desc) x.ticks, status := 0, stamp := 0, record := [], killing := [] }
  (s.setDie d { x with quorums := x.quorums ++ [q] }, q.handle d)

/-- arrivals. -/
def Quorum.arrivals (q : Quorum) : Nat := popc 64 q.arrived.toNat

/-- The members that have not arrived (R269). -/
def Quorum.absent (q : Quorum) : List Nat := (List.range (descN q.desc)).filter fun i => !q.arrived.getLsbD i

/-- A set of members as a mask. -/
def memberMask (is : List Nat) : Nat := is.foldl (fun acc i => acc ||| 2 ^ i) 0

/-- The stamp at which the deadline falls due (R268). -/
def Quorum.due (q : Quorum) : Int := (q.mark + descDeadline q.desc) * (2 ^ descUnit q.desc : Nat)

/-! ## The RESCALE factor (R274) -/

/-- The weights of some members added in order, rounded RNE at each step. -/
def weightSum (desc : List Byte) (is : List Nat) : Nat :=
  is.foldl (fun acc i => (fpBin fp32 .rne .add acc (descWeight desc i)).1) 0

/-- The quotient of two sums of weights, rounded once. -/
def quotient32 (a b : Nat) : Nat :=
  match fp32.decode a, fp32.decode b with
  | .fin _ m e, .fin _ n f =>
    let k := 64 + Nat.log2 n
    (fp32.round .rne false (m * 2 ^ k / n) (e - f - k) (decide (m * 2 ^ k % n ≠ 0))).1
  | .inf _, .fin _ _ _ => fp32.infBits false
  | .fin _ _ _, .inf _ => 0
  | _, _ => fp32.canonNan

/-- The RESCALE factor for what has arrived (R274). -/
def Quorum.scale (q : Quorum) : Nat :=
  let all := List.range (descN q.desc)
  let sr := weightSum q.desc (all.filter fun i => q.arrived.getLsbD i)
  if sr = 0 then 0 else quotient32 (weightSum q.desc all) sr

/-! ## Collectives (R343, R344) -/

/-- A combination of two 4-byte elements (Table 16.11). -/
def collElem (op a b : Nat) : Nat :=
  match op with
  | 0 => (fpBin fp32 .rne .add a b).1
  | 1 => intOp .add 32 true a b
  | 2 => (fpBin fp32 .rne .max a b).1
  | 3 => (fpBin fp32 .rne .min a b).1
  | 4 => intOp .max 32 true a b
  | _ => intOp .min 32 true a b

/-- Two contributions of `n` elements combined. -/
def collCombine (op : Nat) (a b : List Byte) : Nat → List Byte
  | 0 => []
  | n + 1 => leBytes 4 (collElem op (bytesNat a 0 4) (bytesNat b 0 4)) ++ collCombine op (a.drop 4) (b.drop 4) n

/-- A contribution that none is combined with: a NaN of a floating-point operation is canonical in the result too (R343). -/
def collAlone (op : Nat) (bs : List Byte) : Nat → List Byte
  | 0 => bs
  | n + 1 =>
    if op = 0 ∨ op = 2 ∨ op = 3 then
      leBytes 4 (match fp32.decode (bytesNat bs 0 4) with | .nan _ => fp32.canonNan | _ => bytesNat bs 0 4) ++
        collAlone op (bs.drop 4) n
    else bs

/-- combine over contributions in ascending rank; `len` zero bytes for none. A broadcast is rank 0's (R343). -/
def combineAll (op len : Nat) (cs : List (Nat × List Byte)) : List Byte :=
  if op = 6 then
    match cs.find? fun c => c.1 == 0 with
    | some c => c.2
    | none => zeros len
  else
    match cs with
    | [] => zeros len
    | [c] => collAlone op c.2 (len / 4)
    | c :: cs => cs.foldl (fun acc d => collCombine op acc d.2 (len / 4)) c.2

/-- Every element multiplied by a factor and rounded RNE (R344). -/
def scaleAll (k : Nat) (bs : List Byte) : Nat → List Byte
  | 0 => []
  | n + 1 => leBytes 4 (fpBin fp32 .rne .mul (bytesNat bs 0 4) k).1 ++ scaleAll k (bs.drop 4) n

/-- The committed bytes of a member's slot, zero where a page is not there to read or a sector is poisoned (log 25). -/
def State.slotBytes (s : State) (ctx : Nat) (q : Quorum) (i len : Nat) : List Byte :=
  let r := q.region
  (((List.range (len / 256)).map fun k =>
    match s.objectPa ctx (capObj r) (capBase r + i * q.stride + 256 * k) with
    | some pa => if (s.peekSector pa).2 then zeros 256 else (s.peekSector pa).1
    | none => zeros 256)).flatten

/-- A contribution of a rank put among others in ascending rank. -/
def insertRank (c : Nat × List Byte) : List (Nat × List Byte) → List (Nat × List Byte)
  | [] => [c]
  | d :: ds => if c.1 < d.1 then c :: d :: ds else d :: insertRank c ds

/-- The result of a quorum collective at release (R344). -/
def State.collResult (s : State) (q : Quorum) (c : Collective) : List Byte :=
  let held := (c.parts.filter fun p => !p.data.isEmpty).map fun p => (p.rank, p.data)
  let held := if descFill q.desc = 2 then held ++ q.absent.map fun i => (i, s.slotBytes q.ctx q i c.len) else held
  let r := combineAll c.op c.len (held.foldl (fun acc x => insertRank x acc) [])
  if descFill q.desc = 1 ∧ c.op = 0 then scaleAll q.scale r (c.len / 4) else r

/-! ## Release (R269) -/

/-- Sectors of absent slots zeroed at their homes, `n` of them from an object offset; a page that is not present has none. -/
def State.zeroSectors (s : State) (ctx : Nat) (r : Cap) (off : Nat) : Nat → State
  | 0 => s
  | n + 1 =>
    let s :=
      match s.objectPa ctx (capObj r) off with
      | some pa => s.pokeWhole pa (domainOf ctx r) (zeros 256)
      | none => s
    s.zeroSectors ctx r (off + 256) n

/-- The slots of the absent members filled (R269). -/
def State.fillAbsent (s : State) (q : Quorum) : State :=
  if descFill q.desc = 2 then s
  else
    q.absent.foldl (fun acc i => acc.zeroSectors q.ctx q.region (capBase q.region + i * q.stride) (q.stride / 256)) s

/-- The quorum record (Table 13.5). -/
def Quorum.makeRecord (q : Quorum) (d : Fin 4) : List Byte :=
  let absent := memberMask q.absent
  leBytes 8 q.arrived.toNat ++ leBytes 8 (if descFill q.desc = 2 then absent else 0) ++ leBytes 8 absent ++
    leBytes 4 (q.status + q.arrivals * 2 ^ 8 + descN q.desc * 2 ^ 16 + descKreq q.desc * 2 ^ 24) ++
    leBytes 4 (descFloor q.desc + descFill q.desc * 2 ^ 8) ++ leBytes 4 q.scale ++ leBytes 4 (q.handle d).toNat ++
    leBytes 8 (q.stamp % 2 ^ 48) ++ zeros 16 ++ slice q.desc 64 256

/-- The rest of a release once a held entry is free: the record, the release event and the kill requests; a register whose
release leaves no bound member becomes FREE (R268, R269). -/
def State.finishRelease (s : State) (d : Fin 4) (q : Quorum) : State :=
  let s := s.sweepFull d
  if 16384 ≤ s.dies[d].held.length then s.setQuorum d q
  else
    let rec_ := q.makeRecord d
    let ev := eventBytes (descKind q.desc) 0 (q.depth + 1) (srcDie d) (q.handle d).toNat (slice rec_ 0 48)
    let n := freshHeld s.dies[d].held s.dies[d].held.length 0
    let s := s.setDie d { s.dies[d] with
      held := s.dies[d].held ++ [⟨n, q.ctx, EventRec.ofBytes ev 0, some rec_, 1⟩] }
    let q := { q with record := rec_, killing := q.bound }
    let s := s.setQuorum d q
    let s := s.post { ctx := q.ctx, obj := capObj (descStream q.desc), pos := none, slot := 0, bytes := ev, wid := 0, team := 0
                      posted := false, told := none, order := none }
    s.settleQuorum d q

/-- Quorum collectives of a register take their results (R344). -/
def State.formResults (s : State) (d : Fin 4) (q : Quorum) : State :=
  s.setDie d { s.dies[d] with collectives := s.dies[d].collectives.map fun c =>
    if c.q && c.ctx == q.ctx && c.group == q.handle d && c.result.isNone then
      { c with result := some (s.collResult q c) }
    else c }

/-- A release with a status and a stamp (R269). -/
def State.release (s : State) (d : Fin 4) (q : Quorum) (status stamp : Nat) : State :=
  let q := { q with state := .drain, status := status, stamp := stamp }
  let s := (s.setQuorum d q).formResults d q
  (s.fillAbsent q).finishRelease d q

/-! ## Arrivals and the deadline (R267, R268) -/

/-- A due deadline applied at or before a stamp: SHORT or FAILED (R268). -/
def State.applyDeadline (s : State) (d : Fin 4) (q : Quorum) (T : Nat) : State :=
  if q.state = .opened ∧ q.due ≤ (T : Int) then
    s.release d q (if descFloor q.desc ≤ q.arrivals then 2 else 3) q.due.toNat
  else s

/-- Member i arrives at stamp T in a quorum that is OPEN: its versions are committed and counted, its binding ends, and the
arrival that makes kreq releases MET (R267). -/
def State.accept (s : State) (d : Fin 4) (q : Quorum) (i T : Nat) : State :=
  let s := s.commit (q.handle d) i q.ctx
  let q := { q with arrived := q.arrived ||| BitVec.ofNat 64 (2 ^ i), bound := q.bound.filter fun b => b.1 != i }
  let s := s.setQuorum d q
  if q.arrivals = descKreq q.desc then s.release d q 1 T else s

/-- LATE advanced, saturating (R265, R267). -/
def Quorum.countLate (q : Quorum) : Quorum := { q with late := min (q.late + 1) 255 }

/-- The ticks at which a context's quorum clocks stand: those of the order while a save is under way (R277, R294). -/
def State.quorumNow (s : State) (ctx : Nat) (d : Fin 4) : Nat :=
  match (s.ctx ctx).clocks with
  | some v => v[d]
  | none => s.dies[d].ticks

/-- An arrival in the Frame: the deadline comes first; the answer is ACCEPTED or LATE (R267). -/
def State.arrival (s : State) (ctx : Nat) (h : W32) (i T : Nat) : State × Bool :=
  let d := handleDie h
  match s.quorum ctx h with
  | none => (s, false)
  | some q =>
    let s := s.applyDeadline d q T
    match s.quorum ctx h with
    | none => (s, false)
    | some q =>
      if q.state = .opened then (s.accept d q i T, true)
      else ((s.retract h i).setQuorum d q.countLate, false)

/-- QOPEN: a descriptor read, validated and copied into a FREE register (R264). -/
def execQopen (a : SReg) (k : KReg) (mk : Bool) (s : State) : Host.Outcome State Fault Refusal :=
  issue (.qopen a k mk) s fun x =>
    x.readStruct k.val (x.k k) 320 (fun c _ => onceTrap c k.val 0) fun y desc =>
      match firstFailure (y.st.descChecks y.tm.ctx desc) with
      | some off => .trap y { cause := 0x88, addr := off }
      | none =>
        let maxd := match y.st.postable y.tm.ctx (descStream desc) with | some b => b.maxd | none => 0
        if 7 < y.tm.depth + 1 ∨ maxd < y.tm.depth + 1 then .trap y { cause := 0x81 }
        else if (y.st.ctx y.tm.ctx).allowT < descQuota desc + y.st.quotas y.tm.ctx then .trap y { cause := 0x89 }
        else if 1024 ≤ (y.st.dies[y.tm.die]).quorums.length then .trap y { cause := 0x87 }
        else
          let r := y.st.openQuorum y.tm.die y.tm.ctx y.tm.depth desc
          Eff.ok ({ y with st := r.1 }.setS a (r.2.setWidth 64))

/-- QARR: the team's arrival as a member, sent once every earlier access is performed; the wave waits for the Frame's answer,
which the step QUORUM_ARRIVAL gives (R267, R386). A second QARR of the member finds its binding ended and traps. -/
def execQarr (b : SReg) (a : SReg) (mk : Bool) (s : State) : Host.Outcome State Fault Refusal :=
  issue (.qarr b a mk) s fun x =>
    let h := (x.s a).setWidth 32
    let i := (x.s b).toNat % 64
    match x.st.quorum x.tm.ctx h with
    | none => .trap x { cause := 0x84 }
    | some q =>
      if x.tm.member != some (h, i) || !q.isBound i x.tm.die x.tm.serial then .trap x { cause := 0x84 }
      else if x.wv.cc.k then x.stop
      else
        match x.was with
        | some (.quorumAnswer late) => .wait x (.quorumAnswer late)
        | _ => x.ordered fun y => .wait y (.quorumAnswer false)

/-- The word QSTAT reads (Table 13.6). -/
def Quorum.stat (q : Quorum) : Nat :=
  (if q.state = .opened then 0 else q.status) + q.arrivals * 2 ^ 8 + q.late * 2 ^ 16 + q.killing.length * 2 ^ 24

/-- QSTAT (R275). -/
def execQstat (b : SReg) (a : SReg) (mk : Bool) (s : State) : Host.Outcome State Fault Refusal :=
  issue (.qstat b a mk) s fun x =>
    match x.st.quorum x.tm.ctx ((x.s a).setWidth 32) with
    | none => .trap x { cause := 0x84 }
    | some q => Eff.ok (x.setS b (BitVec.ofNat 64 q.stat))

/-- QSCALE (R274). -/
def execQscale (b : SReg) (a : SReg) (mk : Bool) (s : State) : Host.Outcome State Fault Refusal :=
  issue (.qscale b a mk) s fun x =>
    match x.st.quorum x.tm.ctx ((x.s a).setWidth 32) with
    | none => .trap x { cause := 0x84 }
    | some q => Eff.ok (x.setS b (BitVec.ofNat 64 q.scale))

end Sys2Proof.Machine
end

