-- ==== Sys2Proof/Machine/Engine.lean ====
section
/-! DEFINITION. The copy engine: parameter blocks and checks (R333, R346, R358, R334, R341), admission (R139, R173, R348),
footprints (R173, R361), and the running and ending of CPY, GATH and BLD (R347, R360, R237, R429). -/

namespace Sys2Proof.Machine

/-! ## Parameters -/

/-- Scalar i of a command's parameter block. -/
def EngineCmd.p (e : EngineCmd) (i : Nat) : Nat := e.params.getD i 0

/-- DST, N, DPITCH, RB, SBASE, SSTRIDE, IOFF of a GATH (R238). -/
def EngineCmd.dst_ (e : EngineCmd) : Nat := field (e.p 0) 0 24
/-- N of a GATH. -/
def EngineCmd.rowCount (e : EngineCmd) : Nat := field (e.p 0) 24 7 + 1
/-- DPITCH of a GATH. -/
def EngineCmd.dpitch (e : EngineCmd) : Nat := field (e.p 0) 32 16
/-- RB of a GATH. -/
def EngineCmd.rowBytes (e : EngineCmd) : Nat := field (e.p 0) 48 16

/-- BBLK0 of a BLD (R237). -/
def EngineCmd.block0 (e : EngineCmd) : Nat := field (e.p 0) 0 7
/-- C0 of a BLD. -/
def EngineCmd.col0 (e : EngineCmd) : Nat := field (e.p 0) 8 6
/-- NC of a BLD. -/
def EngineCmd.colCount (e : EngineCmd) : Nat := field (e.p 0) 16 6 + 1
/-- NB of a BLD. -/
def EngineCmd.blockCount (e : EngineCmd) : Nat := field (e.p 0) 24 7 + 1
/-- SRCSP of a BLD. -/
def EngineCmd.fromScratch (e : EngineCmd) : Bool := fieldBit (e.p 0) 32
/-- The bytes from the first source byte of a BLD to its last. -/
def EngineCmd.bldSpread (e : EngineCmd) : Nat := (e.colCount - 1) * e.p 2 + 256 * e.blockCount

/-- LEN of a CPY or a COLL. -/
def EngineCmd.len (e : EngineCmd) : Nat := if e.sub = 0 then e.p 2 else e.p 1
/-- SOFF. -/
def EngineCmd.soff (e : EngineCmd) : Nat := if e.sub = 0 then e.p 0 else e.p 2
/-- DOFF. -/
def EngineCmd.doff (e : EngineCmd) : Nat := if e.sub = 0 then e.p 1 else e.p 3

/-- OP of a COLL (Table 16.11). -/
def EngineCmd.collOp (e : EngineCmd) : Nat := field (e.p 0) 32 4
/-- RANK. -/
def EngineCmd.rank (e : EngineCmd) : Nat := field (e.p 0) 16 13
/-- NP. -/
def EngineCmd.ranks (e : EngineCmd) : Nat := field (e.p 0) 0 13 + 1
/-- Q. -/
def EngineCmd.ofQuorum (e : EngineCmd) : Bool := fieldBit (e.p 4) 47
/-- HDIE. -/
def EngineCmd.homeDie (e : EngineCmd) : Fin 4 := fieldFin 4 (field (e.p 4) 45 2) 0
/-- HMOD. -/
def EngineCmd.homeModule (e : EngineCmd) : Nat := field (e.p 4) 32 13
/-- GROUP. -/
def EngineCmd.group (e : EngineCmd) : W32 := BitVec.ofNat 32 (field (e.p 4) 0 32)

/-! ## Ranges, footprints and order (R173, R361) -/

/-- A range of bytes of an object that a command reads or writes: the capability, its offset and the bytes. -/
structure Range where
  cap : Cap
  off : Nat
  len : Nat
deriving DecidableEq, Repr

/-- The index range of a GATH (R359). -/
def EngineCmd.indexRange (e : EngineCmd) : Range := ⟨e.src, e.p 3, 4 * e.rowCount⟩

/-- Memory ranges a command reads: of a GATH its index range and its source rows, which are all that its capability covers where a page
of the index range is not there yet (R361; log 49). -/
def EngineCmd.reads (e : EngineCmd) : List Range :=
  match e.sub with
  | 0 => if e.zero then [] else [⟨e.src, e.soff, e.len⟩]
  | 1 =>
    match e.indices with
    | none => [⟨e.src, 0, capLen e.src⟩]
    | some is => e.indexRange :: (is.filter fun i => i != 0xFFFFFFFF).map fun i => ⟨e.src, e.p 1 + i * e.p 2, e.rowBytes⟩
  | 2 => if e.fromScratch then [] else [⟨e.src, e.p 1, e.bldSpread⟩]
  | _ => if e.sent then [] else [⟨e.src, e.soff, e.len⟩]

/-- Memory ranges a command writes. -/
def EngineCmd.writes (e : EngineCmd) : List Range :=
  match e.sub with
  | 0 | 3 => [⟨e.dst, e.doff, e.len⟩]
  | _ => []

/-- Scratchpad bytes a command writes: the first and how many. -/
def EngineCmd.scratchWrites (e : EngineCmd) : List (Nat × Nat) :=
  if e.sub = 1 then [(e.dst_, e.rowCount * e.dpitch)] else []

/-- Scratchpad bytes a command has still to read. -/
def EngineCmd.scratchReads (e : EngineCmd) : List (Nat × Nat) :=
  if e.sub = 2 ∧ e.fromScratch ∧ e.data = none then [(e.p 1 % 2 ^ 24, e.bldSpread)] else []

/-- Two ranges share a 256-byte sector; ranges of two alias objects may. -/
def State.rangesMeet (s : State) (ca cb : Nat) (a b : Range) : Bool :=
  decide (a.len ≠ 0) && decide (b.len ≠ 0) &&
    ((s.aliased ca (capObj a.cap) && s.aliased cb (capObj b.cap)) ||
      (decide (ca = cb) && capObj a.cap == capObj b.cap &&
        decide ((capBase a.cap + a.off) / 256 ≤ (capBase b.cap + b.off + b.len - 1) / 256) &&
        decide ((capBase b.cap + b.off) / 256 ≤ (capBase a.cap + a.off + a.len - 1) / 256)))

/-- Two scratchpad ranges share a 256-byte sector. -/
def scratchMeet (a b : Nat × Nat) : Bool :=
  decide (a.1 / 256 ≤ (b.1 + b.2 - 1) / 256) && decide (b.1 / 256 ≤ (a.1 + a.2 - 1) / 256)

/-- Two commands of one core have a read-after-write, write-after-read or write-after-write pairing (R173, R361), or write
one B-slice block (R235). -/
def State.clash (s : State) (a b : EngineCmd) : Bool :=
  let mem := fun (xs ys : List Range) => xs.any fun x => ys.any fun y => s.rangesMeet a.ctx b.ctx x y
  let scr := fun (xs ys : List (Nat × Nat)) => xs.any fun x => ys.any fun y => scratchMeet x y
  mem a.writes (b.reads ++ b.writes) || mem a.reads b.writes ||
    (a.die == b.die && a.team == b.team &&
      (scr a.scratchWrites (b.scratchReads ++ b.scratchWrites) || scr a.scratchReads b.scratchWrites)) ||
    (a.sub == 2 && b.sub == 2 && spansMeet (bldSpan a) (bldSpan b))

/-- A command is the one of a ticket. -/
def EngineCmd.same (a b : EngineCmd) : Bool :=
  a.die == b.die && a.team == b.team && a.wave == b.wave && a.serial == b.serial

/-- No earlier command of the core has a pairing with it. -/
def State.clearOf (s : State) (e : EngineCmd) (es : List EngineCmd) : Bool :=
  (es.takeWhile fun a => !a.same e).all fun a => !s.clash a e

/-- A pass issued before a BLD at its core, or paired with it, reads a block it writes (R235). -/
def State.passesBefore (s : State) (die : Fin 4) (core : Nat) (e : EngineCmd) : Bool :=
  s.cores.any fun c =>
    c.die == die &&
      c.queue.any fun q =>
        q.meets e && decide (q.age < e.age) &&
          (c.num == core || (q.paired && (s.findTeam die q.team).any fun t => t.2.follower == some core))

/-- A command may run now: it waits on no object, and everything it is ordered behind has ended. -/
def State.mayRun (s : State) (die : Fin 4) (core : Nat) (e : EngineCmd) : Bool :=
  e.waiting.isNone && s.clearOf e (s.core die core).engines && !s.passesBefore die core e

/-! ## Reading and placing bytes -/

/-- What keeps a command from going on: a fault that ends it, or a wait for a page (R156). -/
inductive EngStop where
  | fault (cause : Nat)
  | stall (cause mgen obj page access : Nat)
deriving DecidableEq, Repr

/-- The stop of a page that is not there. -/
def stallAt (cap : Cap) (o cause mgen access : Nat) : EngStop :=
  .stall cause mgen (capObj cap) ((capBase cap + o) / 65536) access

/-- Where a byte at capability offset `o` lies for the engine (R152, R153): its physical address; none for another
module's. `kept`: the objects revoked since the command's admission (R157). -/
def State.engineAt (s : State) (die : Fin 4) (core ctx : Nat) (kept : List Nat) (cap : Cap) (o access : Nat) :
    State × Except EngStop (Option Nat) :=
  if remoteObj (capObj cap) then (s, .ok none)
  else
    let r := if kept.contains (capObj cap) then (s, s.translateKept ctx (capObj cap) (capBase cap + o))
      else s.translate die core ctx (domainOf ctx cap) (capObj cap) (capBase cap + o) (capGen cap)
    match r with
    | (s, .mem pa _) => (s, .ok (some pa))
    | (s, .unfinished c g) => (s, .error (stallAt cap o c g access))
    | (s, .failed c) => (s, .error (.fault c))
    | (s, .stale) | (s, .l1 _) | (s, .remote) => (s, .error (.fault 0x22))

/-- The part of a sector of another module that a command reads or writes (R304; log 17). -/
def State.engineRemote (s : State) (ctx : Nat) (cap : Cap) (key o access : Nat) (ok : List Byte) : Except EngStop (List Byte) :=
  match s.remote ctx (capObj cap) key (.bytes ok) with
  | .bytes bs => .ok bs
  | .fault c => .error (.fault c)
  | .unfinished c g => .error (stallAt cap o c g access)
  | .queued _ => .ok ok

/-- `n` bytes from capability offset `o` read at their homes, sector by sector, at most `fuel` sectors. -/
def State.engineRead (s : State) (die : Fin 4) (core ctx key : Nat) (kept : List Nat) (cap : Cap) :
    Nat → Nat → Nat → State × Except EngStop (List Byte)
  | 0, _, _ => (s, .ok [])
  | fuel + 1, o, n =>
    if n = 0 then (s, .ok [])
    else
      let w := min n (256 - (capBase cap + o) % 256)
      let got : State × Except EngStop (List Byte) :=
        match s.engineAt die core ctx kept cap o 3 with
        | (s, .error e) => (s, .error e)
        | (s, .ok none) => (s, s.engineRemote ctx cap key o 3 (s.remoteBytes (key * 2 ^ 41 + o) w))
        | (s, .ok (some pa)) =>
          match s.homeRead pa (domainOf ctx cap) with
          | (s, d, bad) => (s, if bad then .error (.fault 0x2A) else .ok (slice d (pa % 256) w))
      match got with
      | (s, .error e) => (s, .error e)
      | (s, .ok bs) =>
        match s.engineRead die core ctx key kept cap fuel (o + w) (n - w) with
        | (s, .ok cs) => (s, .ok (bs ++ cs))
        | r => r

/-- Bytes of a stream block, which no engine command writes (R184). -/
def State.engineForbids (s : State) (ctx : Nat) (cap : Cap) (o : Nat) : Bool :=
  (s.ctx ctx).streams.contains (capObj cap) && decide (capBase cap + o < 64)

/-- The places of a destination, each within one sector, with the bytes that go there; bytes for another module go to no
place here. -/
def State.enginePlaces (s : State) (die : Fin 4) (core ctx key : Nat) (kept : List Nat) (cap : Cap) :
    Nat → Nat → List Byte → State × Except EngStop (List (Nat × List Byte))
  | 0, _, _ => (s, .ok [])
  | fuel + 1, o, bs =>
    if bs.isEmpty then (s, .ok [])
    else
      let w := min bs.length (256 - (capBase cap + o) % 256)
      let at_ : State × Except EngStop (List (Nat × List Byte)) :=
        if s.engineForbids ctx cap o then (s, .error (.fault 0x21))
        else
          match s.engineAt die core ctx kept cap o 4 with
          | (s, .error e) => (s, .error e)
          | (s, .ok none) => (s, (s.engineRemote ctx cap key o 4 []).map fun _ => [])
          | (s, .ok (some pa)) => (s, .ok [(pa, bs.take w)])
      match at_ with
      | (s, .error e) => (s, .error e)
      | (s, .ok p) =>
        match s.enginePlaces die core ctx key kept cap fuel (o + w) (bs.drop w) with
        | (s, .ok ps) => (s, .ok (p ++ ps))
        | r => r

/-- Bytes written at their homes: a whole sector is a sharing event, a part of one is not (R131). -/
def State.performPieces (s : State) (dom : Nat) : List (Nat × List Byte) → State
  | [] => s
  | (pa, bs) :: ps =>
    (if bs.length = 256 then s.pokeWhole pa dom bs else s.pokeSector pa dom bs).performPieces dom ps

/-- The aligned eight-byte pieces of a range of `n` bytes from an object offset: offset in the range and bytes. -/
def eights (off : Nat) : Nat → Nat → Nat → List (Nat × Nat)
  | 0, _, _ => []
  | fuel + 1, o, n =>
    if n = 0 then []
    else
      let w := min n (8 - (off + o) % 8)
      (o, w) :: eights off fuel (o + w) (n - w)

/-- What a command that ended with a fault had written (R429): of every aligned eight bytes whose new content could be read
and whose place could be reached, all or nothing. `bytes`: the new content of a piece. -/
def State.enginePartial (s : State) (die : Fin 4) (core : Nat) (e : EngineCmd)
    (bytes : Nat → Nat → Option (List Byte)) : State :=
  let ps := (eights (capBase e.dst + e.doff) (e.len / 8 + 2) 0 e.len).zipIdx.filterMap fun c =>
    if !Config.engineWrites s.free c.2 then none
    else
      match bytes c.1.1 c.1.2 with
      | none => none
      | some bs =>
        match (s.enginePlaces die core e.ctx e.serial e.kept e.dst 2 (e.doff + c.1.1) bs).2 with
        | .ok ps => some ps
        | .error _ => none
  s.performPieces (domainOf e.ctx e.dst) ps.flatten

/-! ## Running a command -/

/-- A command of a core replaced. -/
def State.setEngine (s : State) (die : Fin 4) (core : Nat) (e : EngineCmd) : State :=
  let c := s.core die core
  s.setCore { c with engines := c.engines.map fun a => if a.same e then e else a }

/-- A destination of bytes known whole written, or the stop that its places meet; on a fault, a part of it (R429). -/
def State.engineWrite (s : State) (die : Fin 4) (core : Nat) (e : EngineCmd) (data : List Byte) : State × Option EngStop :=
  match s.enginePlaces die core e.ctx e.serial e.kept e.dst (e.len / 256 + 2) e.doff data with
  | (t, .ok ps) => (t.performPieces (domainOf e.ctx e.dst) ps, none)
  | (_, .error (.fault c)) => (s.enginePartial die core e fun o w => some (slice data o w), some (.fault c))
  | (_, .error st) => (s, some st)

/-- CPY (R347): every source byte is read before a destination byte is written. -/
def State.runCpy (s : State) (die : Fin 4) (core : Nat) (e : EngineCmd) : State × Option EngStop :=
  let read := if e.zero then (s, .ok (zeros e.len))
    else s.engineRead die core e.ctx e.serial e.kept e.src (e.len / 256 + 2) e.soff e.len
  match read with
  | (t, .ok data) => t.engineWrite die core e data
  | (_, .error (.fault c)) =>
    (s.enginePartial die core e fun o w =>
      match (s.engineRead die core e.ctx e.serial e.kept e.src 2 (e.soff + o) w).2 with
      | .ok bs => some bs
      | .error _ => none, some (.fault c))
  | (_, .error st) => (s, some st)

/-- 32-bit words of a byte string. -/
def words32 (bs : List Byte) : Nat → List Nat
  | 0 => []
  | n + 1 => bytesNat bs 0 4 :: words32 (bs.drop 4) n

/-- The indices of a GATH, read once (R360). -/
def State.gathIndices (s : State) (die : Fin 4) (core : Nat) (e : EngineCmd) : State × Except EngStop EngineCmd :=
  match e.indices with
  | some _ => (s, .ok e)
  | none =>
    match s.engineRead die core e.ctx e.serial e.kept e.src 3 (e.p 3) (4 * e.rowCount) with
    | (s, .ok bs) => (s, .ok { e with indices := some (words32 bs e.rowCount) })
    | (s, .error st) => (s, .error st)

/-- A row of a GATH lies in its capability (R359). -/
def EngineCmd.rowFits (e : EngineCmd) (i : Nat) : Bool :=
  i == 0xFFFFFFFF || decide (e.p 1 + i * e.p 2 + e.rowBytes ≤ capLen e.src)

/-- A team's scratchpad on a core written; a team that is gone has none. -/
def State.writeScratch (s : State) (die : Fin 4) (team : W32) (core off : Nat) (bs : List Byte) : State :=
  match s.findTeam die team with
  | none => s
  | some (i, t) => s.setTeam i (t.setScratch core ((t.onCore core).scratch.writeBytes off bs))

/-- Rows of a GATH written in ascending order up to the first that cannot be read (R359, R360). -/
def State.gathRows (s : State) (die : Fin 4) (core : Nat) (e : EngineCmd) : Nat → List Nat → State × Option EngStop
  | _, [] => (s, none)
  | i, x :: xs =>
    let row := if x = 0xFFFFFFFF then (s, .ok (zeros e.rowBytes))
      else s.engineRead die core e.ctx (e.serial + i) e.kept e.src (e.rowBytes / 256 + 2) (e.p 1 + x * e.p 2) e.rowBytes
    match row with
    | (s, .error st) => (s, some st)
    | (s, .ok bs) => (s.writeScratch die e.team core (e.dst_ + i * e.dpitch) bs).gathRows die core e (i + 1) xs

/-- GATH (R360). -/
def State.runGath (s : State) (die : Fin 4) (core : Nat) (e : EngineCmd) : State × Option EngStop :=
  match s.gathIndices die core e with
  | (_, .error st) => (s, some st)
  | (t, .ok e) =>
    let t := t.setEngine die core e
    let is := e.indices.getD []
    if !is.all e.rowFits then (t, some (.fault 0x20))
    else
      match t.gathRows die core e 0 is with
      | (_, some (.stall c g o p a)) => (t, some (.stall c g o p a))
      | r => r

/-- A B-slice block of a core written (R225); the array of a team that is gone is not its own any more (R271). -/
def State.writeBlock (s : State) (die : Fin 4) (team : W32) (core col blk : Nat) (bs : List Byte) : State :=
  if (s.findTeam die team).isNone then s
  else
    let c := s.core die core
    s.setCore { c with slices := c.slices.writeBytes (32768 * col + 256 * blk) bs }

/-- The blocks of a BLD in the order they are written: column and block from its first (R429). -/
def EngineCmd.blocks (e : EngineCmd) : List (Nat × Nat) :=
  ((List.range e.colCount).map fun c => (List.range e.blockCount).map fun b => (c, b)).flatten

/-- Blocks of a BLD written up to the first that cannot be read. `scr`: the source where it is the scratchpad. -/
def State.bldBlocks (s : State) (die : Fin 4) (core : Nat) (e : EngineCmd) (scr : List Byte) :
    List (Nat × Nat) → State × Option EngStop
  | [] => (s, none)
  | (c, b) :: bs =>
    let at_ := c * e.p 2 + 256 * b
    let got := if e.fromScratch then (s, .ok (slice scr at_ 256))
      else s.engineRead die core e.ctx (e.serial + 128 * c + b) e.kept e.src 3 (e.p 1 + at_) 256
    match got with
    | (s, .error st) => (s, some st)
    | (s, .ok d) => (s.writeBlock die e.team core (e.col0 + c) (e.block0 + b) d).bldBlocks die core e scr bs

/-- BLD (R237). -/
def State.runBld (s : State) (die : Fin 4) (core : Nat) (e : EngineCmd) : State × Option EngStop :=
  match s.bldBlocks die core e (e.data.getD []) e.blocks with
  | (_, some (.stall c g o p a)) => (s, some (.stall c g o p a))
  | r => r

/-! ## Ending a command -/

/-- The outcome of a command kept by its wave (R348). -/
def Wave.setOutcome (w : Wave) (serial : Nat) (cause : Option Nat) : Wave :=
  { w with outcomes := w.outcomes.map fun o =>
      if o.serial == serial then { o with ended := true, cause := cause.map (BitVec.ofNat 8) } else o }

/-- A command ends, with a cause or none. -/
def State.endEngine (s : State) (die : Fin 4) (core : Nat) (e : EngineCmd) (cause : Option Nat) : State :=
  let c := s.core die core
  let s := s.setCore { c with engines := c.engines.filter fun a => !a.same e }
  let s := if cause.isNone then s.count die core 11 (some e.ctx) 1 else s
  match s.findTeam e.die e.team with
  | none => s
  | some (i, t) => s.setTeam i (t.mapWave e.wave fun w => w.setOutcome e.serial cause)

/-- A command waits for a page: it keeps its admission, and the event of Table 7.6 is posted, with the WID that the issuing wave has now
(R156). -/
def State.stallEngine (s : State) (die : Fin 4) (core : Nat) (e : EngineCmd) (cause mgen obj page access : Nat) : State :=
  let wid := match s.findTeam die e.team with
    | some (_, t) => ((t.waves.find? fun w => w.number.val == e.wave).map fun w => widOf die w).getD e.wid
    | none => e.wid
  (s.setEngine die core { e with waiting := some obj }).postTranslation die core e.wave e.ctx wid e.team cause obj page
    mgen access

/-! ## Admission (R139, R173, R333, R348) -/

/-- The set of the L2 a physical address lies in; none for LP6. -/
def pinSet (pa : Nat) : Option (Fin 4 × Nat × Nat) :=
  match homeOf pa with
  | some (.die d) => some (d, sliceOf (lineOf pa), setOf (lineOf pa))
  | _ => none

/-- The lines of memory ranges, one physical address in each. -/
def State.linesOf (s : State) (ctx : Nat) (rs : List Range) : List Nat :=
  ((rs.map fun r =>
    let lo := (capBase r.cap + r.off) / 1024
    let n := if r.len = 0 then 0 else (capBase r.cap + r.off + r.len - 1) / 1024 + 1 - lo
    (List.range n).filterMap fun i => s.objectPa ctx (capObj r.cap) (1024 * (lo + i)))).flatten

/-- Every pin of the module. -/
def State.allPins (s : State) : List Nat := (s.cores.map fun c => (c.engines.map fun e => e.pins).flatten).flatten

/-- Addresses of a list that lie in a set. -/
def inSet (k : Option (Fin 4 × Nat × Nat)) (pas : List Nat) : Nat := (pas.filter fun pa => pinSet pa == k).length

/-- The lines of the issuing core's L1 that a command's writes pin, at most 14 of a set (R138, R139; log 23). -/
def linesL1 (ctx : Nat) (rs : List Range) : List (Nat × Nat × Nat) :=
  (rs.map fun r =>
    let lo := (capBase r.cap + r.off) / 1024
    let n := if r.len = 0 then 0 else (capBase r.cap + r.off + r.len - 1) / 1024 + 1 - lo
    (List.range (min n (14 * 128))).map fun i => (domainOf ctx r.cap, capObj r.cap, lo + i)).flatten

/-- Lines of a list that lie in a set of an L1. -/
def inSetL1 (k : Nat) (ls : List (Nat × Nat × Nat)) : Nat := (ls.filter fun x => x.2.2 % 128 == k).length

/-- A command must wait for other commands' pins in L1 to clear (R139; log 23). -/
def pinsFullL1 (held own : List (Nat × Nat × Nat)) : Bool :=
  own.any fun x =>
    inSetL1 (x.2.2 % 128) held != 0 &&
      decide (14 < inSetL1 (x.2.2 % 128) (held ++ own.filter fun y => !held.contains y))

/-- The pins that a command takes beside those held: at most 14 lines of a set (R139; log 23). -/
def takePins (held : List Nat) : List Nat → List Nat → List Nat
  | [], acc => acc
  | pa :: pas, acc =>
    takePins held pas
      (if (pinSet pa).isSome ∧ !held.contains pa ∧ inSet (pinSet pa) (held ++ acc) < 14 then acc ++ [pa] else acc)

/-- A command must wait for other commands' pins to clear (R139; log 23). -/
def pinsFull (held own : List Nat) : Bool :=
  own.any fun pa =>
    (pinSet pa).isSome && inSet (pinSet pa) held != 0 &&
      decide (14 < inSet (pinSet pa) (held ++ own.filter fun p => !held.contains p))

/-- The serial after one more admission (R348). -/
def nextSerial (n : Nat) : Nat := if n = 0xFFFFFFFF then 1 else n + 1

/-- An earlier command of the core has still to write what a command reads at its admission, the indices of a GATH or the scratchpad
source of a BLD: the command waits for it at footprint admission (R173, R361; log 49). -/
def Iss.readsLate (x : Iss) (e : EngineCmd) : Bool :=
  (x.st.core x.tm.die x.wv.core).engines.any fun a =>
    (e.sub == 1 && a.writes.any fun r => x.st.rangesMeet a.ctx e.ctx r e.indexRange) ||
      (a.die == e.die && a.team == e.team && a.scratchWrites.any fun r => e.scratchReads.any fun q => scratchMeet r q)

/-- How a command stands once it is admitted: it runs in its turn, has ended, or waits for a page. -/
inductive Admitted where
  | runs
  | ended (cause : Option Nat)
  | stalled (cause mgen obj page access : Nat)
deriving DecidableEq, Repr

/-- What a command reads at its admission: the indices of a GATH (R238) and the scratchpad source of a BLD (R334). A fault there ends
the command, a page that is not there makes it wait (R156). A CPY of no bytes has ended (R347). -/
def Iss.atAdmission (x : Iss) (e : EngineCmd) : State × EngineCmd × Admitted :=
  match e.sub with
  | 0 => (x.st, e, if e.len = 0 then .ended none else .runs)
  | 1 =>
    match x.st.gathIndices x.tm.die x.wv.core e with
    | (s, .ok e) => (s, e, if (e.indices.getD []).all e.rowFits then .runs else .ended (some 0x20))
    | (s, .error (.fault c)) => (s, e, .ended (some c))
    | (s, .error (.stall c g o p a)) => (s, { e with waiting := some o }, .stalled c g o p a)
  | 2 => (x.st, if e.fromScratch then { e with data := some (x.scratch.readBytes (e.p 1) e.bldSpread) } else e, .runs)
  | _ => (x.st, e, .runs)

/-- The outcomes a wave keeps: its 256 newest, and those that a split waits for (R348, R350). -/
def Wave.keepOutcomes (w : Wave) (os : List Outcome) : List Outcome :=
  let named := fun (o : Outcome) => w.liveSplits.any fun p =>
    match p.2.status with
    | .waiting (.ewait t) => field t.toNat 0 32 == o.serial
    | _ => false
  ((os.take (os.length - 256)).filter named) ++ os.drop (os.length - 256)

/-- A command admitted: its ticket, its place in the core, and what it reads now (R333, R348). -/
def Iss.admitNow (y : Iss) (t : SReg) (e : EngineCmd) : Eff :=
  let serial := nextSerial y.wv.serial
  let r := y.atAdmission { e with serial := serial }
  let e := r.2.1
  let ticket := 2 ^ 63 + y.wv.number.val * 2 ^ 40 + e.sub * 2 ^ 32 + serial
  let out : Outcome := match r.2.2 with
    | .ended c => ⟨serial, e.sub, true, c.map (BitVec.ofNat 8)⟩
    | .runs | .stalled _ _ _ _ _ => ⟨serial, e.sub, false, none⟩
  let w := { y.wv with
    serial := serial, outcomes := y.wv.keepOutcomes (y.wv.outcomes ++ [out]), cc := { y.wv.cc with e := true } }
  let c := r.1.core y.tm.die y.wv.core
  let s := match r.2.2 with
    | .ended none => r.1.count y.tm.die y.wv.core 11 (some y.tm.ctx) 1
    | .ended (some _) => r.1
    | .runs => r.1.setCore { c with engines := c.engines ++ [e] }
    | .stalled cause mgen obj page access =>
      (r.1.setCore { c with engines := c.engines ++ [e] }).postTranslation y.tm.die y.wv.core e.wave e.ctx e.wid e.team cause obj page
        mgen access
  Eff.ok ({ y with st := s, wv := w }.setS t (BitVec.ofNat 64 ticket))

/-- A command that has passed its checks: admitted after everything its wave stored and published is performed (R173), where the
limits, the pins and what it reads at admission allow, else the wave waits at footprint admission with fetch suspended (R333). -/
def Iss.enter (x : Iss) (t : SReg) (e : EngineCmd) : Eff :=
  let c := x.st.core x.tm.die x.wv.core
  let mine := c.engines.filter fun a => a.die == x.tm.die && a.team == x.tm.serial && a.wave == x.wv.number.val
  let lines := x.st.linesOf x.tm.ctx e.writes
  let near := linesL1 x.tm.ctx e.writes
  let held := x.st.allPins
  if 16 ≤ mine.length ∨ 64 ≤ c.engines.length ∨ pinsFull held lines ∨ pinsFullL1 c.l1Pinned near ∨ x.readsLate e then
    .wait x .admission
  else
    x.ordered fun y =>
      y.admitNow t { e with pins := takePins held lines [], pins1 := near.filter fun l => !c.l1Pinned.contains l }

/-- A command of the issuing wave. -/
def Iss.engineCmd (x : Iss) (sub : Nat) (p : SReg) (n : Nat) (ks kd : KReg) : EngineCmd where
  die := x.tm.die
  team := x.tm.serial
  wave := x.wv.number.val
  wid := widOf x.tm.die x.wv
  ctx := x.tm.ctx
  sub := sub
  serial := 0
  params := (List.range n).map fun i => (x.sBlock p i).toNat
  src := x.k ks
  dst := x.k kd
  zero := ks = 0
  age := x.st.free
  waiting := none
  sent := false
  indices := none
  data := none
  pins := []
  pins1 := []
  kept := []

/-- A capability range of a command checked whole (R333): validity, rights, bounds. -/
def engineCheck (k : KReg) (cap : Cap) (right o n : Nat) : Option Trap :=
  if !capValid cap then some (onceTrap 0x23 k.val o)
  else if !capHas cap (right + 8) || capTent cap then some (onceTrap 0x21 k.val o)
  else if capLen cap < o + n then some (onceTrap 0x20 k.val o)
  else none

/-- Some of the scalars has a bit at or above bit 40. -/
def EngineCmd.wide (e : EngineCmd) (is : List Nat) : Bool := is.any fun i => decide (2 ^ 40 ≤ e.p i)

/-- The end of the checks: ENG_PARAM, else the first capability that fails, else admission. -/
def Iss.engine (x : Iss) (t : SReg) (e : EngineCmd) (bad : Bool) (checks : List (Option Trap)) : Eff :=
  if bad then .trap x { cause := 0x67 }
  else
    match checks.findSome? id with
    | some tr => .trap x tr
    | none => x.enter t e

/-- CPY (R346, R347). -/
def execCpy (t : SReg) (p : SReg) (ks : KReg) (kd : KReg) (mk : Bool)
    (s : State) : Host.Outcome State Fault Refusal :=
  issue (.cpy t p ks kd mk) s fun x =>
    let e := x.engineCmd 0 p 3 ks kd
    x.engine t e (e.wide [0, 1, 2] || (e.zero && e.p 0 != 0))
      [engineCheck kd e.dst 2 e.doff e.len, if e.zero then none else engineCheck ks e.src 1 e.soff e.len]

/-- The parameters of a GATH break a limit (R238, R358). -/
def EngineCmd.gathBad (e : EngineCmd) (scru : Nat) : Bool :=
  fieldBit (e.p 0) 31 || e.wide [1, 2, 3] || decide (64 < e.rowCount) || decide (e.rowBytes < 16) ||
    decide (e.dpitch < e.rowBytes) || decide (4096 < e.dpitch) || e.rowBytes % 16 != 0 || e.dpitch % 16 != 0 ||
    e.p 3 % 4 != 0 || decide (scru * 16384 < e.dst_ + e.rowCount * e.dpitch) || decide (2 ^ 40 < e.p 3 + 4 * e.rowCount)

/-- GATH (R238, R358 to R361). -/
def execGath (t : SReg) (p : SReg) (ks : KReg) (mk : Bool) (s : State) : Host.Outcome State Fault Refusal :=
  issue (.gath t p ks mk) s fun x =>
    let e := x.engineCmd 1 p 4 ks 0
    x.engine t e (e.gathBad x.tm.scru) [engineCheck ks e.src 1 (e.p 3) (4 * e.rowCount)]

/-- The parameters of a BLD break a limit (R237, R334). -/
def EngineCmd.bldBad (e : EngineCmd) (ks scru : Nat) : Bool :=
  fieldBit (e.p 0) 7 || field (e.p 0) 14 2 != 0 || field (e.p 0) 22 2 != 0 || fieldBit (e.p 0) 31 ||
    field (e.p 0) 33 31 != 0 || decide (64 < e.col0 + e.colCount) || decide (128 < e.block0 + e.blockCount) ||
    e.wide [1, 2] ||
    (e.fromScratch && (ks != 0 || decide (2 ^ 24 ≤ e.p 1) || decide (scru * 16384 < e.p 1 + e.bldSpread)))

/-- BLD (R237, R334). -/
def execBld (t : SReg) (p : SReg) (ks : KReg) (mk : Bool) (s : State) : Host.Outcome State Fault Refusal :=
  issue (.bld t p ks mk) s fun x =>
    let e := x.engineCmd 2 p 3 ks 0
    x.engine t e (e.bldBad ks.val x.tm.scru)
      [if e.fromScratch then none else engineCheck ks e.src 1 (e.p 1) e.bldSpread]

/-- The parameters of a COLL break a limit (R341). -/
def EngineCmd.collBad (e : EngineCmd) (ks : Nat) : Bool :=
  ks == 0 || field (e.p 0) 36 28 != 0 || decide (6 < e.collOp) || field (e.p 0) 29 3 != 0 ||
    field (e.p 0) 13 3 != 0 || decide (e.ranks ≤ e.rank) || decide (8192 < e.ranks) || e.wide [1, 2, 3] ||
    e.len % 256 != 0 || e.len == 0 || decide (2 ^ 20 < e.len) || field (e.p 4) 48 16 != 0

/-- COLL (R341 to R345). -/
def execColl (t : SReg) (p : SReg) (ks : KReg) (kd : KReg) (mk : Bool)
    (s : State) : Host.Outcome State Fault Refusal :=
  issue (.coll t p ks kd mk) s fun x =>
    let e := x.engineCmd 3 p 5 ks kd
    x.engine t e (e.collBad ks.val)
      [engineCheck kd e.dst 2 e.doff e.len, engineCheck ks e.src 1 e.soff e.len]

/-- A cursor names a wave that serves a split: no other split of it issues (R282). -/
def State.serving (s : State) (c : Cursor) : Bool := (s.waveAt c).any fun x => x.2.svc.isSome

/-- ENGINE_ADMISSION: the split at a cursor that waits at footprint admission tries again (R333), but not while its wave serves a split
(R282). -/
def execEngineAdmission (team wave : Nat) (slot : Fin 4) (s : State) : Host.Outcome State Fault Refusal :=
  match (if s.serving ⟨team, wave, slot⟩ then none else s.fetchAt ⟨team, wave, slot⟩) with
  | some (t, .cpy d p ks kd mk) => execCpy d p ks kd mk t
  | some (t, .gath d p ks mk) => execGath d p ks mk t
  | some (t, .bld d p ks mk) => execBld d p ks mk t
  | some (t, .coll d p ks kd mk) => execColl d p ks kd mk t
  | _ => .next s

end Sys2Proof.Machine
end

