-- ==== Sys2Proof/Machine/Coll.lean ====
section
/-! DEFINITION. COLL after its admission: contributions at the collecting home (R342, R344), results (R343), and how engine
commands complete or end (R173, R156, R429). -/

namespace Sys2Proof.Machine

/-- A command of a core by its place in the list. -/
def State.engineOf (s : State) (die : Fin 4) (core index : Nat) : Option EngineCmd := (s.core die core).engines[index]?

/-- The collecting home of a command is this module. -/
def State.homeHere (s : State) (e : EngineCmd) : Bool := e.homeModule == s.module.toNat

/-- The collecting home's module cannot be reached (R304; log 17). -/
def State.homeLost (s : State) (e : EngineCmd) : Bool :=
  !s.homeHere e && s.moduleLost e.ctx e.homeModule

/-- A contribution belongs to a command. -/
def Contribution.isOf (p : Contribution) (core : Nat) (e : EngineCmd) : Bool :=
  p.home == some (e.die, core, e.team, e.wave, e.serial)

/-- The collective a command takes part in, at its home here. -/
def State.collOf (s : State) (core : Nat) (e : EngineCmd) : Option Collective :=
  s.dies[e.homeDie].collectives.find? fun c =>
    c.ctx == e.ctx && c.group == e.group && c.parts.any fun p => p.isOf core e

/-- The bytes a command receives, once there are any: of a home on another module, free bytes (log 17). -/
def State.collBytes (s : State) (core : Nat) (e : EngineCmd) : Option (List Byte) :=
  if !e.sent then none
  else if s.homeHere e then (s.collOf core e).bind fun c => c.result
  else if Config.remoteOutcome s.free e.serial % 3 = 0 then some (s.remoteBytes (e.serial * 2 ^ 41) e.len)
  else none

/-- How a COLL that has sent its contribution to another module ends without a result (R342, R344; log 17). -/
def State.collRefused (s : State) (e : EngineCmd) : Option Nat :=
  if !e.sent || s.homeHere e then none
  else
    match Config.remoteOutcome s.free e.serial % 3 with
    | 1 => some 0x67
    | 2 => some 0x84
    | _ => none

/-- Two descriptions of one collective agree (R342). -/
def Collective.agrees (a b : Collective) : Bool := a.np == b.np && a.op == b.op && a.len == b.len && a.q == b.q

/-- A collective that a contribution belongs to. -/
def Collective.sameAs (a b : Collective) : Bool := a.ctx == b.ctx && a.group == b.group

/-- The command of a contribution ends with a cause; that of another module's is answered there. -/
def State.endPart (s : State) (p : Contribution) (cause : Nat) : State :=
  match p.home with
  | none => s
  | some (die, core, _, _, _) =>
    match (s.core die core).engines.find? fun e => p.isOf core e with
    | some e => s.endEngine die core e (some cause)
    | none => s

/-- A collective of a home die replaced or added. -/
def State.putColl (s : State) (d : Fin 4) (c : Collective) : State :=
  let x := s.dies[d]
  if x.collectives.any c.sameAs then
    s.setDie d { x with collectives := x.collectives.map fun a => if a.sameAs c then c else a }
  else s.setDie d { x with collectives := x.collectives ++ [c] }

/-- A contribution of a participant on another module needs no delivery here. -/
def Contribution.arriving (p : Contribution) : Contribution := { p with delivered := p.home.isNone }

/-- Contributions that carry bytes. -/
def Collective.held (c : Collective) : List Contribution := c.parts.filter fun p => !p.data.isEmpty

/-- A contribution joins a collective without a quorum (R342, R343). -/
def State.joinPlain (s : State) (d : Fin 4) (c : Collective) (p : Contribution) : State :=
  let c := { c with parts := c.parts ++ [p.arriving] }
  let full := (List.range c.np).all fun r => c.parts.any fun q => q.rank == r
  let all := c.parts.foldl (fun acc q => insertRank (q.rank, q.data) acc) []
  s.putColl d (if full then { c with result := some (combineAll c.op c.len all) } else c)

/-- The team a contribution comes from has been killed: it receives no result (R345, R270). -/
def State.partKilled (s : State) (p : Contribution) : Bool :=
  match p.home with
  | none => false
  | some (die, _, team, _, _) => (s.findTeam die team).all fun t => t.2.killed

/-- A contribution joins a quorum collective: a due deadline first; while the quorum is OPEN it is held and is the member's
arrival, unless it passes the quota; in DRAIN it is late (R344; log 22). -/
def State.joinQuorum (s : State) (d : Fin 4) (c : Collective) (p : Contribution) (q : Quorum) : State :=
  let T := s.quorumNow c.ctx d
  let s := s.applyDeadline d q T
  match s.quorum c.ctx c.group with
  | none => s.endPart p 0x84
  | some q =>
    let c := (s.dies[d].collectives.find? c.sameAs).getD c
    let only := { p.arriving with data := [] }
    if q.state = .opened then
      if q.arrived.getLsbD p.rank then s.endPart p 0x67
      else if q.quota < s.quorumUsed c.group + c.len then s.putColl d { c with parts := c.parts ++ [only] }
      else (s.putColl d { c with parts := c.parts ++ [p.arriving] }).accept d q p.rank T
    else
      let s := s.setQuorum d q.countLate
      if s.partKilled p then s.endPart p 0x84
      else s.putColl d { c with
        parts := c.parts ++ [only], result := some (c.result.getD (s.collResult q c)) }

/-- A contribution reaches its home die: it joins its collective, opens it, waits for room, or is discarded (R342, R344).
`c` describes the collective as the contribution states it. -/
def State.contribute (s : State) (d : Fin 4) (c : Collective) (p : Contribution) : State :=
  let x := s.dies[d]
  let known := x.collectives.find? c.sameAs
  let bad := match known with
    | some k => !k.agrees c || k.parts.any fun q => q.rank == p.rank && !q.data.isEmpty
    | none => false
  let quorum := if c.q then s.quorum c.ctx c.group else none
  if c.q && quorum.isNone then s.endPart p 0x84
  else if bad || (quorum.any fun q => handleDie c.group != d || c.np != descN q.desc) then s.endPart p 0x67
  else if known.isNone && decide (256 ≤ x.collectives.length) then
    s.setDie d { x with waitingParts := x.waitingParts ++ [(c, p)] }
  else
    match quorum with
    | some q => s.joinQuorum d (known.getD c) p q
    | none => s.joinPlain d (known.getD c) p

/-- A collective has ended: every participant has its result and, over a quorum, none can come any more (R342). -/
def State.collDone (s : State) (c : Collective) : Bool :=
  c.result.isSome && (c.parts.all fun p => p.delivered) && (!c.q || (s.quorum c.ctx c.group).isNone)

/-- The oldest contributions of a die that wait for room and need not any more taken up, at most `fuel`: there is room for their
collective, or it is open (R342). -/
def State.takeParts (s : State) (d : Fin 4) : Nat → State
  | 0 => s
  | fuel + 1 =>
    let x := s.dies[d]
    let goes := fun (w : Collective × Contribution) => decide (x.collectives.length < 256) || x.collectives.any w.1.sameAs
    match x.waitingParts.find? goes with
    | none => s
    | some (c, p) =>
      let ws := x.waitingParts.takeWhile (fun w => !goes w) ++ (x.waitingParts.dropWhile fun w => !goes w).drop 1
      ((s.setDie d { x with waitingParts := ws }).contribute d c p).takeParts d fuel

/-- Ended collectives of a die dropped, and contributions that waited for room taken up (R342). -/
def State.tidyColls (s : State) (d : Fin 4) : State :=
  let x := s.dies[d]
  let s := s.setDie d { x with collectives := x.collectives.filter fun c => !s.collDone c }
  s.takeParts d x.waitingParts.length

/-- The participant of a contribution here has been killed: its team is gone or ends, and its command is left (R342). -/
def State.partDead (s : State) (p : Contribution) : Bool :=
  match p.home with
  | none => false
  | some (die, core, _, _, _) => ((s.core die core).engines.any fun e => p.isOf core e) && s.partKilled p

/-- A collective without a quorum whose participants have all been killed (R342). -/
def State.collDead (s : State) (c : Collective) : Bool := !c.q && c.result.isNone && c.parts.all s.partDead

/-- Such a collective ends with the commands of its participants, which nothing observes any more (log 65). -/
def State.endColl (s : State) (d : Fin 4) (c : Collective) : State :=
  let s := c.parts.foldl (fun s p => s.endPart p 0x29) s
  let x := s.dies[d]
  (s.setDie d { x with collectives := x.collectives.filter fun a => !a.sameAs c }).tidyColls d

/-- COLL_CONTRIBUTION: a contribution reaches its collecting home (R342 to R344). That of a command here is read first, whole; a
source that cannot be read ends or stalls the command in ENGINE_FAULT_END. One of another module comes over a link, which a module has
once it is configured and in a pod (R25, R304). -/
def execCollContribution (part : Contrib) (s : State) : Host.Outcome State Fault Refusal :=
  match part with
  | .pod ctx die group q np op len rank data =>
    if s.phase ≠ .running ∨ !s.joined then .next s
    else .next (((s.contribute die ⟨ctx, group, q, np, op, len, [], none⟩ ⟨rank, data, none, false⟩)).tidyColls die)
  | .own die core index =>
    match s.engineOf die core index with
    | none => .next s
    | some e =>
      if e.sub != 3 || e.sent || !s.mayRun die core e || s.homeLost e then .next s
      else
        match s.engineRead die core e.ctx e.serial e.kept e.src (e.len / 256 + 2) e.soff e.len with
        | (_, .error _) => .next s
        | (t, .ok data) =>
          let t := t.setEngine die core { e with sent := true }
          if !t.homeHere e then .next t
          else
            let home := some (e.die, core, e.team, e.wave, e.serial)
            .next ((t.contribute e.homeDie ⟨e.ctx, e.group, e.ofQuorum, e.ranks, e.collOp, e.len, [], none⟩
              ⟨e.rank, data, home, false⟩).tidyColls e.homeDie)

/-- The part of a command in its collective has its result. -/
def State.deliver (s : State) (core : Nat) (e : EngineCmd) : State :=
  match s.collOf core e with
  | none => s
  | some c =>
    let done : List Contribution := c.parts.map fun p => if p.isOf core e then { p with delivered := true } else p
    (s.putColl e.homeDie { c with parts := done }).tidyColls e.homeDie

/-- The collective of a COLL ends because its participants were killed. -/
def State.collEnds (s : State) (core : Nat) (e : EngineCmd) : Option Collective :=
  if e.sub = 3 ∧ e.sent ∧ s.homeHere e then (s.collOf core e).filter s.collDead else none

/-- COLL_RESULT_DELIVERY: the result is written at a participant's destination, which completes its command (R343). A
destination that cannot be written ends or stalls it in ENGINE_FAULT_END. A collective without a quorum of which every participant has
been killed ends here, with their commands (R342). -/
def execCollResultDelivery (die : Fin 4) (core index : Nat) (s : State) : Host.Outcome State Fault Refusal :=
  match s.engineOf die core index with
  | none => .next s
  | some e =>
    match s.collEnds core e with
    | some c => .next (s.endColl e.homeDie c)
    | none =>
    match decide (e.sub = 3) && s.mayRun die core e && !s.homeLost e, s.collBytes core e with
    | true, some data =>
      match s.engineWrite die core e data with
      | (t, none) => .next ((t.deliver core e).endEngine die core e none)
      | (_, some _) => .next s
    | _, _ => .next s

/-! ## Completion and ends -/

/-- What running a command comes to: of a COLL, the part that comes next (R343). -/
def State.runEngine (s : State) (die : Fin 4) (core : Nat) (e : EngineCmd) : State × Option EngStop :=
  match e.sub with
  | 0 => s.runCpy die core e
  | 1 => s.runGath die core e
  | 2 => s.runBld die core e
  | _ =>
    if s.homeLost e then (s, some (.fault 0x29))
    else if !e.sent then
      match s.engineRead die core e.ctx e.serial e.kept e.src (e.len / 256 + 2) e.soff e.len with
      | (_, .error st) => (s, some st)
      | (t, .ok _) => (t, none)
    else
      match s.collRefused e, s.collBytes core e with
      | some c, _ => (s, some (.fault c))
      | none, some data => s.engineWrite die core e data
      | none, none => (s, none)

/-- ENGINE_COMPLETION: a CPY, GATH or BLD whose turn it is is performed at its homes and completes (R173). Where it may not
run, or meets a fault or an absent page, nothing happens here. -/
def execEngineCompletion (die : Fin 4) (core index : Nat) (s : State) : Host.Outcome State Fault Refusal :=
  match s.engineOf die core index with
  | none => .next s
  | some e =>
    if 3 ≤ e.sub || !s.mayRun die core e then .next s
    else
      match s.runEngine die core e with
      | (t, none) => .next (t.endEngine die core e none)
      | (_, some _) => .next s

/-- ENGINE_FAULT_END: a command whose turn it is meets a fault, which ends it with its cause kept and its destination as R429
states, or a page that is not there, for which it waits and an event is posted (R156). -/
def execEngineFaultEnd (die : Fin 4) (core index : Nat) (s : State) : Host.Outcome State Fault Refusal :=
  match s.engineOf die core index with
  | none => .next s
  | some e =>
    if !s.mayRun die core e then .next s
    else
      match s.runEngine die core e with
      | (_, none) => .next s
      | (t, some (.fault c)) => .next ((t.deliver core e).endEngine die core e (some c))
      | (t, some (.stall c g o p a)) =>
        .next (t.stallEngine die core ((t.engineOf die core index).getD e) c g o p a)

end Sys2Proof.Machine
end

