-- ==== Sys2Proof/Machine/Mmax.lean ====
section
/-! DEFINITION. The digit-sliced product in the sequencer: exponents (R248), digit steps (R250, R257), reruns (R254) and
completion (R251). -/

namespace Sys2Proof.Machine

/-- s of an MMAX. -/
def SeqItem.digitCount (q : SeqItem) : Nat := fwSlices q.word.toNat

/-- Rows of operand A of an MMAX as they stand (R246). -/
def SeqItem.digitRows (q : SeqItem) (c : TeamCore) : List (List FpVal) :=
  (List.range (dM q.desc.toNat)).map fun i => slotRow c.scratch q.base 3 q.word.toNat i

/-- Column j of operand B of an MMAX on one core: NB blocks of slice j (R246). -/
def SeqItem.digitColumn (q : SeqItem) (slices : Memory) (j : Nat) : List FpVal :=
  let w := q.word.toNat
  let raw := slices.readNat (32768 * j + 256 * dBlk q.desc.toNat) (256 * blocksB w)
  (List.range 256).map fun k => rowElem (fwB w) raw k

/-- The columns of operand B as they stand, those of the follower last (R233). -/
def State.digitColumns (s : State) (die : Fin 4) (core : Nat) (q : SeqItem) (t : Team) : List (List FpVal) :=
  ((q.coresOf t core).map fun n => (List.range 64).map fun j => q.digitColumn (s.core die n).slices j).flatten

/-- The exponents of an MMAX fixed, once, and Z zero (R248, R250). -/
def SeqItem.fix (q : SeqItem) (rows cols : List (List FpVal)) : SeqItem :=
  if q.fixed then q
  else
    { q with
      fixed := true, eexp := rows.map maxLog, fexp := cols.map maxLog
      z := List.replicate (rows.length * cols.length) 0 }

/-- Digit d of the elements of a K-chunk, against an exponent (R249). -/
def chunkDigits (s d c : Nat) (vs : List FpVal) (x : Option Int) : List Int :=
  ((vs.drop (64 * c)).take 64).map fun v => (digits v x s).getD (d - 1) 0

/-- The sum of products of two lists of digits. -/
def dotInt : List Int → List Int → Int
  | a :: as, b :: bs => a * b + dotInt as bs
  | _, _ => 0

/-- Z after the step at its position (R250). -/
def SeqItem.stepped (q : SeqItem) (rows cols : List (List FpVal)) : SeqItem :=
  let s := q.digitCount
  let at_ := (mmaxSteps s).getD q.step (2, 1, 0)
  let da := rows.zipWith (chunkDigits s at_.2.1 at_.2.2) q.eexp
  let db := cols.zipWith (chunkDigits s (at_.1 - at_.2.1) at_.2.2) q.fexp
  let add := (da.map fun a => db.map fun b => 2 ^ (7 * (s + 1 - at_.1)) * dotInt a b).flatten
  { q with step := q.step + 1, z := q.z.zipWith (fun x y => x + y) add }

/-- The value V of an element and what its special products raise (R251). -/
def SeqItem.value (q : SeqItem) (a b : List FpVal) (e f : Option Int) (z : Int) : Elem :=
  let sp := chunkSum (a.zipWith (fun x y => elemMul (x, Exc.none) (y, Exc.none)) b)
  match sp.1, e, f with
  | .fin _ _ _, some E, some F => (FpVal.ofInt z (E + F + 2 - 7 * (q.digitCount + 1 : Nat)) false, sp.2)
  | .fin _ _ _, _, _ => (.fin false 0 0, sp.2)
  | v, _, _ => (v, sp.2)

/-- A word of an accumulator of CF: of FP64 the pair, low word in the tile named (R223). -/
def TeamCore.accWord (c : TeamCore) (cf tile row col : Nat) : Nat :=
  if cf = 1 then c.word tile row col + c.word (tile + 1) row col * 2 ^ 32 else c.word tile row col

/-- A row of accumulators of CF written. -/
def TeamCore.setAccRow (c : TeamCore) (cf tile row : Nat) (ws : List Nat) : TeamCore :=
  let low := c.setRow tile row (ws.map fun w => w % 2 ^ 32)
  if cf = 1 then low.setRow (tile + 1) row (ws.map fun w => w / 2 ^ 32) else low

/-- One half of an MMAX completed on its core (R251). -/
def SeqItem.completeHalf (q : SeqItem) (rows cols : List (List FpVal)) (c : TeamCore) (half : Nat) : TeamCore × MatExc :=
  let cf := fwC q.word.toNat
  let n := cols.length
  rows.zipIdx.foldl (fun acc r =>
    let row := dRow q.desc.toNat + r.2
    let out := (List.range 64).map fun j =>
      let k := 64 * half + j
      Sys2Proof.Machine.accumulate cf (if q.accumulate then c.accWord cf q.tile row j else 0)
        (q.value r.1 (cols.getD k []) (q.eexp.getD r.2 none) (q.fexp.getD k none) (q.z.getD (r.2 * n + k) 0))
    (acc.1.setAccRow cf q.tile row (out.map fun p => p.1), out.foldl (fun x p => x.or p.2) acc.2)) (c, MatExc.none)

/-- An MMAX completed on each core it runs on (R251). -/
def SeqItem.complete (q : SeqItem) (rows cols : List (List FpVal)) (core : Nat) (t : Team) : Team :=
  (q.coresOf t core).zipIdx.foldl (fun acc c =>
    let r := q.completeHalf rows cols (t.onCore c.1) c.2
    (acc.setOnCore r.1).flag q.wave r.2) t

/-- The tiles of an MMAX on each core it runs on: those a second mismatch poisons, as they were (R254; log 25). -/
def SeqItem.allTiles (q : SeqItem) (t : Team) (core : Nat) : List (Nat × Nat) :=
  (q.coresOf t core).flatMap fun c => (tilesWritten q.word.toNat q.tile).map fun n => (c, n)

/-- The head of a queue replaced. -/
def State.setSeqHead (s : State) (die : Fin 4) (core : Nat) (q : SeqItem) : State :=
  let c := s.core die core
  s.setCore { c with queue := q :: c.queue.drop 1 }

/-! ## The resume record (Table 12.2) -/

/-- An exponent of a resume record: 16-bit two's complement, 0x8000 for EMPTY. -/
def exponentBytes : Option Int → List Byte
  | none => leBytes 2 0x8000
  | some e => leBytes 2 (e % 2 ^ 16).toNat

/-- The resume record that a core writes of an MMAX stopped at a step boundary (R255, R256). `half`: which 64 columns of a paired MMAX the
core holds; `follower`: it is the follower of its team. -/
def SeqItem.resume (q : SeqItem) (half : Nat) (follower : Bool) : List Byte :=
  let at_ := (mmaxSteps q.digitCount).getD q.step (2, 1, 0)
  let cols := q.fexp.length
  leBytes 4 q.word.toNat ++
    leBytes 4 (32 * bit follower + 2 ^ 6 * at_.2.2 + 2 ^ 8 * at_.2.1 + 2 ^ 12 * at_.1 + 2 ^ 31) ++ leBytes 8 q.desc.toNat ++
    leBytes 4 q.insn.toNat ++ zeros 12 ++ (q.eexp.flatMap exponentBytes) ++ zeros (2 * (64 - q.eexp.length)) ++
    ((q.fexp.drop (64 * half)).take 64).flatMap exponentBytes ++
    (List.range q.eexp.length).flatMap fun i =>
      ((q.z.drop (i * cols + 64 * half)).take 64).flatMap fun z => leBytes 16 (z % 2 ^ 128).toNat

/-- MMAX_STEP: one digit step of the MMAX at the head of a core's queue, and its completion after the last. `bad1`,
`bad2`: the checksums of the step and of its rerun do not match (R254). Where no MMAX may run, nothing happens. -/
def execMmaxStep (die : Fin 4) (core : Nat) (bad1 bad2 : Bool) (s : State) : Host.Outcome State Fault Refusal :=
  match s.seqHead die core with
  | none => .next s
  | some (q, i, t) =>
    if q.op ≠ 3 then .next s
    else
      let rows := q.digitRows (t.onCore core)
      let cols := s.digitColumns die core q t
      let q := (q.fix rows cols).stepped rows cols
      let rerun := q.checked && bad1
      let s := if rerun then s.count die core 4 (some t.ctx) 1 else s
      let s := s.count die core 3 (some t.ctx) 1
      if rerun && bad2 then
        let failed := q.allTiles t core
        .next ((s.endSeq die core i q (q.poisonTiles t failed)).countPoison t failed)
      else if q.step < (mmaxSteps q.digitCount).length then .next (s.setSeqHead die core q)
      else .next (s.endSeq die core i q (q.complete rows cols core t))

end Sys2Proof.Machine
end

