-- ==== Sys2Proof/Machine/Control.lean ====
section
/-! DEFINITION. Control: branches, calls, splits (R30, R31, R46), the wave's own state (PART, YIELD), traps and the return
from service mode (R286, R287), REP (R89 to R91) and fetch faults (R77, R95). -/

namespace Sys2Proof.Machine

/-- A PC `off` parcels on (R59). -/
def target (pc : BitVec 48) (off : BitVec 48) : BitVec 48 := pc + 2 * off

/-- The issuing wave put back in another form. -/
def Iss.commitWave (x : Iss) (w : Wave) : State := x.st.setTeam x.st.cur.team (x.tm.setWave x.st.cur.wave w)

/-- The mask a replay or a marker leaves behind: none. -/
def Iss.past (x : Iss) : Iss := { x with sp := { x.sp with only := none, status := .ready } }


/-- BR moves the whole split where its condition holds (R335). -/
def execBr (off : BitVec 20) (c : BrCond) (mk : Bool) (s : State) : Host.Outcome State Fault Refusal :=
  issue (.br off c mk) s fun x => if holds c x.wv.cc then .jump x (target x.pc (off.signExtend 48)) else Eff.ok x

/-- BMZ branches on m(M) under the lanes it runs for, the split's active mask or what a replay leaves of it (R336, R286). -/
def execBmz (off : BitVec 20) (z : Bool) (m : MReg) (mk : Bool) (s : State) : Host.Outcome State Fault Refusal :=
  issue (.bmz off z m mk) s fun x =>
    if (x.mask &&& x.m m == 0) == z then .jump x (target x.pc (off.signExtend 48)) else Eff.ok x

/-- CALL: s63 := the address of the next instruction (R337). -/
def execCall (off : BitVec 24) (mk : Bool) (s : State) : Host.Outcome State Fault Refusal :=
  issue (.call off mk) s fun x => .jump (x.setS 63 ((x.pc + 4).setWidth 64)) (target x.pc (off.signExtend 48))

/-- FORK of the lanes `F` to a PC (R30). -/
def Iss.forkTo (x : Iss) (F : Mask) (pc : BitVec 48) : Eff :=
  if F = 0 then Eff.ok x
  else if F = x.sp.mask then .jump x pc
  else
    match x.freeSlot with
    | none => .trap x { cause := 0x07 }
    | some j =>
      let new : Split :=
        ⟨pc, F, x.sp.pend, .ready, none, false, 0, 0, none, FaultRec.zero⟩
      Eff.ok { x with
        sp := { x.sp with mask := Mask.without x.sp.mask F }
        wv := { x.wv with splits := x.wv.splits.set j (some new) } }

/-- FORK: the lanes of m(M) part from the split (R30, R357). -/
def execFork (off : BitVec 20) (m : MReg) (mk : Bool) (s : State) : Host.Outcome State Fault Refusal :=
  issue (.fork off m mk) s fun x => x.forkTo (x.mask &&& x.m m) (target x.pc (off.signExtend 48))

/-- NOP does nothing but carry its marker (R353). -/
def execNop (mk : Bool) (s : State) : Host.Outcome State Fault Refusal :=
  issue (.nop mk) s fun x => Eff.ok x

/-- The split stands at its JOIN, and the merge rule is evaluated (R31). -/
def Iss.joinHere (x : Iss) (mk : Bool) : State :=
  let w := { x.wv with
    splits := x.wv.splits.set x.slot (some { x.sp with only := none, status := .atJoin }), marker := x.wv.marker || mk }
  x.commitWave w.joinStep

/-- JOIN (R31). -/
def execJoin (mk : Bool) (s : State) : Host.Outcome State Fault Refusal :=
  issue (.join mk) s fun x => .final (x.joinHere mk)

/-- The lanes of the instruction end (R46): the split, once it has none, ceases to exist, and the merge rule is evaluated
again. A wave without a live split leaves every barrier (R354); a killed one stops once every split left is parked (R270). -/
def Iss.exitLanes (x : Iss) (mk : Bool) : State :=
  let rest := Mask.without x.sp.mask x.mask
  let sp := if rest = 0 then none else some { x.past.sp with mask := rest, pc := x.sp.pc + 4 }
  let w := ({ x.wv with splits := x.wv.splits.set x.slot sp, marker := x.wv.marker || mk }).joinStep
  let s := x.commitWave w
  if w.liveSplits.isEmpty then s.leaveBarriers x.tm w else s.stopKilled x.st.cur

/-- EXIT (R46, R354). -/
def execExit (mk : Bool) (s : State) : Host.Outcome State Fault Refusal :=
  issue (.exit mk) s fun x => .final (x.exitLanes mk)

/-- KILLPT stops a wave with cc.K = 1 (R270). -/
def execKillpt (mk : Bool) (s : State) : Host.Outcome State Fault Refusal :=
  issue (.killpt mk) s fun x => if x.wv.cc.k then x.stop else Eff.ok x

/-- RET: PC := s(T)[47:1] × 2 (R353). -/
def execRet (t : SReg) (mk : Bool) (s : State) : Host.Outcome State Fault Refusal :=
  issue (.ret t mk) s fun x => .jump x (BitVec.ofNat 48 ((x.s t).toNat % 2 ^ 48 / 2 * 2))

/-- The order number after every wave placed so far (R44). -/
def State.nextPlace (s : State) : Nat :=
  s.teams.foldl (fun n t => t.waves.foldl (fun k w => max k (w.placed + 1)) n) 0

/-- YIELD (R295, Table 18.17). -/
def execYieldWave (u : Bool) (lm : SReg) (mk : Bool) (s : State) : Host.Outcome State Fault Refusal :=
  issue (.yieldWave u lm mk) s fun x =>
    if x.wv.cc.k then x.stop
    else if x.wv.cc.p then
      Eff.ok { x with wv := { x.wv with yielded := true, live := x.s lm, marker := true } }
    else if u then Eff.ok { x with wv := { x.wv with placed := x.st.nextPlace } }
    else Eff.ok x

/-- REP checks its target and every repeat, and starts at repeat 0 (R89 to R91); an interrupted one past its last repeat goes on
after the target (R93). A REP that traps at these checks has ACTIVE = 0, for no repeat of it was interrupted. Where a replay limits
the REP itself to some lanes, all its repeats run for them (both DESIGN CHOICE, log 62). -/
def execRep (stride : Fin 4) (stepB : Bool) (stepA : Bool) (stepD : Bool) (count : Fin 64) (mk : Bool)
    (s : State) : Host.Outcome State Fault Refusal :=
  issue (.rep stride stepB stepA stepD count mk) s fun x =>
    let word := repWord stride stepB stepA stepD count
    if x.sp.repActive && count.val < x.sp.repNext.toNat then .jump { x with sp := x.sp.noRep } (x.sp.pc + 8)
    else
      match x.checkRep word with
      | some t => .trap x t
      | none =>
        .jump { x with sp := { x.sp with
          repActive := true, repNext := 0, repCount := BitVec.ofNat 6 count.val, repOnly := x.sp.only } } x.sp.pc

/-- PART: LTILE.TILE := T (R381). -/
def execPart (t : TileCode) (mk : Bool) (s : State) : Host.Outcome State Fault Refusal :=
  issue (.part t mk) s fun x => Eff.ok { x with wv := { x.wv with tile := t } }

/-- TRAP: cause 0xC0 + n, TEPC at the next instruction; in service mode the wave parks (R287). -/
def execTrap (code : Fin 32) (mk : Bool) (s : State) : Host.Outcome State Fault Refusal :=
  issue (.trap code mk) s fun x =>
    if x.inService then .trap x { cause := 0xC0 + code.val } else .trapNext x { cause := 0xC0 + code.val }

/-- BKPT: a stop of the team while a debugger is attached, else a trap as TRAP is (R332). -/
def execBkpt (code : Fin 16) (mk : Bool) (s : State) : Host.Outcome State Fault Refusal :=
  issue (.bkpt code mk) s fun x =>
    if (x.st.ctx x.tm.ctx).dbg.attach then Eff.ok (x.debugStop (0xE0 + code.val))
    else .trapNext x { cause := 0xE0 + code.val }

/-- Return from service mode (R286): the split resumes at TEPC; where TEPC is the instruction that trapped, that one runs
for the lanes of FMASK alone. Repeats of a limited REP keep its limit where the split resumes among them. -/
def Iss.returnFrom (x : Iss) (mk : Bool) : State :=
  let r := x.sp.record
  let w := { x.wv.clearPending with svc := none, svcWait := none, marker := mk }
  let again := decide (r.epc = r.pc)
  let sp := { x.sp with
    pend := Pending.clear, status := .ready, pc := r.epc
    only := if again then some (x.sp.mask &&& r.fmask) else none
    repOnly := if again && x.sp.repActive then x.sp.repOnly else none }
  { x with wv := w, sp := sp }.commit

/-- RETT (R286, R388). -/
def execRett (mk : Bool) (s : State) : Host.Outcome State Fault Refusal :=
  issue (.rett mk) s fun x =>
    if x.wv.cc.k then .final ({ x with wv := { x.wv with svc := none } }.commit.stopWave x.st.cur)
    else .final (x.returnFrom mk)

/-- A replay for no lane skips a word that does not decode, by the length its lowest bit gives it, and a REP with its target
(R76, R286). -/
def Iss.skipWord (x : Iss) : State :=
  match wordAt x.text x.pc.toNat with
  | .bits w => x.skip { cls := .scalar, len := if w % 2 = 0 then 2 else 4, rep := isRep w }
  | .outside _ => x.commit

/-- UNASSIGNED_ENCODING: an encoding no instruction is assigned traps at the split `State.cur` names (R94, R95);
a replay for no lane skips it. -/
def execUnassignedEncoding (s : State) : Host.Outcome State Fault Refusal :=
  match checkout s with
  | none => .fault .noIssuer
  | some x =>
    match x.fetch with
    | .bad c => if x.sp.only = some 0 && !x.inService then .next x.skipWord else .next (x.trapHere { cause := c })
    | .instr _ | .outside _ => .next s

/-- FETCH_OUTSIDE_TEXT: a fetch outside the text traps BOUNDS at the instruction's first parcel (R77). -/
def execFetchOutsideText (s : State) : Host.Outcome State Fault Refusal :=
  match checkout s with
  | none => .fault .noIssuer
  | some x =>
    match x.fetch with
    | .outside a => .next (x.trapHere (fetchTrap a))
    | .instr _ | .bad _ => .next s

end Sys2Proof.Machine
end

