-- ==== Sys2Proof/Machine/WaveSteps.lean ====
section
/-! DEFINITION. Steps of waves that no instruction takes: the end of a marker wait (R50), service entry (R283), retirement
(R47), the store queue (R397, R136), and the answers that the Frame sends to members of a quorum (R267, R268, R270). -/

namespace Sys2Proof.Machine

/-- A wave of a team that runs. -/
def State.runningWave (s : State) (team wave : Nat) : Option (Team × Wave) :=
  (s.waveAt ⟨team, wave, 0⟩).filter fun p => p.2.status == .running

/-- Every register result of a wave that waits at a marker is written (R50). -/
def State.markerDone (s : State) (t : Team) (w : Wave) : Bool := w.marker && !s.inFlight t w

/-- MARKER_WAIT_COMPLETE: the marker wait ends and every pending-write bit clears (R50, R51). -/
def execMarkerWaitComplete (team wave : Nat) (s : State) : Host.Outcome State Fault Refusal :=
  match s.runningWave team wave with
  | none => .next s
  | some (t, w) =>
    if s.markerDone t w then .next (s.setWaveAt ⟨team, wave, 0⟩ { w.clearPending with marker := false }) else .next s

/-- The split of a wave that enters service now: it may, and every earlier result is written (R281, R283). -/
def State.serviceDue (s : State) (t : Team) (w : Wave) : Option (Fin 4) :=
  if w.status == .running && !w.yielded && !w.yieldsNow && !s.inFlight t w then w.eligible else none

/-- SERVICE_ENTRY: a trapped split, or a parked one once no other is runnable, enters service mode; with no handler the wave
parks (R281, R283, R287). -/
def execServiceEntry (team wave : Nat) (s : State) : Host.Outcome State Fault Refusal :=
  match s.runningWave team wave with
  | none => .next s
  | some (t, w) =>
    match s.serviceDue t w with
    | none => .next s
    | some j => .next (s.enterService ⟨team, wave, j⟩)

/-- A wave retires now: it has no live split, its stores are performed, and its engine commands and matrix and accumulator
instructions have ended (R47, R48). -/
def State.retireDue (s : State) (t : Team) (w : Wave) : Bool :=
  w.status == .running && w.liveSplits.isEmpty && w.stores.isEmpty && !s.outstanding t w

/-- WAVE_RETIRE: the wave frees its slot; the team ends with its last wave (R47, R48). -/
def execWaveRetire (team wave : Nat) (s : State) : Host.Outcome State Fault Refusal :=
  match s.runningWave team wave with
  | none => .next s
  | some (t, w) =>
    if s.retireDue t w then
      let w' : Wave := { w with status := .retired }
      .next (((s.setWaveAt ⟨team, wave, 0⟩ w').leaveBarriers t w').reapTeam t.die t.serial w')
    else .next s

/-- The oldest queued store of a wave performed, once no earlier publication of the wave waits to be written (R166). With the last one
of a wave that has stopped its team may end (R271). -/
def State.drainOne (s : State) (team wave : Nat) (tentative : Bool) : State :=
  match s.waveAt ⟨team, wave, 0⟩ with
  | none => s
  | some (t, w) =>
    match w.stores with
    | [] => s
    | q :: qs =>
      if q.member.isSome = tentative ∧ (s.owed t.die t.serial w.number.val).isEmpty then
        let w' := { w with stores := qs }
        let s := (s.setWaveAt ⟨team, wave, 0⟩ w').perform t.ctx t.die w.core t.serial q
        if w'.over then s.reapTeam t.die t.serial w' else s
      else s

/-- STORE_QUEUE_DRAIN: the oldest queued store of a wave, where it is not tentative, is performed at its destination (R397). -/
def execStoreQueueDrain (team wave : Nat) (s : State) : Host.Outcome State Fault Refusal :=
  .next (s.drainOne team wave false)

/-- TENTATIVE_STORE: the oldest queued store of a wave, where it is tentative, reaches its home slice: it writes the member's
version, whose entry and quota were taken as it issued (R136); one whose member's binding has ended is discarded (R266). -/
def execTentativeStore (team wave : Nat) (s : State) : Host.Outcome State Fault Refusal :=
  .next (s.drainOne team wave true)

/-! ## Answers of a Frame -/

/-- The split a cursor names waits for the answer to its arrival as a member it is still bound as (R267). -/
def State.arrivalAt (s : State) (c : Cursor) : Option (Team × Wave × Split × W32 × Nat) :=
  (s.waveAt c).bind fun p =>
    (p.2.splits[c.slot]).bind fun sp =>
      if sp.status == .waiting (.quorumAnswer false) then
        (s.binding p.1).map fun b => (p.1, p.2, sp, b.1, b.2.1)
      else none

/-- A wave whose split has had the answer to its arrival (R267): ACCEPTED ends its QARR, whatever the wave does meanwhile (R386); after
LATE the split stays there, for the kill. -/
def Wave.answered (w : Wave) (slot : Fin 4) (sp : Split) (accepted : Bool) : Wave :=
  let sp' := if accepted then { sp with pc := sp.pc + 4, only := none, status := .ready }
    else { sp with status := .waiting (.quorumAnswer true) }
  { w with splits := w.splits.set slot (some sp') }

/-- QUORUM_ARRIVAL: an arrival reaches the quorum's Frame, which counts it and answers ACCEPTED, or LATE, which kills the team
at its QARR (R267, R268). -/
def execQuorumArrival (team wave : Nat) (slot : Fin 4) (s : State) : Host.Outcome State Fault Refusal :=
  match s.arrivalAt ⟨team, wave, slot⟩ with
  | none => .next s
  | some (t, w, sp, h, i) =>
    let r := s.arrival t.ctx h i (s.quorumNow t.ctx (handleDie h))
    let u := r.1.setWaveAt ⟨team, wave, slot⟩ (w.answered slot sp r.2)
    .next (if r.2 then u else u.killTeam t.die t.serial)

/-- A register of a die. -/
def State.quorumReg (s : State) (die : Fin 4) (num : Nat) : Option Quorum := s.dies[die].quorums.find? fun q => q.num == num

/-- A register has a due deadline to apply, or a release that waits for a held entry. -/
def State.quorumDue (s : State) (die : Fin 4) (q : Quorum) : Bool :=
  s.frameRuns q.ctx &&
    ((q.state == .opened && decide (q.due ≤ (s.dies[die].ticks : Int))) || (q.state == .drain && q.record.isEmpty))

/-- QUORUM_DEADLINE: a due deadline releases the quorum SHORT or FAILED; a release that waited for a held entry goes on
(R268, R269). -/
def execQuorumDeadline (die : Fin 4) (num : Nat) (s : State) : Host.Outcome State Fault Refusal :=
  match s.quorumReg die num with
  | none => .next s
  | some q =>
    if !s.quorumDue die q then .next s
    else if q.state = .opened then .next (s.applyDeadline die q s.dies[die].ticks)
    else .next (s.finishRelease die q)

/-- The kill request of a released quorum for a team that has not had it (R269, R270). -/
def State.killDue (s : State) (ctx : Nat) (die : Fin 4) (team : W32) : Bool :=
  (s.dies.toList.any fun d => d.quorums.any fun q =>
    q.ctx == ctx && q.killing.any fun k => k.2.1 == die.val && k.2.2 == team) &&
    ((s.findTeam die team).all fun t => !t.2.killed) &&
    s.awayTeams.all fun t => !(t.die == die && t.serial == team && t.killed)

/-- KILL_REQUEST: a kill request reaches a member's team, queued or resident (R270). -/
def execKillRequest (ctx : Nat) (die : Fin 4) (team : W32) (s : State) : Host.Outcome State Fault Refusal :=
  if s.killDue ctx die team then .next (s.killTeam die team) else .next s

end Sys2Proof.Machine
end

