-- ==== Sys2Proof/Machine/FrameSteps.lean ====
section
/-! DEFINITION. Steps of a Frame and of the homes of streams: the writing of records (R155, R187), ingestion (R191, R192)
and timeouts (R206). -/

namespace Sys2Proof.Machine

/-! ## Records waiting to be written -/

/-- A record that cannot be written posts the event of R154 with access 1, once for a page that is not present or is migrating: that of
its slot, else that of the stream's block (R187). R187 says nothing of a slot whose translation ends otherwise, nor of a poisoned
block; the record waits there and posts nothing (DESIGN CHOICE, log 60). -/
def State.recordFault (s : State) (d : Fin 4) (i : Nat) (r : PendingRecord) : State :=
  let tell := fun (off cause mgen : Nat) =>
    if r.told = some (off / 65536) then s
    else
      (s.setRecord d i (some { r with told := some (off / 65536) })).postFault r.ctx 0xF0 (bytesNat r.bytes 2 2) r.wid r.team
        (leBytes 4 (r.obj % 2 ^ 24 + cause * 2 ^ 24) ++ leBytes 4 (off / 65536) ++ leBytes 2 mgen ++ leBytes 1 1 ++
          leBytes 1 r.ctx ++ leBytes 4 r.wid ++ leBytes 4 r.team.toNat)
  match s.keptWalk r.ctx r.obj r.slot, s.keptWalk r.ctx r.obj 0 with
  | .notPresent g, _ => tell r.slot 0x26 g
  | .migrating g, _ => tell r.slot 0x27 g
  | .ok _ _ _, .notPresent g => tell 0 0x26 g
  | .ok _ _ _, .migrating g => tell 0 0x27 g
  | _, _ => s

/-- POST_RECORD_WRITE: the home of a ring writes and publishes a reserved record of a POST, in ascending position and after the earlier
publications of its wave; one whose page is not present waits (R163, R187). -/
def execPostRecordWrite (die : Fin 4) (index : Nat) (s : State) : Host.Outcome State Fault Refusal :=
  match s.recordNext die index with
  | none => .next s
  | some r =>
    if !r.posted then .next s
    else if (s.postSlot r).isSome then .next (s.writePosted die index)
    else .next (s.recordFault die index r)

/-- SYSTEM_EVENT_WRITE: a record that the G9 posts itself is reserved once its ring has room, then written, LAP last
(R155, R211, R269). -/
def execSystemEventWrite (die : Fin 4) (index : Nat) (s : State) : Host.Outcome State Fault Refusal :=
  match s.recordNext die index with
  | none => .next s
  | some r =>
    match r.posted, s.streamBlock r.ctx r.obj with
    | false, some (pa, b) =>
      if !b.valid || (r.pos.isNone && b.free == 0) then .next s
      else
        let p := r.pos.getD b.tail
        let dom := s.objDomain r.ctx r.obj
        let s := if r.pos.isNone then s.pokeNat pa dom 8 (b.tail + 1) else s
        match s.slotPa r.ctx r.obj b.logn p with
        | none => .next (s.setRecord die index (some { r with pos := some p }))
        | some slot => .next ((s.setRecord die index none).publish dom pa b slot p r.bytes)
    | _, _ => .next s

/-! ## Ingestion -/

/-- The next position of an attached stream is published (R180, R191). -/
def State.published (s : State) (b : Block) (pa slot : Nat) : Bool :=
  decide (b.ingest < b.tail) &&
    (if b.kind = 1 then (s.peek (pa + 32 + b.ingest % 2 ^ b.logn / 8)).toNat.testBit (b.ingest % 2 ^ b.logn % 8)
     else s.peekNat (slot + 14) 2 == lapOf b.logn b.ingest)

/-- A stream that the Frame may ingest from: its block, its address and the slot of its next position (R191, R194). A block or a slot in a
poisoned sector gives no data (R140), and the Frame does not go on there (DESIGN CHOICE, log 67). -/
def State.ingestable (s : State) (d : Fin 4) (ctx obj : Nat) : Option (Nat × Block × Nat) :=
  if !s.frameRuns ctx || !(s.dies[d].attached.any fun a => a.ctx == ctx && a.obj == obj) then none
  else
    (s.streamBlock ctx obj).bind fun p =>
      (s.slotPa ctx obj p.2.logn p.2.ingest).bind fun slot =>
        if s.readable slot && p.2.att && s.published p.2 p.1 slot then some (p.1, p.2, slot) else none

/-- The stamp last accepted from an attached stream. -/
def State.lastStamp (s : State) (d : Fin 4) (ctx obj : Nat) : Option Nat :=
  (s.dies[d].attached.find? fun a => a.ctx == ctx && a.obj == obj).bind fun a => a.last

/-- The ring past an ingested position: COMMIT cleared, INGEST and HEAD advanced, REFUSED counted (R191). -/
def State.ingested (s : State) (dom pa : Nat) (b : Block) (refused : Bool) : State :=
  let slot := b.ingest % 2 ^ b.logn
  let byte := pa + 32 + slot / 8
  let s := if b.kind = 1 then s.pokeNat byte dom 1 ((s.peek byte).toNat &&& (255 - 2 ^ (slot % 8))) else s
  let count := field b.cfg 48 15
  let s :=
    if refused then s.pokeNat (pa + 24) dom 8 (b.cfg - count * 2 ^ 48 + min (count + 1) 0x7FFF * 2 ^ 48) else s
  (s.pokeNat (pa + 16) dom 8 (b.ingest + 1)).pokeNat (pa + 8) dom 8 (b.ingest + 1)

/-- The held entry of the quorum record that a release event announces, with the die of the quorum's Frame, which its handle names
(R269; log 21). -/
def State.heldRelease (s : State) (ctx : Nat) (ev : EventRec) : Option (Fin 4 × Held) :=
  if ev.isRelease then
    let d := handleDie ev.key
    (s.dies[d].held.find? fun h => h.ctx == ctx && h.ev.key == ev.key && h.quorum.isSome).map fun h => (d, h)
  else none

/-- The held entry of a release event that is ingested on the die of its quorum becomes the event's copy, with its stamp (R192, R195). -/
def State.stampHeld (s : State) (d : Fin 4) (held : Option (Fin 4 × Held)) (ev : EventRec) : State :=
  match held with
  | some (e, h) =>
    if e = d then
      s.setDie d { s.dies[d] with held := s.dies[d].held.map fun x => if x.num == h.num then { x with ev := ev } else x }
    else s
  | none => s

/-- INGESTION_STEP: the next published position of an attached stream is read once, then refused, or stamped and offered to the
rods that read it (R191, R192, R202). -/
def execIngestionStep (die : Fin 4) (ctx obj : Nat) (s : State) : Host.Outcome State Fault Refusal :=
  match s.ingestable die ctx obj with
  | none => .next s
  | some (pa, b, slot) =>
    let bytes := s.peekBytes slot 64
    let given := bytesNat bytes 8 6
    let T := if b.stamped then given else s.dies[die].ticks
    let ev := EventRec.ofBytes bytes T
    let back := b.stamped && (s.lastStamp die ctx obj).any fun l => given < l
    let refused := decide (b.maxd < ev.depth) || (decide (0xE0 ≤ ev.kind) && !b.sys) || back
    let held := s.heldRelease ctx ev
    let s := s.ingested (s.objDomain ctx obj) pa b refused
    let s := if refused then s else s.stampHeld die held ev
    let s :=
      if refused then s
      else
        let note := fun (a : Attached) => if a.ctx == ctx && a.obj == obj then { a with last := some T } else a
        let s := s.setDie die { s.dies[die] with attached := s.dies[die].attached.map note }
        let here := (held.filter fun h => h.1 == die).map fun h => h.2.num
        s.offerAll die ctx obj ev T (held.bind fun h => h.2.quorum) (s.rodsOf die ctx) here
    .next (match held with | some h => s.releaseAll h.1 [h.2.num] | none => s)

/-! ## Timeouts -/

/-- A rod whose first timeout fires at its due tick now: enabled, unstamped, not waiting for its next offer (R206, R216). -/
def State.timeoutDue (s : State) (d : Fin 4) (r : Rod) : Bool :=
  r.enabled && s.frameRuns r.ctx && !r.stamped &&
    match r.firstTimeout r.back with
    | some t => decide (t.1 ≤ (s.dies[d].ticks : Int))
    | none => false

/-- TIMEOUT: the first timeout transition of a rod that is due fires without an event (R206). -/
def execTimeout (die : Fin 4) (ctx rod : Nat) (s : State) : Host.Outcome State Fault Refusal :=
  match s.dies[die].rods.find? fun r => r.is ctx rod with
  | none => .next s
  | some r =>
    if !s.timeoutDue die r then .next s
    else
      match (s.dies[die].work die r none none).fireOne r.back s.dies[die].ticks with
      | none => .next s
      | some w => .next (s.putWork w)

end Sys2Proof.Machine
end

