-- ==== Sys2Proof/Machine/Module.lean ====
section
/-! DEFINITION. The module as its firmware sees it: configuration images and boot (R25 to R27), logical cores and quads (R16,
R17), the host link (R300), the pod (R303, R304), droop (R305) and uncorrectable errors (R140). -/

namespace Sys2Proof.Machine

/-! ## Configuration images (R16, R17, R25) -/

/-- The enabled physical cores of a die, 13 row + column, in ascending order. -/
def flashCores (f : FlashImage) (d : Fin 4) : List Nat :=
  (List.range 156).filter fun p => !f.disabled[d].contains p

/-- The physical cores that the quads of a die name. -/
def flashQuadCores (f : FlashImage) (d : Fin 4) : List Nat :=
  (f.quads[d].map fun q => [q.1.1, q.1.2, q.2.1, q.2.2]).flatten

/-- A pair is two cores adjacent in one grid row. -/
def adjacentPair (p : Nat × Nat) : Bool := p.1 / 13 == p.2 / 13 && (p.1 + 1 == p.2 || p.2 + 1 == p.1)

/-- A die's description in an image follows R16 and R17. -/
def flashDieOk (f : FlashImage) (d : Fin 4) : Bool :=
  let enabled := flashCores f d
  let named := flashQuadCores f d
  enabled.length == 144 && f.quads[d].length == 36 && (named.all fun p => enabled.contains p) &&
    named.eraseDups.length == 144 && f.quads[d].all fun q => adjacentPair q.1 && adjacentPair q.2

/-- An image is consistent with the hardware. -/
def flashFits (f : FlashImage) : Bool := f.fits && (List.finRange 4).all fun d => flashDieOk f d

/-- The logical number of a physical core of a die (R16). -/
def logicalOf (f : FlashImage) (d : Fin 4) (p : Nat) : Nat := ((flashCores f d).filter fun q => q < p).length

/-- A pair as leader and follower (R17). -/
def pairOf (f : FlashImage) (d : Fin 4) (p : Nat × Nat) : Nat × Nat :=
  (logicalOf f d (min p.1 p.2), logicalOf f d (max p.1 p.2))

/-- The pairs of a die by quad, two of each. -/
def pairsOf (f : FlashImage) (d : Fin 4) : List (Nat × Nat) :=
  (f.quads[d].map fun q => [pairOf f d q.1, pairOf f d q.2]).flatten

/-- The logical cores of a quad. -/
def quadCores (f : FlashImage) (d : Fin 4) (quad : Nat) : List Nat :=
  match f.quads[d][quad]? with
  | none => []
  | some q => [q.1.1, q.1.2, q.2.1, q.2.2].map (logicalOf f d)

/-! ## Boot (R25, R27) -/

/-- Why a slot's image is not applied, as BOOTSTAT.FAIL gives it; none for one that brings the module up. -/
def slotFail (minver : BitVec 16) (f : Option FlashImage) : Option (BitVec 8) :=
  match f with
  | none => some 1
  | some f =>
    if !f.signed then some 2
    else if f.version < minver.toNat then some 3
    else if !flashFits f then some 4
    else if !f.trains then some 5
    else none

/-- The version of a slot's image could be read. -/
def slotRead (f : Option FlashImage) : Option Nat := (f.filter fun x => x.signed).map fun x => x.version

/-- The slots in the order of R25 and R27: by version, higher first, slot 0 first of equals; those whose version cannot be
read last. -/
def slotOrder (a b : Option FlashImage) : List (Option FlashImage) :=
  match slotRead a, slotRead b with
  | some x, some y => if x < y then [b, a] else [a, b]
  | none, some _ => [b, a]
  | _, none => [a, b]

/-- What remains of the module at a reset: flash and MINVER, and what the model holds of the outside. -/
def State.afterReset (s : State) : State :=
  { State.reset with minver := s.minver, flash := s.flash, moves := s.moves, free := s.free }

/-- MODULE_RESET: the firmware applies the first image that passes its checks, and only then raises MINVER; where none does, the
module stays in reset with the reason of the first slot (R25, R27). R25 gives no width to an image's version; here it is any number, of
which CFGVER and MINVER keep 16 bits (DESIGN CHOICE, log 66). -/
def execModuleReset (s : State) : Host.Outcome State Fault Refusal :=
  let t := s.afterReset
  let order := slotOrder t.flash[(0 : Fin 2)] t.flash[(1 : Fin 2)]
  match order.find? fun f => (slotFail t.minver f).isNone with
  | some (some f) =>
    let v := BitVec.ofNat 16 f.version
    .next { t with phase := .running, cfgver := v, minver := if t.minver < v then v else t.minver, config := some f }
  | _ => .next { t with phase := .failed, fail := (order.findSome? (slotFail t.minver)).getD 1 }

/-- MODULE_FLASH_WRITE: an image written to a slot takes effect at the next module reset (R26). -/
def execModuleFlashWrite (slot : Fin 2) (image : Option FlashImage) (s : State) : Host.Outcome State Fault Refusal :=
  .next { s with flash := s.flash.set slot image }

/-- HOST_LINK_TRAINING: the link trains to a supported width and rate (R300); any other is not taken. -/
def execHostLinkTraining (width rate : Nat) (s : State) : Host.Outcome State Fault Refusal :=
  if [1, 2, 4, 8, 16].contains width ∧ 1 ≤ rate ∧ rate ≤ 7 then .next { s with link := some (width, rate) } else .next s

/-! ## The pod (R303, R304) -/

/-- POD_JOIN: the firmware gives the module its number and binds a context's peers, at most one per module (R302, R303). A module that
is not configured has no link port enabled and joins nothing (R25). -/
def execPodJoin (module : BitVec 13) (ctx : Nat) (peers : List (Nat × Nat)) (s : State) : Host.Outcome State Fault Refusal :=
  if s.phase ≠ .running then .next s
  else
    let one := peers.foldl (fun acc p => if acc.any fun q => q.1 == p.1 then acc else acc ++ [p]) []
    let s : State := { s with module := module, joined := true, lost := s.lost.filter fun m => !(one.any fun p => p.1 == m) }
    .next (s.setCtx ctx { s.ctx ctx with peers := one })

/-- POD_MODULE_LOSS: a module has left the pod or no path to it remains. Accesses to it end with BUS_ERROR from now on, those of
engine commands that wait for one of its pages too (R304). -/
def execPodModuleLoss (module : Nat) (s : State) : Host.Outcome State Fault Refusal :=
  let wake := fun (e : EngineCmd) =>
    if e.waiting.any fun o => decide (2 ^ 23 ≤ o) && o / 2 ^ 10 % 2 ^ 13 == module then { e with waiting := none } else e
  .next { s with
    lost := if s.lost.contains module then s.lost else module :: s.lost
    cores := s.cores.map fun c => { c with engines := c.engines.map wake } }

/-! ## Droop (R305) -/

/-- The cores of a quad through a function. -/
def State.mapQuad (s : State) (d : Fin 4) (quad : Nat) (f : Core → Core) : State :=
  match s.config with
  | none => s
  | some c => (quadCores c d quad).foldl (fun acc n => acc.setCore (f (acc.core d n))) s

/-- DROOP_EVENT: a quad's core clock is stretched; the droop is counted (R305, source 10). -/
def execDroopEvent (die : Fin 4) (quad : Nat) (s : State) : Host.Outcome State Fault Refusal :=
  .next (s.mapQuad die quad fun c => { (c.count 10 none 1) with stretched := true })

/-- DROOP_RECOVERY: the quad's core clock is no longer stretched (R305). -/
def execDroopRecovery (die : Fin 4) (quad : Nat) (s : State) : Host.Outcome State Fault Refusal :=
  .next (s.mapQuad die quad fun c => { c with stretched := false })

/-! ## Uncorrectable errors (R140) -/

/-- The entry of the firmware's error log for a data entry: its die, slice and number as one number. Slice 24 of die 0 stands for the
hub's pool. -/
def errorKey (d : Fin 4) (sl num : Nat) : Nat := (d.val * 25 + sl) * 2 ^ 20 + num

/-- The sectors of versions, each with an entry of its own (R136), in the order the model numbers them (log 61); `p`: the versions of the
pool in question. -/
def versionSectors (vs : List Version) (p : Version → Bool) : List (Nat × Fin 4) :=
  vs.zipIdx.flatMap fun v => ((List.finRange 4).filter fun sec => p v.1 && (v.1.data[sec]).isSome).map fun sec => (v.2, sec)

/-- The entry that holds a sector of a version poisoned; none where there is no such entry, or where it is already. -/
def poisonVersion (vs : List Version) (p : Version → Bool) (n : Nat) : Option (List Version) :=
  ((versionSectors vs p)[n]?).bind fun x => (vs[x.1]?).bind fun v =>
    if v.poison[x.2] then none else some (vs.set x.1 { v with poison := v.poison.set x.2 true })

/-- A data entry of a slice poisoned; none where there is no such entry, or where it is already. Number 16,384 names the slice's ZERO entry,
and those above it the entries of versions (log 61). -/
def L2.poisonNumber (l : L2) (sl num : Nat) : Option L2 :=
  if num < 16384 then
    match l.entry? sl num with
    | none => none
    | some x => if x.poison then none else some (l.poisonEntry sl num)
  else if num = 16384 then if l.badZero.contains sl then none else some { l with badZero := sl :: l.badZero }
  else
    (poisonVersion l.versions (fun v => sliceOf (lineOf v.line) == sl) (num - 16385)).map fun vs => { l with versions := vs }

/-- SOFT_ERROR: a data entry is poisoned, which poisons every sector that points at it; the firmware logs the error once. A
poisoned entry is not in the directory, so that nothing joins it (R140). The hub's entries hold the versions of LP6 lines (R127). -/
def execSoftError (die : Fin 4) (slice num : Nat) (s : State) : Host.Outcome State Fault Refusal :=
  let s' :=
    if slice < 24 then (s.dies[die].l2.poisonNumber slice num).map fun l => s.setDie die { s.dies[die] with l2 := l }
    else if slice = 24 ∧ die = 0 then (poisonVersion s.lp6 (fun _ => true) num).map fun vs => ({ s with lp6 := vs } : State)
    else none
  match s' with
  | some t => .next { t with errors := t.errors ++ [errorKey die slice num] }
  | none => .next s

end Sys2Proof.Machine
end

