-- ==== Sys2Proof/Machine/Program.lean ====
section
/-! DEFINITION. A wave as launched (R29, R211), and a state in which a given word is the next to issue (log 4). -/

namespace Sys2Proof.Machine

/-- A split as launched (R29). -/
def Split.launched (pc : BitVec 48) (mask : Mask) : Split :=
  ⟨pc, mask, Pending.clear, .ready, none, false, 0, 0, none, FaultRec.zero⟩

/-- The reset value of a wave's condition codes (R85, R211). -/
def CC.zero : CC := ⟨false, false, false, false, false, false, false⟩

/-- A wave as launched: its number, core, quarter, slot, role and order, and what its context supplies (R28, R29, R33, R102,
R211, R284, R289, R293). -/
def Wave.launched (number : Fin 32) (core : Nat) (quarter : Fin 4) (wslot : Fin 16) (role : BitVec 2) (placed : Nat)
    (ctx : Context) (k : Vector Cap 16) (entry : BitVec 48) (lanes : Mask) : Wave where
  number := number
  core := core
  quarter := quarter
  wslot := wslot
  role := role
  prio := 0
  jmis := false
  pflag := false
  tile := .l32
  rm := 0
  enables := 0
  flags := 0
  s := Vector.replicate 64 0
  v := Vector.replicate 64 (Vector.replicate 32 0)
  m := Vector.replicate 8 0
  k := k
  cc := CC.zero
  bankS := Vector.replicate 16 0
  bankK := ctx.service
  pdead := ctx.pdead
  left := 0
  tvecObj := ctx.tvecObj
  tvecEntry := ctx.tvecEntry
  traceobj := ctx.dbg.trace
  dumpobj := ctx.dbg.dump
  splits := (Vector.replicate 4 none).set 0 (some (Split.launched entry lanes))
  svc := none
  svcPc := 0
  svcWait := none
  park := none
  marker := false
  stores := []
  serial := 0
  outcomes := []
  arrivals := []
  yielded := false
  live := 0
  forced := false
  age := 0
  turn := 0
  placed := placed
  status := .running

/-- A team of one full wave, holding the array and the largest share of registers, at offset 0 of a code object. -/
def Team.plain (ctx : Context) (code : Nat) : Team where
  die := 0
  serial := 0
  ctx := 0
  depth := 0
  leader := 0
  follower := none
  array := true
  gang := 0
  gangSize := 0
  gangIndex := 0
  vregs := 64
  scru := 1
  accu := 16
  lanes := 32
  code := code
  entry := 0
  record := zeros 128
  rod := 0
  events := Vector.replicate 4 none
  frame := 0
  held := []
  windows := Vector.replicate 8 none
  member := none
  killed := false
  placed := 0
  cores := [⟨0, Memory.empty, Memory.empty, []⟩]
  poison := []
  halt := .none
  waves := [Wave.launched 0 0 0 0 0 0 ctx (Vector.replicate 16 0) 0 0xFFFFFFFF]

/-- A code object that holds one text on every die. -/
def CodeObject.plain (obj : Nat) (text : List Byte) : CodeObject := ⟨obj, Vector.replicate 4 text, [], []⟩

/-- A module that runs: context 0 holds a code object 2 whose text is the `nbits` low bits of `w`, and its one wave, in one
split with every lane active, issues next. -/
def State.placeWord (s : State) (nbits w : Nat) : State :=
  let c : Context := { s.contexts[0] with state := .running, code := [CodeObject.plain 2 (leBytes 8 (w % 2 ^ nbits))] }
  { s with
    phase := .running
    contexts := s.contexts.set 0 c
    teams := [Team.plain c 2]
    cur := ⟨0, 0, 0⟩
    moves := [.issue ⟨0, 0, 0⟩] }

end Sys2Proof.Machine
end

