-- ==== Sys2Proof/Machine/Place.lean ====
section
/-! DEFINITION. Launches on their way to a dispatcher (R208 to R210, R265, R425) and the placing of teams on cores (R39 to R42,
R211, R212). -/

namespace Sys2Proof.Machine

/-! ## What a launch binds (R209, R210, R265) -/

/-- The capability bound to k1 to k4, by N − 1 (R209). -/
def State.bindCap (s : State) (l : Launch) (n : Nat) : Cap :=
  let src := recSrc l.record n
  let image : Option Cap :=
    match field src 0 2 with
    | 1 => some (recKimg l.record n)
    | 2 => (l.events[fieldFin 4 (field src 2 2) 0]).map fun e => capOfBytes (slice e.payloadBytes (16 * field src 4 2) 16)
    | _ => none
  match image with
  | some c => if (s.validateImage l.ctx c).isNone then c else 0
  | none => 0

/-- The die a launch goes to: its Frame's, or the home of a named argument's object (R210). -/
def State.launchDie (s : State) (l : Launch) : Fin 4 :=
  if recHome l.record = 0 then l.frame
  else
    let c := l.caps[Fin.ofNat 4 (recHome l.record - 1)]
    if capValid c then
      match s.entry l.ctx (capObj c) with
      | some e => e.home
      | none => l.frame
    else l.frame

/-- The member event in slot 0 of a launch: the quorum's handle and the member (R261, R265). -/
def Launch.memberEvent (l : Launch) : Option (W32 × Nat) :=
  (l.events[(0 : Fin 4)]).bind fun e =>
    if e.key.getLsbD 31 && !e.isRelease then some (e.key &&& 0xFFFFFFC0, e.key.toNat % 64) else none

/-- The launch may be bound as the member its slot 0 names (R265). -/
def Quorum.takes (q : Quorum) (i : Nat) (l : Launch) : Bool :=
  q.state == .opened && decide (i < descN q.desc) && !q.arrived.getLsbD i && !q.departed.getLsbD i &&
    !(q.bound.any fun b => b.1 == i) && decide (l.gangSize ≤ 1)

/-! ## Team serials (R425) -/

/-- A serial that some team of a die holds: resident, queued, held, or saved in a context image or a debugger's. -/
def State.serialHeld (s : State) (d : Fin 4) (n : W32) : Bool :=
  (s.teams.any fun t => t.die == d && t.serial == n) ||
    ((s.dies[d].queue ++ s.dies[d].overflow).any fun l => l.isTeam n) ||
    s.contexts.toList.any fun c =>
      (c.dbg.swapped.any fun x => x.team.die == d && x.team.serial == n) ||
        (c.saved.any fun i => c.state.offModule &&
          ((i.teams.any fun x => x.team.die == d && x.team.serial == n) ||
            i.launches.any fun l => l.1 == d && l.2.isTeam n))

/-- The first serial from a count on that no team holds, searched with fuel. -/
def State.freshSerial (s : State) (d : Fin 4) : Nat → W32 → W32
  | 0, n => n
  | fuel + 1, n => if s.serialHeld d n then s.freshSerial d fuel (n + 1) else n

/-- How many teams can hold a serial of a die. -/
def State.serialFuel (s : State) : Nat :=
  s.teams.length + s.dies.toList.foldl (fun n d => n + d.queue.length + d.overflow.length) 0 +
    s.contexts.toList.foldl (fun n c =>
      n + 1 + (match c.saved with | some i => i.teams.length + i.launches.length | none => 0)) 0

/-- A team serial taken from a die's counter. -/
def State.takeSerial (s : State) (d : Fin 4) : State × W32 :=
  let n := s.freshSerial d s.serialFuel s.dies[d].teamCounter
  (s.setDie d { s.dies[d] with teamCounter := n + 1 }, n)

/-! ## LAUNCH (R208, R42) -/

/-- A record put into a die's launch queue, or into held storage for it where the queue is full (R42). -/
def State.enqueueLaunch (s : State) (d : Fin 4) (l : Launch) : State :=
  let x := s.dies[d]
  if x.queue.length < 4096 ∧ x.overflow = [] then s.setDie d { x with queue := x.queue ++ [l] }
  else s.setDie d { x with overflow := x.overflow ++ [l] }

/-- The ring table of a kernel passes the scratchpad of a record (R240). -/
def State.ringsPass (s : State) (l : Launch) : Bool :=
  match (s.ctx l.ctx).code.find? fun c => c.obj == recCode l.record with
  | none => false
  | some c =>
    match c.rings.find? fun r => r.1 == recEntry l.record with
    | none => false
    | some r => r.2.any fun o => o.any fun g => decide (recScru l.record * 16384 < g.offset + g.slots * g.bytes)

/-- A record that the dispatcher refuses and never queues (R39, R240). -/
def State.refusesLaunch (s : State) (l : Launch) : Bool :=
  recVregs l.record == 0 || decide (64 < recVregs l.record) ||
    decide (96 < recUnits l.record (recLeaderWaves l.record)) || s.ringsPass l

/-- Members of a gang queued one by one with serials of their own, `n` of them left (R41, R425). -/
def State.enqueueGang (s : State) (d : Fin 4) (l : Launch) : Nat → State
  | 0 => s
  | n + 1 =>
    let r := s.takeSerial d
    let m := { l with gangIndex := l.gangSize - (n + 1), serial := some r.2 }
    let s := r.1.setDie l.frame { r.1.dies[l.frame] with
      held := l.held.foldl (fun hs k => retainHeld k hs) r.1.dies[l.frame].held }
    (s.enqueueLaunch d m).enqueueGang d l n

/-- A launch reaches its dispatcher: refused, discarded as a member, or queued with a serial of its own (R39, R265, R425). -/
def State.dispatch (s : State) (l : Launch) : State :=
  let l := { l with caps := Vector.ofFn fun n => s.bindCap l n.val }
  let d := s.launchDie l
  if s.refusesLaunch l then s.releaseAll l.frame l.held
  else
    match l.memberEvent with
    | some (h, i) =>
      match s.quorum l.ctx h with
      | none => s.releaseAll l.frame l.held
      | some q =>
        if q.takes i l then
          let r := s.takeSerial d
          let s := r.1.setQuorum (handleDie h) { q with bound := q.bound ++ [(i, d.val, r.2)] }
          s.enqueueLaunch d { l with serial := some r.2, member := some (h, i) }
        else (s.setQuorum (handleDie h) q.countLate).releaseAll l.frame l.held
    | none =>
      if l.gangSize ≤ 1 then
        let r := s.takeSerial d
        r.1.enqueueLaunch d { l with serial := some r.2 }
      else (s.enqueueGang d { l with gang := s.free + 1 } l.gangSize).releaseAll l.frame l.held

/-- Held storage of some queue holds a launch of a Frame (R42). -/
def State.launchHeld (s : State) (d : Fin 4) : Bool :=
  s.dies.toList.any fun x => x.overflow.any fun l => l.frame == d && l.restored.isNone

/-- A die whose queue can take the oldest record held for it. -/
def State.refillDie (s : State) : Option (Fin 4) :=
  (List.finRange 4).find? fun d => s.dies[d].queue.length < 4096 && !s.dies[d].overflow.isEmpty

/-- LAUNCH: the oldest accepted launch of a Frame goes to a dispatcher; where records are held for a full queue, the oldest of
them enters it first, and nothing more is launched meanwhile (R208, R42). -/
def execLaunch (die : Fin 4) (s : State) : Host.Outcome State Fault Refusal :=
  match s.refillDie with
  | some d =>
    match s.dies[d].overflow with
    | [] => .next s
    | l :: ls => .next (s.setDie d { s.dies[d] with queue := s.dies[d].queue ++ [l], overflow := ls })
  | none =>
    if s.launchHeld die then .next s
    else
      match s.dies[die].accepted with
      | [] => .next s
      | l :: ls =>
        if s.frameRuns l.ctx then .next ((s.setDie die { s.dies[die] with accepted := ls }).dispatch l) else .next s

/-! ## Free state of cores (R40) -/

/-- Waves of a core of a die that hold a slot. -/
def State.coreWaves (s : State) (d : Fin 4) (core : Nat) : List Wave :=
  (s.teams.map fun t => if t.die == d then t.waves.filter fun w => w.core == core && w.status == .running else []).flatten

/-- The free slots of a quarter of a core, in ascending order. -/
def State.freeSlots (s : State) (d : Fin 4) (core : Nat) (q : Fin 4) : List (Fin 16) :=
  let used := (s.coreWaves d core).filter fun w => w.quarter == q
  (List.finRange 16).filter fun k => !(used.any fun w => w.wslot == k)

/-- Pool units a team holds on a core. -/
def Team.unitsOn (t : Team) (core : Nat) : Nat :=
  if t.cores.any fun c => c.core == core then
    ((t.waves.filter fun w => w.core == core).length * t.vregs + 127) / 128 + t.scru + t.accu
  else 0

/-- Pool units in use on a core. -/
def State.unitsUsed (s : State) (d : Fin 4) (core : Nat) : Nat :=
  s.teams.foldl (fun n t => if t.die == d then n + t.unitsOn core else n) 0

/-- A core's array is held (R36). -/
def State.arrayHeld (s : State) (d : Fin 4) (core : Nat) : Bool :=
  s.teams.any fun t => t.die == d && t.array && t.cores.any fun c => c.core == core

/-- Slots for a team's waves on a core, as (wave, quarter, slot), from a base quarter; none where a quarter is full. `n` waves
from number `i` on. R40 names the quarter of a wave and not its slot there: the lowest free one (DESIGN CHOICE, log 68). -/
def State.slotsFrom (s : State) (d : Fin 4) (core b : Nat) : Nat → Nat → List (Nat × Fin 4 × Fin 16) →
    Option (List (Nat × Fin 4 × Fin 16))
  | _, 0, acc => some acc
  | i, n + 1, acc =>
    let q : Fin 4 := Fin.ofNat 4 (b + i)
    match (s.freeSlots d core q).filter fun k => !(acc.any fun a => a.2.1 == q && a.2.2 == k) with
    | [] => none
    | k :: _ => s.slotsFrom d core b (i + 1) n (acc ++ [(i, q, k)])

/-- A core's pool and its array cover a part of a team of `n` waves there. -/
def State.coreFits (s : State) (d : Fin 4) (core : Nat) (r : List Byte) (n : Nat) : Bool :=
  decide (s.unitsUsed d core + recUnits r n ≤ 96) && !(recArray r && s.arrayHeld d core)

/-- Slots for a team, as (wave, core, quarter, slot): `l` waves on a leader, and for a pair `n` more on the follower, from one base quarter,
the lowest that serves every wave of the team (R40). -/
def State.slotsOn (s : State) (d : Fin 4) (leader l : Nat) (follower : Option (Nat × Nat)) :
    Option (List (Nat × Nat × Fin 4 × Fin 16)) :=
  let on := fun (core : Nat) (xs : List (Nat × Fin 4 × Fin 16)) => xs.map fun x => (x.1, core, x.2.1, x.2.2)
  (List.range 4).findSome? fun b =>
    match s.slotsFrom d leader b 0 l [], follower with
    | some x, none => some (on leader x)
    | some x, some (f, n) => (s.slotsFrom d f b l n []).map fun y => on leader x ++ on f y
    | none, _ => none

/-- Where a team stands: its die, cores and slots, as (wave, core, quarter, slot). -/
structure Spot where
  die : Fin 4
  leader : Nat
  follower : Option Nat
  slots : List (Nat × Nat × Fin 4 × Fin 16)
deriving DecidableEq, Repr

/-- The first core or pair of a die that covers a record (R40). -/
def State.findSpot (s : State) (d : Fin 4) (r : List Byte) : Option Spot :=
  match s.config with
  | none => none
  | some f =>
    let w := recWaves r
    let l := recLeaderWaves r
    if recPaired r then
      ((List.range 144).filterMap fun a => (pairsOf f d).find? fun p => p.1 == a).findSome? fun p =>
        if s.coreFits d p.1 r l && s.coreFits d p.2 r (w - l) then
          (s.slotsOn d p.1 l (some (p.2, w - l))).map fun x => ⟨d, p.1, some p.2, x⟩
        else none
    else
      (List.range 144).findSome? fun core =>
        if s.coreFits d core r w then (s.slotsOn d core w none).map fun x => ⟨d, core, none, x⟩ else none

/-! ## A team as launched (R211, R212) -/

/-- A header as window p4 shows it (Table 10.4). -/
def headerBytes (e : Option EventRec) : List Byte :=
  match e with
  | some e => leBytes 8 e.head.toNat ++ leBytes 8 (e.stamp % 2 ^ 48)
  | none => zeros 16

/-- The parameter windows of a launched team. -/
def Launch.windows (l : Launch) (consts : List Byte) : Vector (Option (List Byte)) 8 :=
  let p4 := slice l.record 0 120 ++ leBytes 4 l.rod.toNat ++ leBytes 4 (l.gangIndex % 1024) ++
    (l.events.toList.map headerBytes).flatten
  let payload := fun (j : Fin 4) => (l.events[j]).map fun e => e.payloadBytes
  #v[payload 0, payload 1, payload 2, payload 3, some p4, l.quorum, if l.consts.isEmpty then none else some l.consts,
    if consts.isEmpty then none else some consts]

/-- The 16 capability registers at launch: k1 to k4 bound (R209). -/
def Launch.regs (l : Launch) : Vector Cap 16 :=
  Vector.ofFn fun n => if 1 ≤ n.val ∧ n.val ≤ 4 then l.caps[Fin.ofNat 4 (n.val - 1)] else 0

/-- The lanes of a wave of a team (R28). -/
def waveLanes (lanes w : Nat) : Mask := lowLanes (min 32 (lanes - 32 * w))

/-- A wave of a launched team at its place. -/
def State.launchWave (s : State) (l : Launch) (base : Nat) (x : Nat × Nat × Fin 4 × Fin 16) : Wave :=
  Wave.launched (Fin.ofNat 32 x.1) x.2.1 x.2.2.1 x.2.2.2 (BitVec.ofNat 2 (recRole l.record x.1)) (base + x.1) (s.ctx l.ctx)
    l.regs (BitVec.ofNat 48 (recEntry l.record)) (waveLanes (recLanes l.record) x.1)

/-- The team of a launch at a spot. -/
def State.launchTeam (s : State) (l : Launch) (p : Spot) : Team where
  die := p.die
  serial := l.serial.getD 0
  ctx := l.ctx
  depth := l.depth
  leader := p.leader
  follower := p.follower
  array := recArray l.record
  gang := l.gang
  gangSize := l.gangSize
  gangIndex := l.gangIndex
  vregs := recVregs l.record
  scru := recScru l.record
  accu := recAccu l.record
  lanes := recLanes l.record
  code := recCode l.record
  entry := recEntry l.record
  record := l.record
  rod := l.rod
  events := l.events
  frame := l.frame
  held := l.held
  windows := l.windows (s.ctx l.ctx).consts
  member := l.member
  killed := false
  placed := s.nextPlace
  cores := (p.leader :: p.follower.toList).map fun c => ⟨c, Memory.empty, Memory.empty, []⟩
  poison := []
  halt := .none
  waves := p.slots.map (s.launchWave l s.nextPlace)

/-! ## A team put back after a save or a debugger's stop (R296, R299, R314) -/

/-- A core of a saved team's, where the team stands now. -/
def movedCore (t : Team) (p : Spot) (core : Nat) : Nat :=
  if core = t.leader then p.leader else p.follower.getD p.leader

/-- The waves of a saved team at their new places, their counts 0 (R45); a wave that had ended keeps its old one. -/
def movedWaves (t : Team) (p : Spot) (base : Nat) : List Wave :=
  t.waves.map fun w =>
    match p.slots.find? fun x => x.1 == w.number.val with
    | some x => { w with core := x.2.1, quarter := x.2.2.1, wslot := x.2.2.2, placed := base + w.number.val, age := 0 }
    | none => w

/-- A contribution of a team follows its command to another core. -/
def Contribution.moved (t : Team) (p : Spot) (c : Contribution) : Contribution :=
  match c.home with
  | some (die, core, team, rest) =>
    if die = t.die ∧ team = t.serial then { c with home := some (die, movedCore t p core, team, rest) } else c
  | none => c

/-- The parts of a collective follow a team. -/
def Collective.moved (t : Team) (p : Spot) (c : Collective) : Collective := { c with parts := c.parts.map (Contribution.moved t p) }

/-- A barrier of scope core follows its team. -/
def Barrier.moved (t : Team) (p : Spot) (b : Barrier) : Barrier :=
  if b.ctx = t.ctx ∧ b.sc = .core ∧ b.group = groupOf t .core then
    { b with place := 256 * p.die.val + movedCore t p (b.place % 256) }
  else b

/-- What names a core of a team that moves: barriers and contributions. -/
def State.follow (s : State) (t : Team) (p : Spot) : State :=
  { s with
    barriers := s.barriers.map (Barrier.moved t p)
    dies := s.dies.map fun (d : Die) => ({ d with
      collectives := d.collectives.map (Collective.moved t p)
      waitingParts := d.waitingParts.map fun w => (Collective.moved t p w.1, Contribution.moved t p w.2) } : Die) }

/-- A core's matrix queue with a saved instruction put at its end. It keeps its place in the issue order of its team (R235, R259). -/
def State.requeue (s : State) (die : Fin 4) (core : Nat) (q : SeqItem) : State :=
  let c := s.core die core
  s.setCore { c with queue := c.queue ++ [q] }

/-- A debug block whose team is on its cores again (R314). -/
def Debug.returned (x : Debug) (t : Team) : Debug :=
  if x.state == .resuming && x.swapped.any fun y => y.team.die == t.die && y.team.serial == t.serial then { x with state := .none, swapped := none }
  else x

/-- A saved team put on its new cores, with the B slices, the stopped MMAX instructions and the engine commands of each
(R255, R294, R296); a killed one stops at a kill point it stands in (R277). -/
def State.putBack (s : State) (x : SavedTeam) (p : Spot) : State :=
  let t := { x.team with
    leader := p.leader, follower := p.follower, placed := s.nextPlace, waves := movedWaves x.team p s.nextPlace
    cores := x.team.cores.map fun c => { c with core := movedCore x.team p c.core }
    poison := x.team.poison.map fun e => { e with core := movedCore x.team p e.core } }
  let cores := p.leader :: p.follower.toList
  let s := (cores.zip x.slices).foldl (fun (acc : State) c =>
    if t.array then acc.setCore { acc.core p.die c.1 with slices := c.2 } else acc) s
  let s := x.items.foldl (fun (acc : State) i => acc.requeue p.die (movedCore x.team p i.1) i.2) s
  let s := x.engines.foldl (fun (acc : State) e => acc.readmit p.die (movedCore x.team p e.1) e.2) s
  let s := s.follow x.team p
  let c := s.ctx t.ctx
  let s := { s.setCtx t.ctx { c with dbg := c.dbg.returned t } with teams := s.teams ++ [t] }
  if t.killed then s.stopNow t.die t.serial t.waves.length else s

/-! ## TEAM_PLACEMENT (R40 to R42) -/

/-- A queued launch removed. -/
def State.dropQueued (s : State) (d : Fin 4) (serial : Option W32) : State :=
  s.setDie d { s.dies[d] with queue := s.dies[d].queue.filter fun m => m.serial != serial }

/-- A launched team on its cores; the B slices of a core whose array it holds read zero (R225). -/
def State.newTeam (s : State) (l : Launch) (p : Spot) : State :=
  let s :=
    if recArray l.record then
      (p.leader :: p.follower.toList).foldl (fun (acc : State) c =>
        acc.setCore { acc.core p.die c with slices := Memory.empty }) s
    else s
  { s with teams := s.teams ++ [s.launchTeam l p] }

/-- A launch placed at a spot: counted and traced on its cores (source 12, Table 15.6). A restored team is put back. A killed one that
stops at once as it is put back leaves no record of its placement (DESIGN CHOICE, log 75). -/
def State.placeAt (s : State) (l : Launch) (p : Spot) : State :=
  let s : State :=
    match l.restored with
    | some x => s.putBack x p
    | none => s.newTeam l p
  let s := (p.leader :: p.follower.toList).foldl (fun (acc : State) c => acc.count p.die c 12 (some l.ctx) 1) s
  match s.findTeam p.die (l.serial.getD 0) with
  | some (_, t) => s.traceTeam t 3 0 t.rod.toNat
  | none => s

/-- The queued members of a gang, in index order. -/
def State.gangOf (s : State) (gang : Nat) : List (Fin 4 × Launch) :=
  ((List.finRange 4).map fun d => (s.dies[d].queue.filter fun l => l.gang == gang).map fun l => (d, l)).flatten

/-- The members of a gang placed one after another, each on its own die first and then on the others; none where one does
not fit (R41; dies: DESIGN CHOICE, log 27). A member placed on another die takes a serial there. -/
def State.placeGang (s : State) : List (Fin 4 × Launch) → Option State
  | [] => some s
  | (d, l) :: ls =>
    match (d :: (List.finRange 4).filter fun e => e != d).findSome? fun e => s.findSpot e l.record with
    | none => none
    | some p =>
      let s := s.dropQueued d l.serial
      if p.die = d then (s.placeAt l p).placeGang ls
      else
        let r := s.takeSerial p.die
        (r.1.placeAt { l with serial := some r.2 } p).placeGang ls

/-- A gang placed where all of its members are queued and its context gets placements; none where it cannot be. -/
def State.tryGang (s : State) (l : Launch) : Option State :=
  let ms := s.gangOf l.gang
  if (s.ctx l.ctx).weight = 0 ∨ (s.ctx l.ctx).state ≠ .running ∨ ms.length ≠ l.gangSize then none else s.placeGang ms

/-- The queued members of the module's gangs. -/
def State.gangMembers (s : State) : List Launch :=
  s.dies.toList.flatMap fun x => x.queue.filter fun l => decide (1 < l.gangSize) && l.restored.isNone

/-- An older gang of the module can be placed, so that it is that one's turn (R41). -/
def State.olderGang (s : State) (l : Launch) : Bool :=
  s.gangMembers.any fun m => decide (m.gang < l.gang) && (s.tryGang m).isSome

/-- A queued record placed, alone or with its gang; none where it does not fit, or where it is an older gang's turn (R40, R41). -/
def State.placeRecord (s : State) (d : Fin 4) (l : Launch) : Option State :=
  if l.gangSize ≤ 1 ∨ l.restored.isSome then (s.findSpot d l.record).map fun p => (s.dropQueued d l.serial).placeAt l p
  else if s.olderGang l then none
  else s.tryGang l

/-- The oldest placeable record of a context on a die, placed. -/
def State.placeFor (s : State) (d : Fin 4) (ctx : Nat) : Option State :=
  if (s.ctx ctx).weight = 0 ∨ (s.ctx ctx).state ≠ .running then none
  else (s.dies[d].queue.filter fun l => l.ctx == ctx).findSome? fun l => s.placeRecord d l

/-- The placements a context has left in the current round: its weight where none is listed. -/
def State.creditOf (s : State) (d : Fin 4) (ctx : Nat) : Nat :=
  match s.dies[d].credits.find? fun p => p.1 == ctx with
  | some p => p.2
  | none => (s.ctx ctx).weight

/-- One placement taken from a context's credit. -/
def State.spend (s : State) (d : Fin 4) (ctx : Nat) : State :=
  let x := s.dies[d]
  s.setDie d { x with credits := (ctx, s.creditOf d ctx - 1) :: x.credits.filter fun p => p.1 != ctx }

/-- The next placement on a die: contexts take turns, each as often as its weight in a round, lower numbers first (R42; order
within a round: DESIGN CHOICE, log 27). -/
def State.placeNext (s : State) (d : Fin 4) : Option State :=
  let rec_ := fun (t : State) =>
    (List.range 64).findSome? fun c => if t.creditOf d c = 0 then none else (t.placeFor d c).map fun u => u.spend d c
  match rec_ s with
  | some t => some t
  | none => rec_ (s.setDie d { s.dies[d] with credits := [] })

/-- TEAM_PLACEMENT: a dispatcher places a queued team, or a gang whole, on the first cores whose free state covers it
(R40 to R42). -/
def execTeamPlacement (die : Fin 4) (s : State) : Host.Outcome State Fault Refusal :=
  match s.placeNext die with
  | some t => .next t
  | none => .next s

end Sys2Proof.Machine
end

