-- ==== Sys2Proof/Machine/Context.lean ====
section
/-! DEFINITION. Kill requests from the register window (R292), and the saving, restoring and tearing down of contexts (R277,
R293 to R299). -/

namespace Sys2Proof.Machine

/-- TEAMKILL: a kill request for a resident or queued team of a context (R292). -/
def execTeamkill (ctx : Nat) (die : Fin 4) (team : BitVec 32) (s : State) : Host.Outcome State Fault Refusal :=
  let resident := (s.findTeam die team).any fun t => t.2.ctx == ctx
  let queued := (s.dies[die].launchOf team).any fun l => l.ctx == ctx
  if s.phase = .running ∧ (resident ∨ queued) then .next (s.killTeam die team) else .next s

/-! ## Objects as the firmware reads and writes them -/

/-- SIZE of an object; 0 for one that has no valid entry. -/
def State.objectSize (s : State) (ctx obj : Nat) : Nat :=
  match s.entry ctx obj with
  | some e => e.size
  | none => 0

/-- Bytes written into an object at their homes from an offset up, sector by sector, up to the first that is not there to
write; true where all are. At most `fuel` sectors. -/
def State.writeObject (s : State) (ctx obj : Nat) : Nat → Nat → List Byte → State × Bool
  | 0, _, bs => (s, bs.isEmpty)
  | fuel + 1, off, bs =>
    if bs.isEmpty then (s, true)
    else
      match s.objectPa ctx obj off with
      | none => (s, false)
      | some pa =>
        let n := 256 - off % 256
        (s.pokeSector pa (s.objDomain ctx obj) (bs.take n)).writeObject ctx obj fuel (off + n) (bs.drop n)

/-- `n` bytes of an object read at their homes from an offset up; none where one is not there to read. At most `fuel`
sectors. -/
def State.readObject (s : State) (ctx obj : Nat) : Nat → Nat → Nat → Option (List Byte)
  | 0, _, n => if n = 0 then some [] else none
  | fuel + 1, off, n =>
    if n = 0 then some []
    else
      match s.objectPa ctx obj off with
      | none => none
      | some pa =>
        let w := min n (256 - off % 256)
        (s.readObject ctx obj fuel (off + w) (n - w)).map fun bs => s.peekBytes pa w ++ bs

/-- Free bytes of an image (R296). -/
def State.freeBytes (s : State) (from_ n : Nat) : List Byte :=
  (List.range n).map fun i => Config.imageByte s.free (from_ + i)

/-! ## Waves on their way to a save (R294) -/

/-- Every wave of a team of a context through a function of team and wave. -/
def State.mapWaves (s : State) (ctx : Nat) (f : Team → Wave → Wave) : State :=
  { s with teams := s.teams.map fun (t : Team) => if t.ctx = ctx then { t with waves := t.waves.map (f t) } else t }

/-- The request reaches a wave. -/
def Wave.request (w : Wave) : Wave :=
  if w.status = .running ∧ !w.cc.p then { w with cc := { w.cc with p := true }, left := w.pdead } else w

/-- The waves of a context on a core that the request has not reached. -/
def State.requestDue (s : State) (ctx : Nat) (die : Fin 4) (core : Nat) : Bool :=
  (s.ctx ctx).state == .saving &&
    s.teams.any fun t => t.ctx == ctx && t.die == die &&
      t.waves.any fun w => w.core == core && w.status == .running && !w.cc.p

/-- PREEMPT_REQUEST: the request of a save reaches a core (R293, R294). -/
def execPreemptRequest (ctx : Nat) (die : Fin 4) (core : Nat) (s : State) : Host.Outcome State Fault Refusal :=
  if s.requestDue ctx die core then
    .next (s.mapWaves ctx fun t w => if t.die = die ∧ w.core = core then w.request else w)
  else .next s

/-- Matrix and accumulator instructions of a team on a die that run to completion before a save: all but MMAX (R230). -/
def State.passesLeft (s : State) (t : Team) : Bool :=
  s.cores.any fun c => c.die == t.die && c.queue.any fun q => q.team == t.serial && q.op != 3

/-- A wait that a save lets end first: for the answer of a Frame (R386), for a shoot-down (R380), and for the last checks of an instruction
that has its place in the sequencer (R230, R234). -/
def Wait.holdsSave : Wait → Bool
  | .quorumAnswer _ | .oinv | .tile _ => true
  | .waita _ _ _ | .ewait _ | .arrive | .bar _ | .fence | .stga | .stgw _ _ | .admission | .fpflags | .records => false

/-- A split of the wave is in such a wait. -/
def Wave.holdsSave (w : Wave) : Bool :=
  w.liveSplits.any fun p => (w.waitOf p.1).any Wait.holdsSave

/-- The wave has parked; a park that still waits for its results is none yet (R53). -/
def Wave.parked (w : Wave) : Bool :=
  match w.park with
  | some (.replayable _ _ _) | some .service => true
  | some (.due _ _ _ _ _ _ _) | none => false

/-- A wave is stopped now for its deadline: it has not yielded, its time is up, its results but an MMAX's are written, service
entry does not come first (R298), and nothing that a save lets end first is left. -/
def State.forcedDue (s : State) (t : Team) (w : Wave) : Bool :=
  (s.ctx t.ctx).state == .saving && w.status == .running && w.cc.p && w.left == 0 && !w.yielded && !w.yieldsNow &&
    !w.parked && !s.passesLeft t && (s.serviceDue t w).isNone && !w.holdsSave

/-- The park of a wave that a save forces while it waits for an MMAX: it is taken now, with its event (R288, R294). -/
def State.parkNow (s : State) (c : Cursor) : State :=
  match s.waveAt c with
  | none => s
  | some (t, w) =>
    match w.park with
    | some (.due slot lanes obj cause page mgen access) =>
      (s.setWaveAt c { w with park := some (.replayable slot lanes obj) }).postPark t w obj cause page mgen access
    | some (.replayable _ _ _) | some .service | none => s

/-- FORCED_SAVE: a wave whose deadline has passed is stopped at its next instruction boundary and recorded PREEMPT_FORCED, with
every vector register live; lanes that wait for a translation become a replayable park (R294). -/
def execForcedSave (team wave : Nat) (s : State) : Host.Outcome State Fault Refusal :=
  match s.runningWave team wave with
  | none => .next s
  | some (t, w) =>
    if s.forcedDue t w then
      .next ((s.setWaveAt ⟨team, wave, 0⟩ { w with yielded := true, forced := true, live := -1 }).parkNow ⟨team, wave, 0⟩)
    else .next s

/-! ## CONTEXT_SAVE (R299) -/

/-- CTXSTAT.FAIL set. -/
def State.setFail (s : State) (ctx : Nat) (code : BitVec 8) : State := s.setCtx ctx { s.ctx ctx with fail := code }

/-- The ticks of the four dies. -/
def State.allTicks (s : State) : Vector Nat 4 := s.dies.map fun d => d.ticks

/-- CONTEXT_SAVE: CTXCMD.CMD = 1 starts a save of a running context, unless IMGOBJ is smaller than the image (R299). Its quorum clocks
stop now (R294). -/
def execContextSave (ctx : Nat) (s : State) : Host.Outcome State Fault Refusal :=
  let c := s.ctx ctx
  if s.phase ≠ .running ∨ c.state ≠ .running then .next s
  else
    let n := Config.imageSize s.free
    if s.objectSize ctx c.imgObj.toNat < 64 + n then .next (s.setFail ctx 0xA4)
    else .next (s.setCtx ctx { c with state := .saving, imgLen := n, fail := 0, clocks := some s.allTicks })

/-! ## What an image holds (R219, R220, R277, R296) -/

/-- Marks of a bead turned into ages at a stamp, or ages into marks (R220). -/
def Bead.turned (b : Bead) (img : List Byte) (N : Nat) : Bead :=
  let age := fun (c : Nat) (m : Int) => unitsAt (imgUnit img c) N - m
  { b with
    marks := Vector.ofFn fun c => age c.val b.marks[c]
    fired := b.fired.map fun f => (f.1, age (edgeAt img f.1).c0.clk.val f.2) }

/-- The stamp that a rod's ages are taken at: the Frame's now, or of a STAMPED rod the stamp last offered (R220). -/
def State.ageStamp (s : State) (d : Fin 4) (r : Rod) : Nat := if r.stamped then r.lastOffered else s.dies[d].ticks

/-- A rod's marks turned into ages at a stamp, or back. -/
def Rod.turned (r : Rod) (N : Nat) : Rod :=
  { r with beads := r.beads.map fun b => b.turned r.image N, back := r.back.map fun b => (N : Int) - b }

/-- A quorum's mark turned into an age at a stamp, or back (R277). -/
def Quorum.turned (q : Quorum) (N : Nat) : Quorum := { q with mark := unitsAt (descUnit q.desc) N - q.mark }

/-- A wave as its image holds it: registers that a YIELD left dead read zero, and a replayable park is replayed at the
restore (R295, R298). -/
def Wave.saved (w : Wave) : Wave :=
  let v : Vector (Vector W32 32) 64 :=
    if w.yielded then Vector.ofFn fun n => if w.live.getLsbD n.val then w.v[n] else Vector.replicate 32 0 else w.v
  let park : Option Park := if w.park = some .service then some .service else none
  { w with v := v, cc := { w.cc with p := false }, left := 0, yielded := false, forced := false, park := park }

/-- An MMAX stopped at its boundary, with its exponents fixed (R255). -/
def State.stopItem (s : State) (t : Team) (core : Nat) (q : SeqItem) : SeqItem :=
  if q.op = 3 then q.fix (q.digitRows (t.onCore core)) (s.digitColumns t.die core q t) else q

/-- A team taken off its cores. -/
def State.saveTeam (s : State) (t : Team) : SavedTeam :=
  let cores := t.leader :: t.follower.toList
  { team := t
    slices := cores.map fun n => (s.core t.die n).slices
    items := (cores.map fun n =>
      ((s.core t.die n).queue.filter fun q => q.team == t.serial).map fun q => (n, s.stopItem t n q)).flatten
    engines := (cores.map fun n =>
      ((s.core t.die n).engines.filter fun e => e.die == t.die && e.team == t.serial).map fun e => (n, e)).flatten }

/-- A team taken off its cores for a context image, its waves as they are restored. -/
def State.imageTeam (s : State) (t : Team) : SavedTeam :=
  s.saveTeam { t with waves := t.waves.map Wave.saved }

/-- Something of every die, with the die. -/
def State.fromDies {α : Type} (s : State) (f : Die → List α) : List (Fin 4 × α) :=
  ((List.finRange 4).map fun d => (f s.dies[d]).map fun x => (d, x)).flatten

/-- A version belongs to a member of a quorum of a context. -/
def State.versionOwned (s : State) (ctx : Nat) (v : Version) : Bool := (s.quorum ctx v.handle).isSome

/-- The body of an image, but for its bytes. -/
def State.imageOf (s : State) (ctx counter : Nat) (bytes : List Byte) : SavedImage where
  counter := counter
  bytes := bytes
  rods := (s.fromDies fun d => d.rods.filter fun r => r.ctx == ctx).map fun p => (p.1, p.2.turned (s.ageStamp p.1 p.2))
  held := s.fromDies fun d => d.held.filter fun h => h.ctx == ctx
  attached := s.fromDies fun d => d.attached.filter fun a => a.ctx == ctx
  quorums := (s.fromDies fun d => d.quorums.filter fun q => q.ctx == ctx).map fun p =>
    (p.1, p.2.turned (s.quorumNow ctx p.1))
  versions := ((s.fromDies fun d => d.l2.versions.filter (s.versionOwned ctx)).map fun p => (some p.1, p.2)) ++
    (s.lp6.filter (s.versionOwned ctx)).map fun v => (none, v)
  launches := s.fromDies fun d => (d.queue ++ d.overflow).filter fun l => l.ctx == ctx
  accepted := s.fromDies fun d => d.accepted.filter fun l => l.ctx == ctx
  teams := (s.teams.filter fun t => t.ctx == ctx).map s.imageTeam
  orphans := s.cores.flatMap fun c =>
    (c.engines.filter fun e => e.ctx == ctx && (s.findTeam e.die e.team).isNone).map fun e => (c.die, c.num, e)
  barriers := s.barriers.filter fun b => b.ctx == ctx
  records := s.fromDies fun d => d.records.filter fun r => r.ctx == ctx

/-! ## The records of an image that the manual lays out -/

/-- A clock's age as a bead record holds it, and whether the record says that the clock is saturated: where the age does not fit below
2^31 (R196; log 28). -/
def clockAge (m : Int) : Nat × Bool := ((m % 2 ^ 32).toNat, decide (2 ^ 31 ≤ m))

/-- A bead of a rod as an image holds it (Table 10.6), its marks turned into ages. `index`: the place of a held event among the saved
ones. -/
def Bead.record (b : Bead) (rod : Nat) (index : Nat → Nat) : List Byte :=
  let clk := b.marks.map clockAge
  let sum := fun (f : Fin 4 → Nat) => (List.finRange 4).foldl (fun n j => n + f j) 0
  let slots := sum fun j => bit (b.bound[j]).isSome * 2 ^ (15 + j.val)
  let sat := sum fun j => bit clk[j].2 * 2 ^ (19 + j.val)
  let held := sum fun j => match b.bound[j] with | some n => index n % 2 ^ 14 * 2 ^ (14 * j.val) | none => 0
  leBytes 4 (rod % 2 ^ 11 + b.state % 2 ^ 4 * 2 ^ 11 + slots + sat) ++ leBytes 4 b.key.toNat ++ leBytes 8 held ++
    clk.toList.flatMap fun c => leBytes 4 c.1

/-- A held event as an image holds it: 64 bytes, STAMP included (R219). -/
def EventRec.record (e : EventRec) : List Byte := leBytes 8 e.head.toNat ++ leBytes 8 (e.stamp % 2 ^ 48) ++ e.payloadBytes

/-- The resume records of a team's MMAX instructions, one for each core that one runs on (R255, R256). -/
def SavedTeam.resumes (x : SavedTeam) : List (List Byte) :=
  x.items.flatMap fun i =>
    if i.2.op = 3 then (i.2.coresOf x.team i.1).zipIdx.map fun c => i.2.resume c.2 (x.team.follower == some c.1) else []

/-- The place of a held entry among those saved from its die. -/
def SavedImage.heldIndex (x : SavedImage) (d : Fin 4) (n : Nat) : Nat :=
  ((x.held.filter fun h => h.1 == d).findIdx? fun h => h.2.num == n).getD 0

/-- The records of an image's body whose layout the manual gives (R219, R256), one after another. -/
def SavedImage.body (x : SavedImage) : List Byte :=
  (x.rods.flatMap fun r => r.2.beads.flatMap fun b => b.record r.2.number (x.heldIndex r.1)) ++
    (x.held.flatMap fun h => h.2.ev.record) ++ x.teams.flatMap fun t => t.resumes.flatten

/-! ## Everything of a context taken off the module (R299) -/

/-- A core of a team of a context. -/
def State.itemOf (s : State) (ctx : Nat) (die : Fin 4) (q : SeqItem) : Bool :=
  (s.findTeam die q.team).any fun t => t.2.ctx == ctx

/-- What a die holds of a context's work dropped, all but its quorum registers. -/
def Die.without (x : Die) (ctx : Nat) (versions : List Version) : Die :=
  { x with
    l2 := { x.l2 with versions := versions }
    rods := x.rods.filter fun r => r.ctx != ctx
    held := x.held.filter fun h => h.ctx != ctx
    attached := x.attached.filter fun a => a.ctx != ctx
    accepted := x.accepted.filter fun l => l.ctx != ctx
    queue := x.queue.filter fun l => l.ctx != ctx
    overflow := x.overflow.filter fun l => l.ctx != ctx
    records := x.records.filter fun r => r.ctx != ctx
    credits := x.credits.filter fun p => p.1 != ctx }

/-- Every resource of a context freed but its quorum registers (R277, R299). -/
def State.release_ (s : State) (ctx : Nat) : State :=
  let keep := fun (vs : List Version) => vs.filter fun v => !s.versionOwned ctx v
  { s with
    lp6 := keep s.lp6
    dies := s.dies.map fun d => d.without ctx (keep d.l2.versions)
    cores := s.cores.map fun (c : Core) => ({ c with
      queue := c.queue.filter fun q => !s.itemOf ctx c.die q
      engines := c.engines.filter fun e => e.ctx != ctx } : Core)
    teams := s.teams.filter fun t => t.ctx != ctx
    barriers := s.barriers.filter fun b => b.ctx != ctx }

/-! ## SAVE_IMAGE_WRITE (R296, R299) -/

/-- A wave needs nothing more before the image is written. -/
def State.waveSettled (s : State) (t : Team) (w : Wave) : Bool :=
  w.over ||
    (w.status == .running && w.cc.p && w.stores.isEmpty && !s.retireDue t w && !w.holdsSave &&
      (w.yielded || w.parked || w.yieldsNow || w.liveSplits.isEmpty))

/-- Every wave of a context is yielded, stopped or retired, every store performed, the records of its POSTs among them (R383), every
engine command ended or waiting for a page, and every instruction of the sequencers but MMAX complete (R230, R294). -/
def State.saveReady (s : State) (ctx : Nat) : Bool :=
  (s.ctx ctx).state == .saving &&
    (s.teams.all fun t => t.ctx != ctx || (!s.passesLeft t && t.waves.all (s.waveSettled t))) &&
    (s.dies.toList.all fun d => d.records.all fun r => r.ctx != ctx || !r.posted) &&
    s.cores.all fun c => c.engines.all fun e => e.ctx != ctx || e.waiting.isSome

/-- The 64-byte header of an image (Table 14.9); IV and TAG are free values. -/
def State.imageHeader (s : State) (ctx counter len teams forced : Nat) : List Byte :=
  leBytes 4 0x43475843 ++ leBytes 2 1 ++ leBytes 1 ctx ++ leBytes 1 (bit (teams == 0) + 2 * bit (forced != 0)) ++
    leBytes 8 counter ++ leBytes 8 len ++ leBytes 4 teams ++ leBytes 4 forced ++ s.freeBytes 0 12 ++ zeros 4 ++
    s.freeBytes 12 16

/-- Forced waves of a context. -/
def State.forcedWaves (s : State) (ctx : Nat) : Nat :=
  s.teams.foldl (fun n t => if t.ctx = ctx then n + (t.waves.filter fun w => w.forced).length else n) 0

/-- Teams of a context, resident and queued. -/
def State.savedTeams (s : State) (ctx : Nat) : Nat :=
  (s.teams.filter fun t => t.ctx == ctx).length +
    (s.fromDies fun d => (d.queue ++ d.overflow).filter fun l => l.ctx == ctx).length

/-- The quorum clocks of a context go on from where they stopped (R277, R294). -/
def State.resumeClocks (s : State) (ctx : Nat) : State :=
  let go := fun (d : Fin 4) (q : Quorum) =>
    if q.ctx = ctx then (q.turned (s.quorumNow ctx d)).turned s.dies[d].ticks else q
  { s with dies := Vector.ofFn fun d => ({ s.dies[d] with quorums := s.dies[d].quorums.map (go d) } : Die) }

/-- A save that failed: the waves resume where they stood (R299), and the quorum clocks with them. -/
def State.saveFailed (s : State) (ctx : Nat) : State :=
  let s := s.mapWaves ctx fun _ w => { w with cc := { w.cc with p := false }, left := 0, yielded := false, forced := false }
  let s := s.resumeClocks ctx
  s.setCtx ctx { s.ctx ctx with state := .running, fail := 0xA4, clocks := none }

/-- The body of an image as IMGOBJ holds it, encrypted (R296; log 28). -/
def State.sealed (s : State) (plain : List Byte) (n : Nat) : List Byte :=
  (List.range n).map fun i => Config.sealedByte s.free plain i

/-- A saved team killed where it stands: its waves carry cc.K. -/
def SavedTeam.killed (x : SavedTeam) : SavedTeam :=
  { x with team := { x.team with
      killed := true, waves := x.team.waves.map fun (w : Wave) => ({ w with cc := { w.cc with k := true } } : Wave) } }

/-- A team that waits for its cores again stops at its next kill point there (R277). -/
def State.killLater (s : State) (die : Fin 4) (serial : W32) : State :=
  let kill := fun (l : Launch) => if l.isTeam serial then { l with restored := l.restored.map SavedTeam.killed } else l
  s.setDie die { s.dies[die] with queue := s.dies[die].queue.map kill, overflow := s.dies[die].overflow.map kill }

/-- Kill requests that have not reached their teams: queued members leave, and the waves of resident ones carry cc.K (R277,
R298). -/
def State.killsSaved (s : State) (ctx : Nat) : State :=
  let due := (s.fromDies fun d => (d.quorums.filter fun q => q.ctx == ctx).map fun q => q.killing).map fun p => p.2
  due.flatten.foldl (fun acc k =>
    let die : Fin 4 := Fin.ofNat 4 k.2.1
    match acc.findTeam die k.2.2 with
    | some (i, t) =>
      acc.setTeam i { t with
        killed := true, waves := t.waves.map fun (w : Wave) => ({ w with cc := { w.cc with k := true } } : Wave) }
    | none => if (acc.dies[die].launchOf k.2.2).any fun l => l.restored.isSome then acc.killLater die k.2.2 else acc.killQueued die k.2.2) s

/-- SAVE_IMAGE_WRITE: the image is written from offset 0 of IMGOBJ, and the context's resources are freed; a page that is not
there ends the save with SAVE_FAULT, and its waves resume (R296, R299). -/
def execSaveImageWrite (ctx : Nat) (s : State) : Host.Outcome State Fault Refusal :=
  if !s.saveReady ctx then .next s
  else
    let c := s.ctx ctx
    let k := s.killsSaved ctx
    let counter := c.saveCtr.toNat + 1
    let forced := k.forcedWaves ctx
    let bytes := k.imageHeader ctx counter c.imgLen (k.savedTeams ctx) forced ++
      k.sealed (k.imageOf ctx counter []).body c.imgLen
    match s.writeObject ctx c.imgObj.toNat (bytes.length / 256 + 2) 0 bytes with
    | (t, false) => .next (t.saveFailed ctx)
    | (t, true) =>
      let t := t.killsSaved ctx
      let image := t.imageOf ctx counter bytes
      .next ((t.release_ ctx).setCtx ctx { c with
        state := .saved, saveCtr := c.saveCtr + 1, forcedW := BitVec.ofNat 32 forced, fail := 0, saved := some image
        clocks := none })

/-! ## CONTEXT_RESTORE (R299) -/

/-- Why the header of an image is refused: RESTORE_STALE. -/
def State.headerStale (s : State) (ctx : Nat) (h : List Byte) : Bool :=
  let c := s.ctx ctx
  bytesNat h 0 4 != 0x43475843 || bytesNat h 4 2 != 1 || bytesNat h 6 1 != ctx || bytesNat h 8 8 != c.saveCtr.toNat ||
    decide (s.objectSize ctx c.imgObj.toNat < 64 + bytesNat h 16 8)

/-- The image in IMGOBJ is whole and unchanged: its tag holds over it (log 28). -/
def State.tagHolds (s : State) (ctx : Nat) (image : SavedImage) : Bool :=
  let n := image.bytes.length
  s.readObject ctx (s.ctx ctx).imgObj.toNat (n / 256 + 2) 0 n == some image.bytes

/-- The first number above those of a die's held entries. -/
def Die.heldBase (x : Die) : Nat := x.held.foldl (fun n h => max n (h.num + 1)) 0

/-- The number that a held entry saved on die `d` takes on a die. -/
def State.heldNum (s : State) (e d : Fin 4) (n : Nat) : Nat := s.dies[e].heldBase + 4 * n + d.val

/-- A rod's references renumbered. -/
def Rod.renumber (r : Rod) (f : Nat → Nat) : Rod :=
  { r with beads := r.beads.map fun b => ({ b with bound := b.bound.map fun o => o.map f } : Bead) }

/-- References of a rod to a held entry. -/
def Rod.refsTo (r : Rod) (n : Nat) : Nat :=
  r.beads.foldl (fun k b => k + (b.bound.toList.filter fun o => o == some n).length) 0

/-- A launch's references renumbered, those of a team waiting in it too. -/
def Launch.renumber (l : Launch) (f : Nat → Nat) : Launch :=
  { l with
    held := l.held.map f
    restored := l.restored.map fun x => { x with team := { x.team with held := x.team.held.map f } } }

/-- The record that a saved team waits in for its cores (R299). -/
def SavedTeam.queued (x : SavedTeam) : Launch :=
  let t := x.team
  { ctx := t.ctx, frame := t.frame, record := t.record, consts := [], rod := t.rod, events := t.events, quorum := none
    held := t.held, depth := t.depth, gangSize := t.gangSize, gangIndex := t.gangIndex, gang := t.gang
    caps := Vector.replicate 4 0, member := t.member, serial := some t.serial, order := 0, restored := some x }

/-- The held entries that a die takes of an image: those its rods refer to, and those its launches and teams do (R219). -/
def State.heldFor (s : State) (image : SavedImage) (homes : List (Fin 4 × Fin 4 × Rod)) (e : Fin 4) : List Held :=
  image.held.filterMap fun p =>
    let byRods := fun (here : Fin 4 → Bool) =>
      homes.foldl (fun n r => if r.1 = p.1 ∧ here r.2.1 then n + r.2.2.refsTo p.2.num else n) 0
    let n := byRods (fun x => x == e) + if e = p.1 then p.2.refs - byRods (fun _ => true) else 0
    if n = 0 then none else some { p.2 with num := s.heldNum e p.1 p.2.num, refs := n }

/-- The die an object's stream is on now; where the object has no valid entry any more, the one it was saved from. -/
def State.homeAgain (s : State) (ctx obj : Nat) (saved : Fin 4) : Fin 4 :=
  match s.entry ctx obj with
  | some e => e.home
  | none => saved

/-- What a die takes of an image but for its launches. `homes`: each rod with the die it was on and the die it is loaded on. -/
def State.restoreDie (s : State) (image : SavedImage) (homes : List (Fin 4 × Fin 4 × Rod)) (e : Fin 4) : Die :=
  let x := s.dies[e]
  let mine := image.quorums.filter fun p => p.1 == e
  { x with
    rods := x.rods ++ (homes.filter fun r => r.2.1 == e).map fun r =>
      (r.2.2.turned (s.ageStamp e r.2.2)).renumber (s.heldNum e r.1)
    held := x.held ++ s.heldFor image homes e
    attached := x.attached ++ (image.attached.filter fun a => s.homeAgain a.2.ctx a.2.obj a.1 == e).map fun a => a.2
    quorums := x.quorums.map fun q =>
      match mine.find? fun p => p.2.num == q.num with
      | some p => p.2.turned x.ticks
      | none => q
    accepted := x.accepted ++ (image.accepted.filter fun l => l.1 == e).map fun l => l.2.renumber (s.heldNum e e)
    records := x.records ++ (image.records.filter fun r => s.homeAgain r.2.ctx r.2.obj r.1 == e).map fun r => r.2
    l2 := { x.l2 with versions := x.l2.versions ++ image.versions.filterMap fun v => if v.1 = some e then some v.2 else none } }

/-- The rods of an image with the dies they were on and are loaded on (R220). -/
def State.rodHomes (s : State) (ctx : Nat) (image : SavedImage) : List (Fin 4 × Fin 4 × Rod) :=
  image.rods.map fun p => (p.1, s.homeAgain ctx (imgStream p.2.image 0) p.1, p.2)

/-- The rods, beads and held events of a die are within Table 1.4 (R20), and the version tags of its slices within R136. -/
def Die.within (x : Die) : Bool :=
  decide (x.rods.length ≤ 512) && decide (x.rods.foldl (fun n r => n + r.beads.length) 0 ≤ 65536) &&
    decide (x.held.length ≤ 16384) &&
    (List.range 24).all fun sl => decide ((x.l2.versions.filter fun v => sliceOf (lineOf v.line) == sl).length ≤ 1024)

/-- The Frames and the homes have room for what an image holds. A restore never fails for want of room (R299), and a Frame holds no more
than R20 gives it: until there is room the context stays in STATE 4 (DESIGN CHOICE, log 69). -/
def State.restoreFits (s : State) (ctx : Nat) (image : SavedImage) : Bool :=
  let homes := s.rodHomes ctx image
  ((List.finRange 4).all fun e => (s.restoreDie image homes e).within) &&
    decide (s.lp6.length + (image.versions.filter fun v => v.1.isNone).length ≤ 1024)

/-- The state of a context loaded from its image (R220, R277, R299): rods and quorums first, then the teams, each queued for its
saved die ahead of the context's other records. The slices that take versions make their reserves whole again (R134). -/
def State.restore (s : State) (ctx : Nat) (image : SavedImage) : State :=
  let homes := s.rodHomes ctx image
  let t : State := { s with
    dies := Vector.ofFn fun e => s.restoreDie image homes e
    lp6 := s.lp6 ++ image.versions.filterMap fun v => if v.1 = none then some v.2 else none
    barriers := s.barriers ++ image.barriers }
  let t := image.versions.foldl (fun (acc : State) v => acc.versionRoom v.2.line true) t
  let num := fun (l : Launch) => l.renumber (s.heldNum l.frame l.frame)
  let t := image.teams.foldl (fun (acc : State) x => acc.enqueueLaunch x.team.die (num x.queued)) t
  let t := image.launches.foldl (fun (acc : State) l => acc.enqueueLaunch l.1 (num l.2)) t
  let t := image.orphans.foldl (fun (acc : State) e => acc.readmit e.1 e.2.1 e.2.2) t
  let c := t.ctx ctx
  let dbg := { c.dbg with swapped := c.dbg.swapped.map fun x =>
    { x with team := { x.team with held := x.team.held.map (s.heldNum x.team.frame x.team.frame) } } }
  t.setCtx ctx { c with state := .running, fail := 0, saved := none, clocks := none, dbg := dbg }

/-- The restore of a context whose image is checked goes on: there is room for it. -/
def State.restoreDue (s : State) (ctx : Nat) : Bool :=
  (s.ctx ctx).state == .restoring && (s.ctx ctx).saved.any (s.restoreFits ctx)

/-- A checked image loaded, or STATE 4 until it can be. -/
def State.restoreOrWait (s : State) (ctx : Nat) (image : SavedImage) : State :=
  if s.restoreFits ctx image then s.restore ctx image else s.setCtx ctx { s.ctx ctx with state := .restoring, fail := 0 }

/-- CONTEXT_RESTORE: CTXCMD.CMD = 2 checks the header, then the tag over the whole image, and then loads it (R299); the same step loads a
checked image for which there is room now. -/
def execContextRestore (ctx : Nat) (s : State) : Host.Outcome State Fault Refusal :=
  let c := s.ctx ctx
  match c.saved with
  | none => .next s
  | some image =>
    if s.phase ≠ .running ∨ !c.state.offModule then .next s
    else if c.state = .restoring then .next (s.restoreOrWait ctx image)
    else if (s.readObject ctx c.imgObj.toNat 1 0 64).all (s.headerStale ctx) then .next (s.setFail ctx 0xA2)
    else if !s.tagHolds ctx image then .next (s.setFail ctx 0xA3)
    else .next (s.restoreOrWait ctx image)

/-! ## CONTEXT_TEAR_DOWN (R299) -/

/-- A team of a context with a wave that runs: the places of both. -/
def State.firstRunning (s : State) (ctx : Nat) : Option Cursor :=
  s.teams.zipIdx.findSome? fun t =>
    if t.1.ctx = ctx then (t.1.waves.findIdx? fun w => w.status == .running).map fun j => ⟨t.2, j, 0⟩ else none

/-- Every wave of a context's teams stopped, at most `fuel` of them. -/
def State.stopContext (s : State) (ctx : Nat) : Nat → State
  | 0 => s
  | fuel + 1 =>
    match s.firstRunning ctx with
    | none => s
    | some c => (s.stopWave c).stopContext ctx fuel

/-- A wave of a context's teams that has stopped with stores behind records that are still to be written. -/
def State.firstHolding (s : State) (ctx : Nat) : Option Cursor :=
  s.teams.zipIdx.findSome? fun t =>
    if t.1.ctx = ctx then (t.1.waves.findIdx? fun w => !w.stores.isEmpty).map fun j => ⟨t.2, j, 0⟩ else none

/-- Those stores performed, for the records before them are dropped with the context; at most `fuel` waves. -/
def State.finishStores (s : State) (ctx : Nat) : Nat → State
  | 0 => s
  | fuel + 1 =>
    match s.firstHolding ctx with
    | none => s
    | some c =>
      match s.waveAt c with
      | none => s
      | some (t, w) =>
        let w' := { w with stores := [] }
        let s := (s.performAll t.ctx t.die w.core t.serial w.stores).setWaveAt c w'
        (s.reapTeam t.die t.serial w').finishStores ctx fuel

/-- The waves of a context. -/
def State.contextWaves (s : State) (ctx : Nat) : Nat :=
  s.teams.foldl (fun n t => if t.ctx = ctx then n + t.waves.length else n) 0

/-- The teams of a context marked as killed. -/
def State.markKilled (s : State) (ctx : Nat) : State :=
  { s with teams := s.teams.map fun (t : Team) => if t.ctx = ctx then { t with killed := true } else t }

/-- The rods of a context unloaded, their streams detached. -/
def State.unloadAll (s : State) (ctx : Nat) : State :=
  (s.allRods ctx).foldl (fun acc p => acc.unload p.1 p.2) s

/-- The quorum registers of a context freed. -/
def State.freeQuorums (s : State) (ctx : Nat) : State :=
  (s.fromDies fun d => d.quorums.filter fun q => q.ctx == ctx).foldl (fun acc p => acc.freeQuorum p.1 p.2) s

/-- Collectives of a context dropped. -/
def State.dropColls (s : State) (ctx : Nat) : State :=
  { s with dies := s.dies.map fun (d : Die) => ({ d with
      collectives := d.collectives.filter fun c => c.ctx != ctx
      waitingParts := d.waitingParts.filter fun w => w.1.ctx != ctx } : Die) }

/-- The lines of a domain leave a die's L2. -/
def State.evictDomain (s : State) (dom : Nat) (d : Fin 4) : State :=
  let b := s.bank d
  s.setBank (((b.l2.tags.filter fun t => t.dom == dom).map fun t => t.line).foldl Bank.evict b)

/-- The lines of a context's domain leave every L1 and L2, dirty sectors written back, so that nothing is left under a key that is
discarded (R130). Translation buffers keep their entries (R153). -/
def State.purgeDomain (s : State) (dom : Nat) : State :=
  (List.finRange 4).foldl (fun acc d => acc.evictDomain dom d) (s.dropL1 fun _ x => x.dom == dom)

/-- A context as tear down leaves it: what the host wrote in the register window stays, and so do the counters of saves. -/
def Context.torn (c : Context) : Context :=
  { Context.none with
    imgObj := c.imgObj, forcedW := c.forcedW, saveCtr := c.saveCtr, oinvObj := c.oinvObj, watch := c.watch
    dbg := { Debug.zero with
      die := c.dbg.die, team := c.dbg.team, trace := c.dbg.trace, dump := c.dbg.dump, swapObj := c.dbg.swapObj } }

/-- CONTEXT_TEAR_DOWN: CTXCMD.CMD = 3 kills every team of a context, retracts every version, frees every quorum register, unloads
every rod, and discards the hash key (R130, R299). -/
def execContextTearDown (ctx : Nat) (s : State) : Host.Outcome State Fault Refusal :=
  if s.phase ≠ .running ∨ (s.ctx ctx).state = .none then .next s
  else
    let n := s.contextWaves ctx
    let s := ((s.markKilled ctx).stopContext ctx n).finishStores ctx n
    let s := s.unloadAll ctx
    let s := ((s.release_ ctx).freeQuorums ctx).dropColls ctx
    let s := s.purgeDomain (ctx + 1)
    .next (s.setCtx ctx (s.ctx ctx).torn)

end Sys2Proof.Machine
end

