-- ==== Sys2Proof/Machine/Debug.lean ====
section
/-! DEFINITION. Debug stops and resumes (R312 to R314), dumps (R316, R317) and where a split stands among its kernel's safe
points (R73). -/

namespace Sys2Proof.Machine

/-! ## Safe points (R73) -/

/-- The safe points of a team's kernel, in ascending ordinal. -/
def State.safePoints (s : State) (t : Team) : List SafePoint :=
  match (s.ctx t.ctx).code.find? fun c => c.obj == t.code with
  | none => []
  | some c =>
    match c.safe.find? fun p => p.1 == t.entry with
    | none => []
    | some p => p.2

/-- The safe point at a PC. -/
def State.safeAt (s : State) (t : Team) (pc : BitVec 48) : Option SafePoint :=
  (s.safePoints t).find? fun p => p.pc == pc.toNat

/-- The nearest safe point at or before a PC (R308). -/
def State.safeBefore (s : State) (t : Team) (pc : BitVec 48) : Option SafePoint :=
  (s.safePoints t).foldl (fun acc p =>
    if p.pc ≤ pc.toNat ∧ acc.all fun q => q.pc ≤ p.pc then some p else acc) none

/-! ## Stopping at safe points (R314) -/

/-- The team stops for a debugger or a dump; a kill wins over that (R314). -/
def Team.stopping (t : Team) : Bool := !t.killed && match t.halt with | .stopping _ _ _ _ => true | _ => false

/-- A wait in which a split of a stopping team stops. -/
def Wait.debugStops : Wait → Bool
  | .waita _ _ _ | .ewait _ | .arrive | .bar _ | .stga => true
  | .fence | .stgw _ _ | .admission | .quorumAnswer _ | .oinv | .fpflags | .records | .tile _ => false

/-- A debug block's view of the split that hit. -/
def Team.isHit (t : Team) (w : Wave) (slot : Fin 4) : Bool :=
  match t.halt with
  | .stopping _ hit _ _ => hit == some (w.number.val, slot)
  | _ => false

/-- The split a cursor names stops now: its team is stopping, and it would issue next at a safe point. -/
def State.holdsAt (s : State) (c : Cursor) : Option (Team × Wave × Split × SafePoint) :=
  (s.waveAt c).bind fun p =>
    (p.2.splits[c.slot]).bind fun sp =>
      if p.1.stopping && p.2.svc.isNone && sp.status == .ready && !sp.repActive then
        (s.safeAt p.1 sp.pc).map fun q => (p.1, p.2, sp, q)
      else none

/-- A split stopped at a safe point; of the one that hit, ORD is kept. -/
def State.hold (s : State) (c : Cursor) (t : Team) (w : Wave) (sp : Split) (q : SafePoint) : State :=
  let held : Split := { sp with status := .held }
  let s := s.setWaveAt c { w with splits := w.splits.set c.slot (some held) }
  if t.isHit w c.slot then
    let x := s.ctx t.ctx
    s.setCtx t.ctx { x with dbg := { x.dbg with ord := BitVec.ofNat 16 q.ord } }
  else s

/-- The team after an issue of a split: SKID counts those of the one that hit. -/
def Team.countSkid (t : Team) (w : Wave) (slot : Fin 4) : Team :=
  match t.halt with
  | .stopping c hit n d => if hit = some (w.number.val, slot) then { t with halt := .stopping c hit (n + 1) d } else t
  | _ => t

/-- Nothing of a team that has stopped on its cores issues (R317), nor a split of a stopping one that waits where it stops. A killed team
goes on to its kill points (R314). -/
def Team.bars (t : Team) (w : Wave) (slot : Fin 4) : Bool :=
  if t.killed then false
  else
    match t.halt with
    | .none => false
    | .stopped _ _ => true
    | .stopping _ _ _ _ =>
      match w.splits[slot] with
      | some sp => w.svc.isNone && (sp.status == .held || sp.waitsFor.any Wait.debugStops)
      | none => false

/-- The split a cursor names is barred so. -/
def State.debugBars (s : State) (c : Cursor) : Bool := (s.waveAt c).any fun p => p.1.bars p.2 c.slot

/-- DEBUG_STOP: a stop command for the target team while a debugger is attached (R312 to R314). -/
def execDebugStop (ctx : Nat) (s : State) : Host.Outcome State Fault Refusal :=
  let c := s.ctx ctx
  let d : Fin 4 := Fin.ofNat 4 c.dbg.die.toNat
  match s.findTeam d c.dbg.team with
  | none => .next s
  | some (i, t) =>
    if s.phase = .running ∧ c.dbg.attach ∧ c.dbg.state = .none ∧ t.ctx = ctx ∧ t.halt = .none ∧ !t.killed then
      let dbg := { c.dbg with state := .stopping, cause := 0, skid := 0, ord := 0xFFFF }
      .next ((s.setTeam i { t with halt := .stopping 0 none 0 false }).setCtx ctx { c with dbg := dbg })
    else .next s

/-! ## Dumps (R316, R317) -/

/-- Whether a split's status is one in which a stopping team's split has stopped. -/
def Split.stopped (sp : Split) : Bool :=
  match sp.status with
  | .held | .parked | .atJoin => true
  | .waiting k => k.debugStops
  | .ready | .trapped => false

/-- 16 bytes that open a record and hold its kind, length and wave, in an order the manual does not give. -/
def State.recordHead (s : State) (n : Nat) : List Byte := s.freeBytes (n * 2 ^ 20) 16

/-- A record of free content. -/
def State.freeRecord (s : State) (n len : Nat) : List Byte := s.freeBytes (n * 2 ^ 20) len

/-- The unit records of pool memory, `k` of them. -/
def unitBytes (m : Memory) (k : Nat) : List (List Byte) := (List.range k).map fun u => m.readBytes (16384 * u) 16384

/-- The records of a dump of a team: the team, its waves, then its scratchpad and its accumulator units, those of the leader
first. -/
def State.dumpRecords (s : State) (t : Team) : List (List Byte) :=
  let waves := t.waves.zipIdx.map fun w => s.freeRecord (w.2 + 1) (1024 + 128 * t.vregs)
  let units := (t.cores.map fun c => unitBytes c.scratch t.scru).flatten ++
    (t.cores.map fun c => unitBytes c.tiles t.accu).flatten
  s.freeRecord 0 256 :: waves ++ units.zipIdx.map fun u => s.recordHead (u.2 + 1 + t.waves.length) ++ u.1

/-- The 64-byte header of a dump. -/
def dumpHeader (flags need records written team ctx cause ordinal : Nat) : List Byte :=
  leBytes 4 0x504D5544 ++ leBytes 4 flags ++ leBytes 8 need ++ leBytes 4 records ++ leBytes 4 written ++ leBytes 4 team ++
    leBytes 1 ctx ++ leBytes 1 cause ++ leBytes 2 ordinal ++ zeros 32

/-- How the records of a dump came out: how many were written, and whether one was left out or faulted. -/
structure DumpEnd where
  written : Nat
  trunc : Bool
  fault : Bool
deriving DecidableEq, Repr

/-- Whole records written one after another up to the last that fits, or to a fault. -/
def State.writeRecords (s : State) (ctx obj size : Nat) : Nat → Nat → List (List Byte) → State × DumpEnd
  | _, n, [] => (s, ⟨n, false, false⟩)
  | off, n, r :: rs =>
    if size < off + r.length then (s, ⟨n, true, false⟩)
    else
      match s.writeObject ctx obj (r.length / 256 + 2) off r with
      | (s, false) => (s, ⟨n, false, true⟩)
      | (s, true) => s.writeRecords ctx obj size (off + r.length) (n + 1) rs

/-- A dump of a team with a cause and an ordinal, into the object of its DUMPOBJ. -/
def State.dump (s : State) (t : Team) (cause : BitVec 8) (ordinal : Nat) : State :=
  let obj := match t.waves.head? with | some w => field w.dumpobj.toNat 0 24 | none => 0
  let rs := s.dumpRecords t
  let need := 64 + rs.foldl (fun n r => n + r.length) 0
  let head := fun (flags written : Nat) =>
    dumpHeader flags need rs.length written t.serial.toNat t.ctx cause.toNat ordinal
  match s.writeObject t.ctx obj 2 0 (head 0 0) with
  | (s, false) => s
  | (s, true) =>
    match s.writeRecords t.ctx obj (s.objectSize t.ctx obj) 64 0 rs with
    | (s, e) => (s.writeObject t.ctx obj 2 0 (head (if e.fault then 4 else 1 + 2 * bit e.trunc) e.written)).1

/-- The safe-point ordinal of a split of a team, for a dump (R316): that of the wave whose fault is the cause. -/
def State.ordinalOf (s : State) (t : Team) (hit : Option (Nat × Fin 4)) : Nat :=
  let sp := hit.bind fun h => (t.waves.find? fun w => w.number.val == h.1).bind fun w => w.splits[h.2]
  match sp.bind fun p => s.safeBefore t p.pc with
  | some q => q.ord
  | none => 0xFFFF

/-- The split whose fault parked a wave for good: the one in service, else the one that found no handler (R287). -/
def Wave.faultSlot (w : Wave) : Option (Fin 4) :=
  match w.svc with
  | some j => some j
  | none =>
    match w.liveSplits.find? fun p => p.2.status == .trapped with
    | some p => some p.1
    | none => (w.liveSplits.find? fun p => p.2.status == .parked).map fun p => p.1

/-- The first wave of a team that is parked for good and asks for a dump (R317), with the split and the cause. -/
def Team.autoPark (t : Team) : Option (BitVec 8 × Nat × Fin 4) :=
  t.waves.findSome? fun w =>
    if w.park = some .service ∧ w.dumpobj.getLsbD 31 then
      w.faultSlot.bind fun j => (w.splits[j]).map fun sp => (sp.record.cause, w.number.val, j)
    else none

/-- The dump that a wave parked for good asks for, taken where a debugger's stop of the team completes (R317; log 63). -/
def State.autoDumped (s : State) (t : Team) : State :=
  match t.autoPark with
  | some (cause, hit) => s.dump t cause (s.ordinalOf t (some hit))
  | none => s

/-! ## DEBUG_STOP_COMPLETE (R314) -/

/-- A wave of a stopping team has stopped. -/
def State.waveHalted (s : State) (t : Team) (w : Wave) : Bool :=
  w.over ||
    (w.status == .running && w.stores.isEmpty && !s.retireDue t w && !w.yielded &&
      (w.park.isSome ||
        (w.svc.isNone && w.eligible.isNone && w.liveSplits.all fun p => p.2.stopped)))

/-- A team has stopped: its waves have, its passes are complete but for MMAX, and its engine commands have ended or wait for a
page. -/
def State.halted (s : State) (t : Team) : Bool :=
  t.stopping && !s.passesLeft t && t.waves.all (s.waveHalted t) &&
    s.cores.all fun c => c.engines.all fun e => !(e.die == t.die && e.team == t.serial) || e.waiting.isSome

/-- A held split may issue again. -/
def Split.unheld (sp : Split) : Split := if sp.status = .held then { sp with status := .ready } else sp

/-- A wave as it resumes. -/
def Wave.unheld (w : Wave) : Wave := { w with splits := w.splits.map fun o => o.map Split.unheld }

/-- A team's matrix work and engine commands taken off the cores. -/
def State.withoutTeam (s : State) (i : Nat) (t : Team) : State :=
  { s with
    teams := s.teams.eraseIdx i
    cores := s.cores.map fun (c : Core) =>
      if c.die = t.die then
        ({ c with
          queue := c.queue.filter fun q => !(q.team == t.serial)
          engines := c.engines.filter fun e => !(e.die == t.die && e.team == t.serial) } : Core)
      else c }

/-- A team section in plain form (R314): its resume records as R256 lays them out, at places the manual does not give, and free bytes
else (log 30). -/
def State.section_ (s : State) (x : SavedTeam) : List Byte :=
  (x.resumes.zipIdx.flatMap fun r => s.freeBytes (2 ^ 20 * (r.2 + 1)) (Config.sectionGap s.free r.2) ++ r.1) ++
    s.freeBytes 0 (Config.imageSize s.free)

/-- A stopped team swapped out: written to SWAPOBJ, its resources freed, the event posted (R314). -/
def State.swapOut (s : State) (i : Nat) (t : Team) (cause : BitVec 8) (skid : Nat) : State :=
  let c := s.ctx t.ctx
  let x := s.saveTeam { t with halt := .none, waves := t.waves.map Wave.unheld }
  let section_ := s.section_ x
  let s := s.traceTeam t 5 c.dbg.ord.toNat cause.toNat
  let s := (s.writeObject t.ctx c.dbg.swapObj.toNat (section_.length / 256 + 2) 0 section_).1
  let s := s.withoutTeam i t
  let s := s.postFault t.ctx 0xF2 (srcDie t.die) 0 t.serial (leBytes 4 t.serial.toNat ++ leBytes 4 cause.toNat)
  let c := s.ctx t.ctx
  s.setCtx t.ctx { c with
    dbg := { c.dbg with state := .stopped, cause := cause, skid := BitVec.ofNat 32 skid, swapped := some x } }

/-- DEBUG_STOP_COMPLETE: a stopping team all of whose waves have stopped is swapped out, or stays on its cores and is dumped
(R314, R317). -/
def execDebugStopComplete (team : Nat) (s : State) : Host.Outcome State Fault Refusal :=
  match s.teams[team]? with
  | none => .next s
  | some t =>
    if !s.halted t then .next s
    else
      match t.halt with
      | .stopping cause _ skid false => .next ((s.autoDumped t).swapOut team t cause skid)
      | .stopping cause hit _ true =>
        let t : Team := { t with halt := .stopped cause hit }
        let n := s.ordinalOf t hit
        .next (((s.setTeam team t).traceTeam t 5 n cause.toNat).dump t cause n)
      | _ => .next s

/-! ## DEBUG_RESUME (R314) -/

/-- The registers live at a safe point, with those of the split's kernel. -/
def SafePoint.lives (q : SafePoint) : DebugReg → Bool
  | .v n => q.v.getLsbD n.val
  | .s n => q.s.getLsbD n.val
  | .m n => q.m.getLsbD n.val
  | .k n => q.k.getLsbD n.val
  | .a n => q.a.getLsbD n.val

/-- A debugger may change a register of a wave: it is live at the safe point of a split of it. -/
def State.mayEdit (s : State) (t : Team) (e : DebugEdit) : Bool :=
  t.waves.any fun w => w.number.val == e.wave &&
    w.liveSplits.any fun p => (s.safeAt t p.2.pc).any fun q => q.lives e.reg

/-- A word of an edit's value. -/
def editWord (e : DebugEdit) (i n : Nat) : Nat := bytesNat e.value (n * i) n

/-- An edit of a wave's registers. -/
def Wave.edit (w : Wave) (e : DebugEdit) : Wave :=
  match e.reg with
  | .v n => { w with v := w.v.set n (Vector.ofFn fun L => BitVec.ofNat 32 (editWord e L.val 4)) }
  | .s n => { w with s := w.s.set n (BitVec.ofNat 64 (editWord e 0 8)) }
  | .m n => if n = 0 then w else { w with m := w.m.set n (BitVec.ofNat 32 (editWord e 0 4)) }
  | .k n => { w with k := w.k.set n (BitVec.ofNat 128 (editWord e 0 16)) }
  | .a _ => w

/-- An edit of a swapped team: a tile is that of its wave's core. -/
def Team.edit (t : Team) (e : DebugEdit) : Team :=
  let core := match t.waves.find? fun w => w.number.val == e.wave with | some w => w.core | none => t.leader
  let tile := fun (c : TeamCore) =>
    match e.reg with
    | .a n => if c.core = core then { c with tiles := c.tiles.writeBytes (16384 * n.val) (slice e.value 0 16384) } else c
    | _ => c
  { t with
    waves := t.waves.map fun w => if w.number.val = e.wave then w.edit e else w
    cores := t.cores.map tile }

/-- A record put at the head of a die's launch queue, or of what is held for it where it is full (R299, R314). -/
def State.enqueueFirst (s : State) (d : Fin 4) (l : Launch) : State :=
  let x := s.dies[d]
  if x.queue.length < 4096 then s.setDie d { x with queue := l :: x.queue } else s.setDie d { x with overflow := l :: x.overflow }

/-- A team is the target that a debug block names (R313). -/
def Debug.targets (x : Debug) (t : Team) : Bool := t.die.val == x.die.toNat && t.serial == x.team

/-- DEBUG_RESUME: the swapped image is checked; the team waits for its cores with the debugger's changes, or FAIL is set.
`intact`: every byte that the keyed hash covers is as it was; `edits`: the live registers as the debugger left them (R314). -/
def execDebugResume (ctx : Nat) (intact : Bool) (edits : List DebugEdit) (s : State) : Host.Outcome State Fault Refusal :=
  let c := s.ctx ctx
  match c.dbg.swapped with
  | none => .next s
  | some x =>
    if s.phase ≠ .running ∨ c.state ≠ .running ∨ c.dbg.state ≠ .stopped ∨ !c.dbg.targets x.team then .next s
    else if !intact || !edits.all (s.mayEdit x.team) then .next (s.setCtx ctx { c with dbg := { c.dbg with fail := true } })
    else
      let y := { x with team := edits.foldl Team.edit x.team }
      let s := s.setCtx ctx { c with dbg := { c.dbg with fail := false, state := .resuming, swapped := some y } }
      .next (s.enqueueFirst x.team.die y.queued)

/-- DEBUG_DUMP: CMD = 3 dumps the target team where it is stopped (R317). -/
def execDebugDump (ctx : Nat) (s : State) : Host.Outcome State Fault Refusal :=
  let c := s.ctx ctx
  let d : Fin 4 := Fin.ofNat 4 c.dbg.die.toNat
  if s.phase ≠ .running then .next s
  else
    match c.dbg.state, c.dbg.swapped, s.findTeam d c.dbg.team with
    | .stopped, some x, _ => .next (if c.dbg.targets x.team then s.dump x.team c.dbg.cause c.dbg.ord.toNat else s)
    | _, _, some (_, t) =>
      match t.halt with
      | .stopped cause hit => if t.ctx = ctx then .next (s.dump t cause (s.ordinalOf t hit)) else .next s
      | _ => .next s
    | _, _, none => .next s

end Sys2Proof.Machine
end

