-- ==== Sys2Proof/Machine/HostAccess.lean ====
section
/-! DEFINITION. Memory as parties outside the compute cores reach it: the host through its decoders (R301, R177), companion
cores (R23), their writes to stream blocks (R184), and other modules over Walaro links (R303, R304). -/

namespace Sys2Proof.Machine

/-! ## Owners of physical pages -/

/-- A page of physical memory lies in a leaf. -/
def Leaf.holdsPage (l : Leaf) (page : Nat) : Bool := l.present && l.ppage ≤ page && page ≤ l.ppage + l.run

/-- The domain of an object of a context that owns a physical page, if one does (R130). -/
def State.ownerIn (s : State) (ctx page : Nat) : Option Nat :=
  (List.range (s.ctx ctx).tableLen).findSome? fun obj =>
    match s.entry ctx obj with
    | none => none
    | some e => if (s.leaves e).any fun l => l.holdsPage page then some (if e.pub then 0 else ctx + 1) else none

/-- The domain of the line of a physical address as a party that names no object gives it: that of the page's owner; domain 0
for a page no object holds (R130). -/
def State.ownerDomain (s : State) (pa : Nat) : Nat :=
  ((List.range 64).findSome? fun c => s.ownerIn c (pa / 65536)).getD 0

/-- The stream block that holds a physical address: where it begins. -/
def State.blockAt (s : State) (pa : Nat) : Option Nat :=
  (List.range 64).findSome? fun c =>
    (s.ctx c).streams.findSome? fun o =>
      match s.objectPa c o 0 with
      | some b => if b ≤ pa ∧ pa < b + 64 then some b else none
      | none => none

/-! ## Host and companion accesses -/

/-- Bytes stored where no stream block lies; the bytes of a block keep their values (R184). At most `fuel` pieces. -/
def State.storeAround (s : State) (pa : Nat) (bs : List Byte) : Nat → State
  | 0 => s
  | fuel + 1 =>
    if bs.isEmpty then s
    else
      match s.blockAt pa with
      | some b => s.storeAround (b + 64) (bs.drop (b + 64 - pa)) fuel
      | none =>
        let w := 64 - pa % 64
        let s := if (homeOf pa).isSome then s.pokeSector pa (s.ownerDomain pa) (bs.take w) else s
        s.storeAround (pa + w) (bs.drop w) fuel

/-- A store of a host or companion core: an aligned eight-byte store to HEAD follows R184, every other byte of a stream block
keeps its value. -/
def State.busStore (s : State) (pa : Nat) (bs : List Byte) : State :=
  match s.blockAt pa with
  | some b => if pa = b + 8 ∧ bs.length = 8 then s.headStore pa (s.ownerDomain pa) bs
    else s.storeAround pa bs (bs.length / 64 + 3)
  | none => s.storeAround pa bs (bs.length / 64 + 3)

/-- A CAS of a host or companion core on TAIL (R184): refused on a plain stream, and without effect on a block that is poisoned (R140). -/
def State.busTailCas (s : State) (block compare new : Nat) : State :=
  let cfg := s.streamConfig block
  if !s.readable block || field cfg 41 2 = 0 then s
  else
    match tailNew (s.peekNat block 8) (s.peekNat (block + 8) 8) cfg new compare with
    | none => s
    | some v => s.pokeNat block (s.ownerDomain block) 8 v

/-- An atomic of a host or companion core, executed at the line's home (R177); one that touches a stream block is a CAS on TAIL
or changes nothing (R184). -/
def State.busAtomic (s : State) (pa : Nat) (op : AtomOp) (w operand compare : Nat) : State :=
  match s.blockAt pa, s.blockAt (pa + w - 1) with
  | some b, _ => if pa = b ∧ w = 8 ∧ op = .cas then s.busTailCas b compare operand else s
  | none, some _ => s
  | none, none =>
    if (homeOf pa).isNone then s
    else
      match s.homeRead pa (s.ownerDomain pa) with
      | (t, _, true) => t
      | (t, _, false) =>
        match atomNew op (8 * w) (t.peekNat pa w) operand compare with
        | none => t
        | some v => t.pokeNat pa (t.ownerDomain pa) w v

/-- Sectors read at their homes, which recalls L1 copies and fills the L2 (R123, R131): `n` of them from an address. -/
def State.busLoad (s : State) (pa : Nat) : Nat → State
  | 0 => s
  | n + 1 =>
    let s := if (homeOf pa).isSome then (s.homeRead pa (s.ownerDomain pa)).1 else s
    s.busLoad (pa + 256) n

/-- An access of a party that names physical addresses. -/
def State.busAccess (s : State) (pa : Nat) : BusOp → State
  | .load n => s.busLoad (sectorBase pa) (if n = 0 then 0 else (pa % 256 + n + 255) / 256)
  | .store bs => s.busStore pa bs
  | .atomic op wide operand compare => s.busAtomic pa op (if wide then 8 else 4) operand compare

/-- HOST_TRAFFIC_BEFORE_RUN: completed with an error response and without effect (R27). -/
def execHostTrafficBeforeRun (s : State) : Host.Outcome State Fault Refusal := .next s

/-- HOST_MEM_ACCESS: a host access through a decoder, at a device address (R301); before PHASE 2 it has no effect (R27). -/
def execHostMemAccess (pa : Nat) (op : BusOp) (s : State) : Host.Outcome State Fault Refusal :=
  if s.phase = .running then .next (s.busAccess pa op) else .next s

/-- HOST_HEAD_STORE: an aligned eight-byte store of a host or companion core to the HEAD of a stream whose block begins at an
address (R184). -/
def execHostHeadStore (block : Nat) (value : BitVec 64) (s : State) : Host.Outcome State Fault Refusal :=
  if s.phase = .running ∧ s.blockAt block = some block then
    .next (s.headStore (block + 8) (s.ownerDomain block) (leBytes 8 value.toNat))
  else .next s

/-- HOST_TAIL_CAS: a CAS of a host or companion core on the TAIL of a stream (R184). -/
def execHostTailCas (block : Nat) (compare value : BitVec 64) (s : State) : Host.Outcome State Fault Refusal :=
  if s.phase = .running ∧ s.blockAt block = some block then .next (s.busTailCas block compare.toNat value.toNat)
  else .next s

/-! ## Pages that move (R143) -/

/-- The leaves of an object that move and whose bytes meet `n` bytes from a physical address. -/
def State.movingIn (s : State) (e : Entry) (pa n : Nat) : List Leaf :=
  ((s.leaves e).zipIdx.filter fun l =>
    l.1.migrating && decide (pa < e.leafPa + 16 * l.2 + 16) && decide (e.leafPa + 16 * l.2 < pa + n)).map fun l => l.1

/-- Those of every object of every context. -/
def State.movingAt (s : State) (pa n : Nat) : List Leaf :=
  (List.range 64).flatMap fun c =>
    (List.range (s.ctx c).tableLen).flatMap fun obj =>
      match s.entry c obj with
      | none => []
      | some e => s.movingIn e pa n

/-- The bytes that an access of a bus may write. -/
def busSpan : BusOp → Nat
  | .load _ => 0
  | .store bs => bs.length
  | .atomic _ wide _ _ => if wide then 8 else 4

/-- An access of the memory manager. The lines of a page leave L1 and L2, and its versions are freed, where it writes a leaf that says
the page moves, before the access or after it (R143; log 59). -/
def State.managerAccess (s : State) (pa : Nat) (op : BusOp) : State :=
  let before := if busSpan op = 0 then [] else s.movingAt pa (busSpan op)
  let s := s.busAccess pa op
  let after := if busSpan op = 0 then [] else s.movingAt pa (busSpan op)
  (before ++ after).foldl State.evictRun s

/-- COMPANION_MEM_ACCESS: a companion core's access to the physical map (R23); a bus error has no effect. -/
def execCompanionMemAccess (pa : Nat) (op : BusOp) (s : State) : Host.Outcome State Fault Refusal :=
  if s.phase = .running then .next (s.managerAccess pa op) else .next s

/-! ## Requests of other modules (R303, R304) -/

/-- Where a request of another module finds a byte of an object of its peer context: translated here, its generation checked
here; none where it is answered with a fault. -/
def State.remotePa (s : State) (ctx obj off gen : Nat) : Option Nat :=
  match s.walk ctx obj off with
  | .ok pa e _ => if e.cgen = gen then some pa else none
  | .retired | .notPresent _ | .migrating _ | .failed _ => none

/-- A store that arrives from another module, around every L1 (R304); stream blocks keep the rules of R184. -/
def State.remoteStore (s : State) (ctx obj off pa : Nat) (bs : List Byte) : State :=
  if s.blockForbids ctx obj off bs.length pa then s
  else if (s.ctx ctx).streams.contains obj ∧ off = 8 then s.headStore pa (s.objDomain ctx obj) bs
  else s.pokeSector pa (s.objDomain ctx obj) bs

/-- An atomic that arrives from another module. -/
def State.remoteAtomic (s : State) (ctx obj off pa : Nat) (op : AtomOp) (w operand compare : Nat) : State :=
  let dom := s.objDomain ctx obj
  let block := (s.ctx ctx).streams.contains obj && decide (off < 64)
  match s.homeRead pa dom with
  | (t, _, true) => t
  | (t, d, false) =>
    let old := bytesNat d (pa % 256) w
    let new :=
      if !block then atomNew op (8 * w) old operand compare
      else if off = 0 ∧ w = 8 ∧ op = .cas ∧ field (t.streamConfig pa) 41 2 ≠ 0 then
        tailNew old (t.peekNat (pa + 8) 8) (t.streamConfig pa) operand compare
      else none
    match new with
    | none => t
    | some v => t.pokeSector pa dom (leBytes w v)

/-- A request of another module performed at its home. A range must lie in one sector: wider ones arrive as several. -/
def State.remoteRequest (s : State) (ctx obj off gen : Nat) (op : BusOp) : State :=
  match s.remotePa ctx obj off gen with
  | none => s
  | some pa =>
    match op with
    | .load _ => (s.homeRead pa (s.objDomain ctx obj)).1
    | .store bs => if pa % 256 + bs.length ≤ 256 then s.remoteStore ctx obj off pa bs else s
    | .atomic op wide operand compare =>
      let w := if wide then 8 else 4
      if pa % w = 0 then s.remoteAtomic ctx obj off pa op w operand compare else s

/-- WALARO_REMOTE_REQUEST: a remote access (`op`), or a validation of a capability (no `op`), which only reads the table,
is performed here and answered (R303, R304). -/
def execWalaroRemoteRequest (ctx obj off gen : Nat) (op : Option BusOp) (s : State) : Host.Outcome State Fault Refusal :=
  match op with
  | none => .next s
  | some o => if s.phase = .running ∧ s.joined then .next (s.remoteRequest ctx (obj % 1024) off gen o) else .next s

end Sys2Proof.Machine
end

