-- ==== Sys2Proof/Machine/LoadStore.lean ====
section
/-! DEFINITION. Loads and stores through capabilities (R363, R397), scratchpad accesses (R369), parameter windows (R367),
FENCE (R171), WAITA (R419) and EWAIT (R350). -/

namespace Sys2Proof.Machine

/-- A lane's capability or scratchpad offset from its index register (R363). -/
def Iss.index (x : Iss) (v : VReg) (xs : Bool) (w : Nat) (L : Fin 32) : Nat := (x.v v L).toNat * (if xs then w else 1)

/-- The once-per-wave offset of a scalar index. -/
def Iss.indexS (x : Iss) (n : SReg) (xs : Bool) (w : Nat) : Nat := (x.s n).toNat * (if xs then w else 1)

/-- LD into vector registers: every active lane reads; lanes that fault or stay unfinished keep their destination (R363). -/
def Iss.loadLanes (x : Iss) (w : Width) (xs : Bool) (v : VReg) (k : KReg) (d : VReg) : Eff :=
  let cap := x.k k
  let off := x.index v xs w.bytes
  x.reading cap fun y =>
    let r := runLanes k.val 0 cap off (fun s L o => y.load s cap L.val o w.bytes) (lanesOf y.mask) (Run.start y.st)
    (y.setWords (wSpan w) d r.ok r.value).endRun r .read cap w.bytes off

/-- LD into a scalar, once per wave (R363). -/
def Iss.loadScalar (x : Iss) (w : Width) (xs : Bool) (v : SReg) (k : KReg) (d : SReg) : Eff :=
  let cap := x.k k
  let o := x.indexS v xs w.bytes
  x.reading cap fun x =>
    let r := x.load x.st cap 0 o w.bytes
    x.once r.1 k.val o 0 cap r.2 fun y bs => Eff.ok ((y.watch .read cap w.bytes [o]).setS d (BitVec.ofNat 64 (leNat bs)))

/-- ST of vector registers: every active lane's bytes are queued, the highest-numbered lane last (R397). -/
def Iss.storeLanes (x : Iss) (rel : Option Scope) (w : Width) (xs : Bool) (v : VReg) (k : KReg) (d : VReg) : Eff :=
  let cap := x.k k
  let off := x.index v xs w.bytes
  let r := runLanes k.val (if capTent cap then 5 else 1) cap off
    (fun s L o => x.store s cap L.val o w.bytes (leBytes w.bytes (x.words (wSpan w) d L)) rel) (lanesOf x.mask)
    (Run.start x.st)
  x.endRun r .write cap w.bytes off

/-- ST of a scalar, once per wave (R397). -/
def Iss.storeScalar (x : Iss) (rel : Option Scope) (w : Width) (xs : Bool) (v : SReg) (k : KReg) (d : SReg) : Eff :=
  let cap := x.k k
  let o := x.indexS v xs w.bytes
  let r := x.store x.st cap 0 o w.bytes (leBytes w.bytes (x.s d).toNat) rel
  x.once r.1 k.val o (if capTent cap then 5 else 1) cap r.2 fun y _ => Eff.ok (y.watch .write cap w.bytes [o])

/-- LD, vector form; an acquire (O = 1) binds before anything later, as every load here does (R363, R365). -/
def execLd (sc : Scope) (o : Bool) (w : Width) (xs : Bool) (ix : VReg) (k : KReg) (d : VReg) (mk : Bool)
    (s : State) : Host.Outcome State Fault Refusal :=
  issue (.ld sc o w xs ix k d mk) s fun x => x.loadLanes w xs ix k d

/-- LD, scalar form (R363). -/
def execLdScalar (sc : Scope) (o : Bool) (w : Width) (xs : Bool) (ix : SReg) (k : KReg) (d : SReg) (mk : Bool)
    (s : State) : Host.Outcome State Fault Refusal :=
  issue (.ldScalar sc o w xs ix k d mk) s fun x => x.loadScalar w xs ix k d

/-- ST, vector form (R397, R399). -/
def execSt (sc : Scope) (o : Bool) (w : Width) (xs : Bool) (ix : VReg) (k : KReg) (d : VReg) (mk : Bool)
    (s : State) : Host.Outcome State Fault Refusal :=
  issue (.st sc o w xs ix k d mk) s fun x => x.storeLanes (if o then some sc else none) w xs ix k d

/-- ST, scalar form (R397, R399). -/
def execStScalar (sc : Scope) (o : Bool) (w : Width) (xs : Bool) (ix : SReg) (k : KReg) (d : SReg) (mk : Bool)
    (s : State) : Host.Outcome State Fault Refusal :=
  issue (.stScalar sc o w xs ix k d mk) s fun x => x.storeScalar (if o then some sc else none) w xs ix k d

/-- A lane's scratchpad offset in LDS and STS (R369). -/
def Iss.scratchOff (x : Iss) (off : Fin 128) (w : Nat) (xs : Bool) (v : VReg) (L : Fin 32) : Nat :=
  x.index v xs w L + off.val * w

/-- LDS (R369). -/
def execLds (off : Fin 128) (w : Width) (xs : Bool) (ix : VReg) (d : VReg) (mk : Bool)
    (s : State) : Host.Outcome State Fault Refusal :=
  issue (.lds off w xs ix d mk) s fun x =>
    let offs := x.scratchOff off w.bytes xs ix
    let faults := x.scratchFaults x.mask w.bytes offs
    let ok := Mask.without x.mask (faultLanes faults)
    .done (x.setWords (wSpan w) d ok fun L => x.scratch.readNat (offs L) w.bytes) [] faults none

/-- Lanes of an STS written in ascending order, so that the highest-numbered one supplies a shared byte (R369). -/
def storeScratch (w : Nat) (offs : Fin 32 → Nat) (val : Fin 32 → Nat) : List (Fin 32) → Memory → Memory
  | [], m => m
  | L :: Ls, m => storeScratch w offs val Ls (m.writeNat (offs L) w (val L))

/-- STS (R369). -/
def execSts (off : Fin 128) (w : Width) (xs : Bool) (ix : VReg) (d : VReg) (mk : Bool)
    (s : State) : Host.Outcome State Fault Refusal :=
  issue (.sts off w xs ix d mk) s fun x =>
    let offs := x.scratchOff off w.bytes xs ix
    let faults := x.scratchFaults x.mask w.bytes offs
    let ok := Mask.without x.mask (faultLanes faults)
    .done (x.setScratch (storeScratch w.bytes offs (x.words (wSpan w) d) (lanesOf ok) x.scratch)) [] faults none

/-- LDP: bytes past the window read zero and set WSTAT.PFLAG; an unbound window traps (R367, R213). -/
def execLdp (off : BitVec 12) (w : ParamWidth) (scalar : Bool) (p : Fin 8) (d : Fin 64) (mk : Bool)
    (s : State) : Host.Outcome State Fault Refusal :=
  issue (.ldp off w scalar p d mk) s fun x =>
    match x.tm.windows[p] with
    | none => .trap x { cause := 0x25, info := p.val }
    | some win =>
      let n := w.bytes
      let e := bytesNat win off.toNat n
      let y := if win.length < off.toNat + n then { x with wv := { x.wv with pflag := true } } else x
      if scalar then Eff.ok (y.setS d (BitVec.ofNat 64 e))
      else Eff.ok (y.setWords (pSpan w) d x.mask fun _ => e)

/-- FENCE of engine commands: they have ended (R171). -/
def Iss.fenceEngines (x : Iss) : Eff := if x.commandsOut then .wait x .fence else Eff.ok x.clearE

/-- FENCE: the wave's stores and publications are performed, and its engine commands have ended (R171). -/
def execFence (sc : Scope) (kind : FenceKind) (mk : Bool) (s : State) : Host.Outcome State Fault Refusal :=
  issue (.fence sc kind mk) s fun x =>
    match kind with
    | .mem => x.ordered Eff.ok
    | .eng => x.fenceEngines
    | .all => x.ordered Iss.fenceEngines

/-- One evaluation of a WAITA's word (R419): the wait keeps what it watches and compares with. -/
def Iss.waitaTry (x : Iss) (eq : Bool) (k : KReg) (cap : Cap) (o : Nat) (value : W64) : Eff :=
  let r := x.load x.st cap 0 o 8
  x.once r.1 k.val o 0 cap r.2 fun y bs =>
    if (leNat bs == value.toNat) == eq then Eff.ok (y.watch .read cap 8 [o]) else .wait y (.waita cap o value)

/-- WAITA: the word is evaluated at once and again at every try, until it meets the condition (R419, R420). -/
def execWaita (sc : Scope) (eq : Bool) (b : SReg) (a : SReg) (k : KReg) (mk : Bool)
    (s : State) : Host.Outcome State Fault Refusal :=
  issue (.waita sc eq b a k mk) s fun x =>
    if x.wv.cc.k then x.stop
    else
      match x.was with
      | some (.waita cap o value) => x.waitaTry eq k cap o value
      | _ => x.reading (x.k k) fun y => y.waitaTry eq k (y.k k) (y.s a).toNat (y.s b)

/-- The command a ticket of the wave names, among its 256 most recent (R348, R350). -/
def Iss.ticketOf (x : Iss) (t : Nat) : Option Outcome :=
  if !fieldBit t 63 || field t 45 18 ≠ 0 || field t 40 5 ≠ x.wv.number.val || 3 < field t 32 8 || field t 0 32 = 0 then none
  else (x.wv.outcomes.drop (x.wv.outcomes.length - 256)).find? fun r => r.serial == field t 0 32

/-- The command that a wait on a ticket names (R350). -/
def Iss.waitedFor (x : Iss) (t : Nat) : Option Outcome := x.wv.outcomes.find? fun r => r.serial == field t 0 32

/-- EWAIT on a command (R350): cc.E is clear once no command of the wave is left, then a fault of the command traps. -/
def Iss.ewaitOn (x : Iss) (t : W64) (r : Option Outcome) : Eff :=
  match r with
  | none => .trap x { cause := 0x68 }
  | some r =>
    if !r.ended then .wait x (.ewait t)
    else
      let y := if x.commandsOut then x else x.clearE
      match r.cause with
      | none => Eff.ok y
      | some c => .trapNext y { cause := c.toNat, info := r.sub, addr := t.toNat }

/-- EWAIT: the ticket is read and judged once (R350). -/
def execEwait (t : SReg) (mk : Bool) (s : State) : Host.Outcome State Fault Refusal :=
  issue (.ewait t mk) s fun x =>
    if x.wv.cc.k then x.stop
    else
      match x.was with
      | some (.ewait v) => x.ewaitOn v (x.waitedFor v.toNat)
      | _ => x.ewaitOn (x.s t) (x.ticketOf (x.s t).toNat)

end Sys2Proof.Machine
end

