-- ==== Sys2Proof/Machine/Loader.lean ====
section
/-! DEFINITION. The firmware's creation of a context with its fault stream (R42, R130, R155, R264) and the loading of a code
object (R17, R61, R72, R73, R181, R218, R240, R426). -/

namespace Sys2Proof.Machine

/-! ## Objects made by the firmware (Tables 7.4, 7.5) -/

/-- The bytes of an extent leaf. -/
def leafBytes (opage run ppage : Nat) : List Byte :=
  leBytes 8 (opage % 2 ^ 24 + run % 2 ^ 8 * 2 ^ 24 + ppage % 2 ^ 28 * 2 ^ 32 + 2 ^ 60) ++ zeros 8

/-- The leaves that map `n` pages from object page `o` on to as many physical pages, at most 256 to a leaf and `fuel` leaves. -/
def leafList (o page : Nat) : Nat → Nat → List (List Byte)
  | 0, _ => []
  | fuel + 1, n =>
    if n = 0 then [] else leafBytes o (min n 256 - 1) page :: leafList (o + 256) (page + 256) fuel (n - 256)

/-- A table entry of an object that is all present in consecutive pages, and its leaves, written (Tables 7.4, 7.5). -/
def State.makeObject (s : State) (ctx obj : Nat) (e : Entry) (page : Nat) : State :=
  let pages := (e.size + 65535) / 65536
  let leaves := leafList 0 page (pages / 256 + 1) pages
  let bytes := leaves.flatten
  let s := s.poke e.leafPa (ctx + 1) bytes (bytes.length / 256 + 2)
  s.setEntry ctx obj { e with nleaf := leaves.length }

/-- A new entry: valid, of the first generation. -/
def newEntry (size rights leafPa : Nat) (home : Fin 4) : Entry where
  size := size
  rights := rights
  alias_ := false
  tent := false
  pub := false
  tier := 0
  home := home
  valid := true
  cgen := 1
  mgen := 0
  nleaf := 0
  leafPa := leafPa

/-- Bytes written into an object at a physical address of its first page. -/
def State.fillObject (s : State) (dom pa : Nat) (bs : List Byte) : State := s.poke pa dom bs (bs.length / 256 + 2)

/-- CONFIG of a new stream (Table 9.2). -/
def newConfig (logn kind maxd : Nat) (sys stamped : Bool) : Nat :=
  bit sys * 2 ^ 35 + logn % 32 * 2 ^ 36 + kind % 4 * 2 ^ 41 + bit stamped * 2 ^ 43 + maxd % 8 * 2 ^ 45 + 2 ^ 63

/-- A stream block at its reset values and a ring of zeros (R181, R182). -/
def streamBytes (logn kind maxd : Nat) (sys stamped : Bool) : List Byte :=
  zeros 24 ++ leBytes 8 (newConfig logn kind maxd sys stamped) ++ zeros (32 + 64 * 2 ^ logn)

/-! ## CONTEXT_CREATION (R42, R130, R155, R264) -/

/-- A context as created: weight 1, its hash key drawn, its launch values and allowance as the firmware sets them, which are 65,536 cycles
for PDEAD (R293) and 1 MiB for ALLOWT (R264) unless it is told otherwise. -/
def Context.created (c : Context) (x : CtxSpec) (key : Nat) : Context :=
  { Context.none with
    state := .running, imgObj := c.imgObj, forcedW := c.forcedW, saveCtr := c.saveCtr, oinvObj := c.oinvObj
    watch := c.watch, weight := 1, allowT := x.allowT.getD (2 ^ 20), keyDraw := key, tableBase := x.tableBase, tableLen := x.tableLen
    consts := x.consts.take 256, service := x.service, tvecObj := x.tvecObj, tvecEntry := x.tvecEntry, pdead := x.pdead.getD 65536
    debuggable := x.debuggable, streams := [1]
    dbg := { c.dbg with trace := traceField x.trace, dump := traceField x.dump } }

/-- The size of a fault stream as a power of two: 2^12 slots unless the creation names another (R155). -/
def specLogn (x : CtxSpec) : Nat := x.logn.getD 12

/-- CONTEXT_CREATION: the firmware draws the hash key of a context that does not exist, creates its fault stream, by default of 2^12 slots
on die 0 with read and write, and the context runs. A ring of another size than 2^6 to 2^20 slots, or a table that has no entry 1 or
2^23 entries or more, is not created (R130, R155, R303). -/
def execContextCreation (ctx : Nat) (x : CtxSpec) (s : State) : Host.Outcome State Fault Refusal :=
  if s.phase ≠ .running ∨ 64 ≤ ctx ∨ (s.ctx ctx).state ≠ .none ∨ specLogn x < 6 ∨ 20 < specLogn x ∨ x.tableLen < 2 ∨
      2 ^ 23 ≤ x.tableLen then .next s
  else
    let s := s.setCtx ctx ((s.ctx ctx).created x (s.free + 1))
    let e := newEntry (64 + 64 * 2 ^ specLogn x) (x.rights.getD 3) x.leafPa (x.home.getD 0)
    let s := s.makeObject ctx 1 e x.page
    .next (s.fillObject (ctx + 1) (x.page * 65536) (streamBytes (specLogn x) 2 0 true false))

/-! ## Relocation (R17, R61) -/

/-- The lowest bit of a relocated field, its width and the bytes of the word it lies in. -/
def relocPlace : RelocKind → Nat × Nat × Nat
  | .imm10 => (22, 10, 4)
  | .imm12 => (20, 12, 4)
  | .imm16 => (16, 16, 4)
  | .half => (0, 16, 2)
  | .word => (0, 32, 4)
  | .dword => (0, 64, 8)

/-- The coordinates a die's relocation table gives for a written core. -/
def relocated (f : FlashImage) (d : Fin 4) (xy : Nat) : Option Nat := (f.reloc[d].find? fun p => p.1 == xy).map fun p => p.2

/-- One field relocated; none where the table has no entry for it. -/
def relocField (f : FlashImage) (d : Fin 4) (bs : List Byte) (r : Nat × RelocKind) : Option (List Byte) :=
  let p := relocPlace r.2
  let w := bytesNat bs r.1 p.2.2
  let old := field w p.1 p.2.1
  (relocated f d old).map fun new =>
    overlay bs r.1 (leBytes p.2.2 (w - old * 2 ^ p.1 + new % 2 ^ p.2.1 * 2 ^ p.1))

/-- Every field of a byte string relocated. -/
def relocAll (f : FlashImage) (d : Fin 4) (bs : List Byte) : List (Nat × RelocKind) → Option (List Byte)
  | [] => some bs
  | r :: rs => (relocField f d bs r).bind fun cs => relocAll f d cs rs

/-- A physical core by coordinates, as a configuration image numbers it. -/
def coreOfXy (xy : Nat) : Nat := 13 * (xy / 16) + xy % 16

/-- Two written cores are a pair on a die after relocation (R17). -/
def pairedOn (f : FlashImage) (d : Fin 4) (p : Nat × Nat) : Bool :=
  match relocated f d p.1, relocated f d p.2 with
  | some a, some b =>
    let x := coreOfXy a
    let y := coreOfXy b
    f.quads[d].any fun q => q.1 == (x, y) || q.1 == (y, x) || q.2 == (x, y) || q.2 == (y, x)
  | _, _ => false

/-- The four replicas of a text (R426); none where the code object is refused (R17). -/
def replicas (f : FlashImage) (c : CodeImage) : Option (Vector (List Byte) 4) :=
  match relocAll f 0 c.text c.relocs, relocAll f 1 c.text c.relocs, relocAll f 2 c.text c.relocs,
      relocAll f 3 c.text c.relocs with
  | some a, some b, some x, some y =>
    if (List.finRange 4).all fun d => c.pairs.all (pairedOn f d) then some #v[a, b, x, y] else none
  | _, _, _, _ => none

/-- What a declaration fills its object with, as (offset, bytes), relocated against the table of its home die; none where the table of
even one of the four dies has no entry for a written coordinate (R17, R61). -/
def declData (f : FlashImage) (o : ObjDecl) : Option (List (Nat × List Byte)) :=
  let everywhere := fun (p : Nat × List Byte × List (Nat × RelocKind)) =>
    (List.finRange 4).all fun d => (relocAll f d p.2.1 p.2.2).isSome
  if !o.data.all everywhere then none
  else o.data.foldr (fun p acc => acc.bind fun ps => (relocAll f o.home p.2.1 p.2.2).map fun bs => (p.1, bs) :: ps) (some [])

/-- `n` bytes from a page on lie in the memory that a tier and a home name: LP6, or the home die's range of HBM (R426). -/
def inMemory (lp6 : Bool) (home : Fin 4) (page n : Nat) : Bool :=
  let at_ : Option HomeAt := some (if lp6 then .lp6 else .die home)
  homeOf (page * 65536) == at_ && homeOf (page * 65536 + (n - 1)) == at_

/-- A stream's declaration keeps to Table 9.3, its ring fits into its object (R181), and its events fit into its ring (R183). -/
def streamOk (size : Nat) (t : StreamDecl) : Bool :=
  decide (64 + 64 * 2 ^ t.logn ≤ size) && decide (t.kind ≤ 2) && decide (1 ≤ t.logn) && decide (t.logn ≤ if t.kind = 1 then 8 else 20) && !(t.kind == 0 && t.stamped) &&
    decide (t.events.length ≤ 2 ^ t.logn)

/-- A declared object that the loader takes; a code object with another is refused whole (log 73). -/
def declOk (o : ObjDecl) : Bool := o.stream.all (streamOk o.size) && inMemory o.lp6 o.home o.page o.size

/-! ## Kernels (R73, R240) -/

/-- The rings that the table in the 64 bytes before an entry declares (R240). -/
def ringTable (text : List Byte) (entry : Nat) : List (Option Ring) :=
  (List.range 8).map fun n =>
    let w := if entry < 64 then 0 else bytesNat text (entry - 64 + 8 * n) 8
    if fieldBit w 63 then some ⟨field w 0 24, field w 24 6 + 1, field w 32 20⟩ else none

/-- A safe-point table (Table 3.7). -/
def safeTable (entry : Nat) (bs : List Byte) : List SafePoint :=
  (List.range (bs.length / 32)).map fun i =>
    let at_ := fun (o n : Nat) => bytesNat bs (32 * i + o) n
    { pc := entry + 2 * at_ 0 4, ord := at_ 4 2, m := BitVec.ofNat 8 (at_ 6 1), v := BitVec.ofNat 64 (at_ 8 8)
      s := BitVec.ofNat 64 (at_ 16 8), k := BitVec.ofNat 16 (at_ 24 2), a := BitVec.ofNat 16 (at_ 26 2) }

/-- Waves of a kernel on the core that holds most. -/
def kernelWaves (k : KernelDecl) : Nat :=
  let w := (k.lanes + 31) / 32
  if k.paired then (w + 1) / 2 else w

/-- A kernel's footprint is at most 96 units, and its rings do not pass its scratchpad (R39, R240). -/
def kernelOk (text : List Byte) (k : KernelDecl) : Bool :=
  decide ((kernelWaves k * k.vregs + 127) / 128 + k.scru + k.accu ≤ 96) &&
    (ringTable text k.entry).all fun o => o.all fun g => decide (g.offset + g.slots * g.bytes ≤ k.scru * 16384)

/-! ## Objects of a code object (R72, R426) -/

/-- The entry of a declared object (R72). -/
def declEntry (o : ObjDecl) : Entry :=
  let base := if o.ro then 9 else 15
  let rights := base ||| (if o.stream.isSome then 7 else 0) ||| (if o.tent then 16 else 0)
  { newEntry o.size rights o.leafPa o.home with alias_ := o.alias_, tent := o.tent, pub := o.pub, tier := bit o.lp6 }

/-- The lowest free identity from a number up, searched with fuel. -/
def State.freeId (s : State) (ctx : Nat) : Nat → Nat → Nat
  | 0, n => n
  | fuel + 1, n => if (s.entry ctx n).isSome then s.freeId ctx fuel (n + 1) else n

/-- Ascending free identities, `n` of them (R426). -/
def State.freeIds (s : State) (ctx : Nat) : Nat → Nat → List Nat
  | 0, _ => []
  | n + 1, lo =>
    let i := s.freeId ctx (s.ctx ctx).tableLen lo
    i :: s.freeIds ctx n (i + 1)

/-- The record of a pre-filled event (R193, Table 9.1). -/
def prefilled (e : EventDecl) : List Byte :=
  let head := eventBytes e.kind.toNat 0 0 e.src.toNat e.key.toNat
    ((e.payload.map fun w => leBytes 4 w.toNat).flatten ++ zeros 48)
  overlay head 8 (leBytes 6 e.stamp.toNat)

/-- Pre-filled events written and published from a position on. -/
def State.prefill (s : State) (ctx obj pa : Nat) (b : Block) : Nat → List EventDecl → State
  | _, [] => s
  | p, e :: es =>
    let dom := s.objDomain ctx obj
    let s := s.publish dom pa b (pa + 64 + 64 * (p % 2 ^ b.logn)) p (prefilled e)
    (s.pokeNat pa dom 8 (p + 1)).prefill ctx obj pa b (p + 1) es

/-- A declared object made: its entry, its stream with the pre-filled events, and its data. -/
def State.declare (s : State) (ctx obj : Nat) (o : ObjDecl) (data : List (Nat × List Byte)) : State :=
  let pa := o.page * 65536
  let dom := if o.pub then 0 else ctx + 1
  let s := s.makeObject ctx obj (declEntry o) o.page
  let s := data.foldl (fun (acc : State) p => acc.fillObject dom (pa + p.1) p.2) s
  match o.stream with
  | none => s
  | some t =>
    let s := s.fillObject dom pa (streamBytes t.logn t.kind t.depth false t.stamped)
    let s := s.setCtx ctx { s.ctx ctx with streams := (s.ctx ctx).streams ++ [obj] }
    s.prefill ctx obj pa (s.readBlock pa) 0 t.events

/-- Declared objects made one after another. -/
def State.declareAll (s : State) (ctx : Nat) (f : FlashImage) : List (Nat × ObjDecl) → Option State
  | [] => some s
  | (i, o) :: os =>
    (if declOk o then declData f o else none).bind fun data =>
      (s.declare ctx i o data).declareAll ctx f os

/-! ## Automata of a code object (R72, R218) -/

/-- A capability for all of an object with exactly its entry's rights (R72). -/
def State.staticCap (s : State) (ctx obj : Nat) : Cap :=
  match s.entry ctx obj with
  | some e => capMake obj 0 e.size e.rights e.pub e.cgen
  | none => 0

/-- An image with the identities that the loader has given filled in: its streams, its code object, its static capabilities and
its completion stream. -/
def State.bindImage (s : State) (ctx code : Nat) (ids : List Nat) (a : AutDecl) : List Byte :=
  let id := fun (n : Nat) => ids.getD n 0
  let img := (a.streams.zipIdx).foldl (fun bs p => overlay bs (24 + 4 * p.2) (leBytes 3 (id p.1))) a.image
  let img := overlay img 1088 (leBytes 3 code)
  let img := match a.done with
    | some n => overlay img 1112 (leBytes 3 (id n))
    | none => img
  a.caps.foldl (fun bs p => overlay bs (1120 + 16 * p.1) (capBytes (s.staticCap ctx (id p.2)))) img

/-- Images verified and installed enabled, their streams not yet attached; none where one is refused or the Frame is full. -/
def State.installAll (s : State) (ctx : Nat) : List (List Byte) → Option State
  | [] => some s
  | img :: is =>
    let d := s.imageHome ctx img
    if (s.imageFault ctx img).isSome ∨ 512 ≤ s.dies[d].rods.length then none
    else (s.installRod ctx d img true).1.installAll ctx is

/-- The streams of images attached (R218). -/
def State.attachImages (s : State) (ctx : Nat) (images : List (List Byte)) : State :=
  images.foldl (fun (acc : State) img => acc.attachAll ctx (acc.imageHome ctx img) (imgObjs img)) s

/-! ## CODE_OBJECT_LOAD -/

/-- A code object installed; none where it is refused. One for which the table has too few free identities, or whose text does not lie in
die 0's memory, is refused whole (DESIGN CHOICE, log 73). -/
def State.loadCode (s : State) (ctx : Nat) (f : FlashImage) (c : CodeImage) : Option State :=
  let ids := s.freeIds ctx (c.objects.length + 1) 2
  match ids, replicas f c with
  | code :: objs, some texts =>
    if (ids.any fun i => decide ((s.ctx ctx).tableLen ≤ i)) || !inMemory false 0 c.page c.text.length ||
        !c.kernels.all (kernelOk c.text) then none
    else
      let x : CodeObject :=
        { obj := code, texts := texts
          rings := c.kernels.map fun k => (k.entry, ringTable c.text k.entry)
          safe := c.kernels.map fun k => (k.entry, safeTable k.entry k.safe) }
      let s := s.setCtx ctx { s.ctx ctx with code := (s.ctx ctx).code ++ [x] }
      let s := s.makeObject ctx code (newEntry c.text.length 9 c.leafPa 0) c.page
      let s := s.fillObject (ctx + 1) (c.page * 65536) texts[0]
      (s.declareAll ctx f (objs.zip c.objects)).bind fun s =>
        let images := c.automata.map (s.bindImage ctx code objs)
        (s.installAll ctx images).map fun s => s.attachImages ctx images
  | _, _ => none

/-- CODE_OBJECT_LOAD: the loader installs a code object with its objects, streams and automata in a running context, or refuses
it whole (R17, R61). -/
def execCodeObjectLoad (ctx : Nat) (c : CodeImage) (s : State) : Host.Outcome State Fault Refusal :=
  match s.config with
  | none => .next s
  | some f =>
    if s.phase ≠ .running ∨ (s.ctx ctx).state ≠ .running then .next s
    else .next ((s.loadCode ctx f c).getD s)

end Sys2Proof.Machine
end

