-- ==== Sys2Proof/Machine/Mask.lean ====
section
/-! DEFINITION. Mask logic and counts (R371), and MSET (R379). -/

namespace Sys2Proof.Machine

/-- MLOG on two masks (Table 4.8). -/
def maskOp (op : MaskOp) (a b : Mask) : Mask :=
  match op with
  | .and => a &&& b
  | .or => a ||| b
  | .xor => a ^^^ b
  | .andn => Mask.without a b

/-- MCNT: the count of set bits, the lowest or the highest set index; 32 for an empty mask (Table 4.8). -/
def maskCount (fn : MaskCount) (a : Mask) : Nat :=
  match fn with
  | .popc => Mask.count a
  | .first => ctz 32 a.toNat
  | .last => if a = 0 then 32 else Nat.log2 a.toNat

/-- MLOG over all 32 bits (R371). -/
def execMlog (op : MaskOp) (b : MReg) (a : MReg) (d : MReg) (mk : Bool)
    (s : State) : Host.Outcome State Fault Refusal :=
  issue (.mlog op b a d mk) s fun x => Eff.ok (x.setM d (maskOp op (x.m a) (x.m b)))

/-- MLOG not (R371). -/
def execMlogNot (a : MReg) (d : MReg) (mk : Bool) (s : State) : Host.Outcome State Fault Refusal :=
  issue (.mlogNot a d mk) s fun x => Eff.ok (x.setM d (~~~(x.m a)))

/-- MCNT, zero-extended (R371). -/
def execMcnt (fn : MaskCount) (a : MReg) (d : SReg) (mk : Bool) (s : State) : Host.Outcome State Fault Refusal :=
  issue (.mcnt fn a d mk) s fun x => Eff.ok (x.setS d (BitVec.ofNat 64 (maskCount fn (x.m a))))

/-- MSET from a scalar (R379). -/
def execMset (a : SReg) (md : MReg) (mk : Bool) (s : State) : Host.Outcome State Fault Refusal :=
  issue (.mset a md mk) s fun x => Eff.ok (x.setM md ((x.s a).setWidth 32))

/-- MSET all ones (R379). -/
def execMsetAll (md : MReg) (mk : Bool) (s : State) : Host.Outcome State Fault Refusal :=
  issue (.msetAll md mk) s fun x => Eff.ok (x.setM md 0xFFFFFFFF)

/-- MSET zero (R379). -/
def execMsetNone (md : MReg) (mk : Bool) (s : State) : Host.Outcome State Fault Refusal :=
  issue (.msetNone md mk) s fun x => Eff.ok (x.setM md 0)

/-- MSET first lane of each tile (R379). -/
def execMsetFirst (md : MReg) (mk : Bool) (s : State) : Host.Outcome State Fault Refusal :=
  issue (.msetFirst md mk) s fun x => Eff.ok (x.setM md (maskOf fun L => L.val % tileLanes x.wv.tile == 0))

end Sys2Proof.Machine
end

