-- ==== Sys2Proof/Machine/MemSteps.lean ====
section
/-! DEFINITION. Steps of the memory system that no instruction takes: fills (R122), writebacks (R122), partial writes (R133),
evictions (R134, R138) and walker fills (R158). -/

namespace Sys2Proof.Machine

/-- SECTOR_FILL: data for a sector that a context reads through a capability arrives from memory and fills the sector at its home
and in the core's L1 (R122). An access that goes around L1, or does not translate, fills nothing here. -/
def execSectorFill (die : Fin 4) (core ctx : Nat) (cap : BitVec 128) (off : Nat) (s : State) :
    Host.Outcome State Fault Refusal :=
  if !capValid cap || !capHas cap 1 || decide (capLen cap ≤ off) then .next s
  else
    let o := capBase cap + off
    match s.reach die core ctx cap o with
    | (t, .mem pa false) => .next (t.l1Fill die core ctx cap o pa).1
    | _ => .next s

/-- SECTOR_WRITEBACK: a dirty sector of a core's L1 is written back whole to its home, a sharing event, and stays clean or leaves
L1 (R122, R131). -/
def execSectorWriteback (die : Fin 4) (core index : Nat) (evict : Bool) (s : State) : Host.Outcome State Fault Refusal :=
  match (s.core die core).l1[index]? with
  | none => .next s
  | some x =>
    if !x.dirty then .next s
    else
      let s := (s.homeWhole x.pa x.dom x.data).count die core 7 none 1
      let c := s.core die core
      if evict then .next (s.setCore { c with l1 := c.l1.eraseIdx index })
      else .next (s.setCore { c with l1 := c.l1.set index { x with dirty := false } })

/-- PARTIAL_WRITE: bytes within one sector reach its home slice, around every L1, as one indivisible step (R133). A module that is not
configured has no memory enabled (R25). -/
def execPartialWrite (pa dom : Nat) (bytes : List (BitVec 8)) (s : State) : Host.Outcome State Fault Refusal :=
  if s.phase = .running ∧ (homeOf pa).isSome ∧ pa % 256 + bytes.length ≤ 256 ∧ bytes ≠ [] then .next (s.pokeSector pa dom bytes) else .next s

/-- A slice's reserve stands below 256 free entries (R134). -/
def State.reserveLow (s : State) (die : Fin 4) (sl : Nat) : Bool := decide (16384 < s.dies[die].l2.used sl + 256)

/-- L2_EVICTION: a slice evicts victims until its reserve is whole (R134, R138). -/
def execL2Eviction (die : Fin 4) (slice : Nat) (s : State) : Host.Outcome State Fault Refusal :=
  if s.reserveLow die slice then
    let b := s.bank die
    .next (s.setBank (b.makeRoom slice 255 (2 ^ 40) b.l2.tags.length))
  else .next s

/-- WALKER_FILL: a walk of an object's page arrives with the MGEN it read and fills the core's translation buffer (R153). One that read
an older MGEN is discarded, and the walk is redone: what fills the buffer is the leaf as it stands now, also then (R158). -/
def execWalkerFill (die : Fin 4) (core ctx obj off : Nat) (_mgen : BitVec 16) (s : State) :
    Host.Outcome State Fault Refusal :=
  match s.walk ctx obj off with
  | .ok _ e l => .next (s.setCore ((s.core die core).otbFill (if e.pub then 0 else ctx + 1) obj e l))
  | .retired | .notPresent _ | .migrating _ | .failed _ => .next s

end Sys2Proof.Machine
end

