-- ==== Sys2Proof/Machine/Scalar.lean ====
section
/-! DEFINITION. The scalar arithmetic (R391) and the moves between register kinds (R393, R394). -/

namespace Sys2Proof.Machine

/-- A scalar operation on two registers. -/
def Iss.scalar (x : Iss) (op : ScalarOp) (a b d : SReg) : Eff := Eff.ok (x.setS d (scalarOp op (x.s a) (x.s b)))

/-- A scalar operation on a register and a sign-extended immediate. -/
def Iss.scalarImm (x : Iss) (op : ScalarOp) (a d : SReg) (imm : BitVec 10) : Eff :=
  Eff.ok (x.setS d (scalarOp op (x.s a) (imm.signExtend 64)))

/-- SADD: the sum modulo 2^64 (R391). -/
def execSadd (b : SReg) (a : SReg) (d : SReg) (mk : Bool) (s : State) : Host.Outcome State Fault Refusal :=
  issue (.sadd b a d mk) s fun x => x.scalar .add a b d

/-- SSUB: the difference modulo 2^64 (R391). -/
def execSsub (b : SReg) (a : SReg) (d : SReg) (mk : Bool) (s : State) : Host.Outcome State Fault Refusal :=
  issue (.ssub b a d mk) s fun x => x.scalar .sub a b d

/-- SMUL: the low 64 bits of the product (R391). -/
def execSmul (b : SReg) (a : SReg) (d : SReg) (mk : Bool) (s : State) : Host.Outcome State Fault Refusal :=
  issue (.smul b a d mk) s fun x => x.scalar .mul a b d

/-- SMULH: the high 64 bits of the signed or natural product (R391). -/
def execSmulh (nat : Bool) (b : SReg) (a : SReg) (d : SReg) (mk : Bool) (s : State) : Host.Outcome State Fault Refusal :=
  issue (.smulh nat b a d mk) s fun x => x.scalar (if nat then .mulhN else .mulhS) a b d

/-- SDIV: the quotient towards zero (R391, R100). -/
def execSdiv (nat : Bool) (b : SReg) (a : SReg) (d : SReg) (mk : Bool) (s : State) : Host.Outcome State Fault Refusal :=
  issue (.sdiv nat b a d mk) s fun x => x.scalar (if nat then .divN else .divS) a b d

/-- SREM: the remainder, with the sign of the dividend (R391, R100). -/
def execSrem (nat : Bool) (b : SReg) (a : SReg) (d : SReg) (mk : Bool) (s : State) : Host.Outcome State Fault Refusal :=
  issue (.srem nat b a d mk) s fun x => x.scalar (if nat then .remN else .remS) a b d

/-- SAND: bitwise and (R391). -/
def execSand (b : SReg) (a : SReg) (d : SReg) (mk : Bool) (s : State) : Host.Outcome State Fault Refusal :=
  issue (.sand b a d mk) s fun x => x.scalar .and a b d

/-- SOR: bitwise or (R391). -/
def execSor (b : SReg) (a : SReg) (d : SReg) (mk : Bool) (s : State) : Host.Outcome State Fault Refusal :=
  issue (.sor b a d mk) s fun x => x.scalar .or a b d

/-- SXOR: bitwise exclusive or (R391). -/
def execSxor (b : SReg) (a : SReg) (d : SReg) (mk : Bool) (s : State) : Host.Outcome State Fault Refusal :=
  issue (.sxor b a d mk) s fun x => x.scalar .xor a b d

/-- SSHL: left shift by b mod 64 (R391). -/
def execSshl (b : SReg) (a : SReg) (d : SReg) (mk : Bool) (s : State) : Host.Outcome State Fault Refusal :=
  issue (.sshl b a d mk) s fun x => x.scalar .shl a b d

/-- SSHR: right shift by b mod 64, arithmetic or logical (R391). -/
def execSshr (arith : Bool) (b : SReg) (a : SReg) (d : SReg) (mk : Bool) (s : State) : Host.Outcome State Fault Refusal :=
  issue (.sshr arith b a d mk) s fun x => x.scalar (if arith then .shrA else .shrL) a b d

/-- SMIN: the lesser, signed or natural (R391). -/
def execSmin (nat : Bool) (b : SReg) (a : SReg) (d : SReg) (mk : Bool) (s : State) : Host.Outcome State Fault Refusal :=
  issue (.smin nat b a d mk) s fun x => x.scalar (if nat then .minN else .minS) a b d

/-- SMAX: the greater, signed or natural (R391). -/
def execSmax (nat : Bool) (b : SReg) (a : SReg) (d : SReg) (mk : Bool) (s : State) : Host.Outcome State Fault Refusal :=
  issue (.smax nat b a d mk) s fun x => x.scalar (if nat then .maxN else .maxS) a b d

/-- SBIT: bit counts and reversal (R391). -/
def execSbit (fn : SBitFn) (a : SReg) (d : SReg) (mk : Bool) (s : State) : Host.Outcome State Fault Refusal :=
  issue (.sbit fn a d mk) s fun x => Eff.ok (x.setS d (sbitOp fn (x.s a)))

/-- SMOV between scalars (R391). -/
def execSmov (a : SReg) (d : SReg) (mk : Bool) (s : State) : Host.Outcome State Fault Refusal :=
  issue (.smov a d mk) s fun x => Eff.ok (x.setS d (x.s a))

/-- SCMP: both type codes set the four flags identically (R391). -/
def execScmp (nat : Bool) (b : SReg) (a : SReg) (mk : Bool) (s : State) : Host.Outcome State Fault Refusal :=
  issue (.scmp nat b a mk) s fun x => Eff.ok (x.compare (x.s a) (x.s b))

/-- SSEL: a where the condition holds, else b (R391). -/
def execSsel (c : BrCond) (b : SReg) (a : SReg) (d : SReg) (mk : Bool) (s : State) : Host.Outcome State Fault Refusal :=
  issue (.ssel c b a d mk) s fun x => Eff.ok (x.setS d (if holds c x.wv.cc then x.s a else x.s b))

/-- SADD with a sign-extended immediate (R391). -/
def execSaddImm (imm : BitVec 10) (a : SReg) (d : SReg) (mk : Bool) (s : State) : Host.Outcome State Fault Refusal :=
  issue (.saddImm imm a d mk) s fun x => x.scalarImm .add a d imm

/-- SAND with a sign-extended immediate (R391). -/
def execSandImm (imm : BitVec 10) (a : SReg) (d : SReg) (mk : Bool) (s : State) : Host.Outcome State Fault Refusal :=
  issue (.sandImm imm a d mk) s fun x => x.scalarImm .and a d imm

/-- SOR with a sign-extended immediate (R391). -/
def execSorImm (imm : BitVec 10) (a : SReg) (d : SReg) (mk : Bool) (s : State) : Host.Outcome State Fault Refusal :=
  issue (.sorImm imm a d mk) s fun x => x.scalarImm .or a d imm

/-- SXOR with a sign-extended immediate (R391). -/
def execSxorImm (imm : BitVec 10) (a : SReg) (d : SReg) (mk : Bool) (s : State) : Host.Outcome State Fault Refusal :=
  issue (.sxorImm imm a d mk) s fun x => x.scalarImm .xor a d imm

/-- SCMP with an immediate, zero-extended for n64, sign-extended for i64 (R391). -/
def execScmpImm (imm : BitVec 12) (a : SReg) (nat : Bool) (mk : Bool) (s : State) : Host.Outcome State Fault Refusal :=
  issue (.scmpImm imm a nat mk) s fun x => 
    Eff.ok (x.compare (x.s a) (if nat then imm.setWidth 64 else imm.signExtend 64))

/-- SLI: a quarter of a scalar, or the whole of it for H = 0 (R391). -/
def execSli (imm : BitVec 16) (h : Fin 4) (d : SReg) (mk : Bool) (s : State) : Host.Outcome State Fault Refusal :=
  issue (.sli imm h d mk) s fun x => Eff.ok (x.setS d (sliOp h imm (x.s d)))

/-- SMOV of a lane, active or not; an absent lane reads zero (R393, R394). -/
def execSmovV (lane : Fin 32) (a : VReg) (d : SReg) (mk : Bool) (s : State) : Host.Outcome State Fault Refusal :=
  issue (.smovV lane a d mk) s fun x => 
    Eff.ok (x.setS d (if x.present.getLsbD lane.val then (x.v a lane).setWidth 64 else 0))

/-- SMOV of a mask, zero-extended (R393). -/
def execSmovM (a : MReg) (d : SReg) (mk : Bool) (s : State) : Host.Outcome State Fault Refusal :=
  issue (.smovM a d mk) s fun x => Eff.ok (x.setS d ((x.m a).setWidth 64))

/-- SMOV of the cc image (R393, R394). -/
def execSmovCcRead (d : SReg) (mk : Bool) (s : State) : Host.Outcome State Fault Refusal :=
  issue (.smovCcRead d mk) s fun x => Eff.ok (x.setS d x.wv.cc.image)

/-- SMOV into Z, N, C and V from bits 0 to 3 (R393, R85). -/
def execSmovCcWrite (a : SReg) (mk : Bool) (s : State) : Host.Outcome State Fault Refusal :=
  issue (.smovCcWrite a mk) s fun x => 
    Eff.ok (x.setFlags ((x.s a).getLsbD 0) ((x.s a).getLsbD 1) ((x.s a).getLsbD 2) ((x.s a).getLsbD 3))

end Sys2Proof.Machine
end

