-- ==== Sys2Proof/Machine/Shoot.lean ====
section
/-! DEFINITION. Shoot-downs and replay (R157 to R159). -/

namespace Sys2Proof.Machine

/-! ## A shoot-down at work (R157) -/

/-- The generations of an entry raised: MGEN, and under REVOKE CGEN, which at its last value clears VALID. -/
def Entry.raise (e : Entry) (revoke : Bool) : Entry :=
  let e := { e with mgen := (e.mgen + 1) % 2 ^ 16 }
  if !revoke then e else if e.cgen = 0xFFFF then { e with valid := false } else { e with cgen := e.cgen + 1 }

/-- An object of a context, by the domain and identity of a tag; a public object's domain is 0 (R130). -/
def ofObject (ctx obj dom o : Nat) : Bool := o == obj && (dom == ctx + 1 || dom == 0)

/-- Every buffer entry and L1 line of an object removed from every core, dirty sectors written back first. -/
def State.purgeObject (s : State) (ctx obj : Nat) : State :=
  let s := s.dropL1 fun _ x => ofObject ctx obj x.dom x.obj
  { s with cores := s.cores.map fun c => { c with otb := c.otb.filter fun x => !ofObject ctx obj x.dom x.obj } }

/-- An engine command's footprint names an object of a context. -/
def EngineCmd.names (e : EngineCmd) (ctx obj : Nat) : Bool :=
  e.ctx == ctx && ((!e.zero && capObj e.src == obj) || ((e.sub == 0 || e.sub == 3) && capObj e.dst == obj))

/-- A command that names an object whose capabilities are revoked completes with the one it holds. -/
def EngineCmd.keep (e : EngineCmd) (ctx obj : Nat) : EngineCmd := if e.names ctx obj then { e with kept := obj :: e.kept } else e

/-- The same for the commands of a team off its cores. -/
def SavedTeam.keep (x : SavedTeam) (ctx obj : Nat) : SavedTeam := { x with engines := x.engines.map fun e => (e.1, e.2.keep ctx obj) }

/-- Something done to every team of a context that waits in a launch for its cores. -/
def restoredLaunches (ctx : Nat) (f : SavedTeam → SavedTeam) (ls : List Launch) : List Launch :=
  ls.map fun l => if l.ctx = ctx then { l with restored := l.restored.map f } else l

/-- Something done to every team of a context off its cores: one that waits for them again, and one a debugger has taken off. -/
def State.mapAway (s : State) (ctx : Nat) (f : SavedTeam → SavedTeam) : State :=
  let c := s.ctx ctx
  let s : State := { s with dies := s.dies.map fun (d : Die) =>
    { d with queue := restoredLaunches ctx f d.queue, overflow := restoredLaunches ctx f d.overflow } }
  s.setCtx ctx { c with dbg := { c.dbg with swapped := c.dbg.swapped.map f } }

/-- The commands that an image holds kept. -/
def SavedImage.keep (x : SavedImage) (ctx obj : Nat) : SavedImage :=
  { x with
    teams := x.teams.map fun t => t.keep ctx obj
    launches := x.launches.map fun l => (l.1, { l.2 with restored := l.2.restored.map fun t => t.keep ctx obj })
    orphans := x.orphans.map fun o => (o.1, o.2.1, o.2.2.keep ctx obj) }

/-- The engine commands that name an object whose capabilities are revoked complete with the one they hold, those of teams off their
cores too (R157). -/
def State.keepCommands (s : State) (ctx obj : Nat) : State :=
  let keep := fun (c : Core) =>
    if c.engines.any fun e => e.names ctx obj then { c with engines := c.engines.map fun e => e.keep ctx obj } else c
  let s : State := { s with cores := s.cores.map keep }
  let s := s.mapAway ctx fun x => x.keep ctx obj
  s.setCtx ctx { s.ctx ctx with saved := (s.ctx ctx).saved.map fun i => i.keep ctx obj }

/-- A shoot-down begins: the generations are raised, and every core drops what it holds of the object. -/
def State.shoot (s : State) (ctx obj : Nat) (revoke : Bool) : State :=
  match s.entry ctx obj with
  | none => s
  | some e =>
    let s := (s.setEntry ctx obj (e.raise revoke)).purgeObject ctx obj
    if revoke then s.keepCommands ctx obj else s

/-- A shoot-down may begin: none of its object is unfinished before it, and one asked for through OINVREQ waits for the earlier
ones asked for there (R157, R159). -/
def mayBegin (before : List ShootDown) (d : ShootDown) : Bool :=
  !d.raised && before.all fun e => e.result.isSome || (e.obj != d.obj && (e.asker.isSome || d.asker.isSome))

/-- The first of a list that may begin, with those before it. -/
def firstToBegin : List ShootDown → List ShootDown → Option (List ShootDown × ShootDown × List ShootDown)
  | _, [] => none
  | before, d :: ds => if mayBegin before d then some (before, d, ds) else firstToBegin (before ++ [d]) ds

/-- A context's shoot-downs replaced; BUSY stands while one asked for through OINVREQ is unfinished. -/
def State.setShoot (s : State) (ctx : Nat) (ds : List ShootDown) : State :=
  s.setCtx ctx { s.ctx ctx with shoot := ds, busy := ds.any fun d => d.asker.isNone }

/-- What an OINV receives (R158). -/
def State.newGens (s : State) (ctx obj : Nat) : W64 :=
  match s.entry ctx obj with
  | some e => BitVec.ofNat 64 (e.cgen + e.mgen * 2 ^ 16)
  | none => 0

/-- Every shoot-down that may begin begins; one that finds nothing to act on ends at once (R159), and an OINV that waited behind one
that cleared VALID receives 0 (DESIGN CHOICE, log 59: R158 states it for the OINV's own shoot-down). At most `fuel`. -/
def State.beginDue (s : State) (ctx : Nat) : Nat → State
  | 0 => s
  | fuel + 1 =>
    match firstToBegin [] (s.ctx ctx).shoot with
    | none => s
    | some (before, d, after) =>
      if (s.entry ctx d.obj).isNone then
        let ended := if d.asker.isNone then [] else [{ d with raised := true, result := some 0 }]
        (s.setShoot ctx (before ++ ended ++ after)).beginDue ctx fuel
      else
        ((s.shoot ctx d.obj d.revoke).setShoot ctx (before ++ { d with raised := true } :: after)).beginDue ctx fuel

/-- A shoot-down asked for. -/
def State.askShoot (s : State) (ctx : Nat) (d : ShootDown) : State :=
  let ds := (s.ctx ctx).shoot ++ [d]
  (s.setShoot ctx ds).beginDue ctx ds.length

/-- A team off its cores has an engine command that names an object. -/
def SavedTeam.names (x : SavedTeam) (ctx obj : Nat) : Bool := x.engines.any fun e => e.2.names ctx obj

/-- An engine command of a context that is off its core names an object: of a team that a debugger has taken off or that waits for its
cores again, or in the image of a saved context. -/
def State.awayNames (s : State) (ctx obj : Nat) : Bool :=
  let c := s.ctx ctx
  let launched := fun (l : Launch) => l.restored.any fun x => x.names ctx obj
  (c.dbg.swapped.any fun x => x.names ctx obj) || (s.dies.toList.any fun d => (d.queue ++ d.overflow).any launched) ||
    (c.state.offModule && c.saved.any fun i =>
      (i.teams.any fun x => x.names ctx obj) || (i.launches.any fun l => launched l.2) || i.orphans.any fun o => o.2.2.names ctx obj)

/-- A record of a POST still has to reach the object before a shoot-down is acknowledged: it was issued through a capability that is
revoked, or the page of its slot is there. One that waits for its page, while nothing is revoked, is translated under the new MGEN. -/
def State.recordHolds (s : State) (ctx obj : Nat) (revoke : Bool) (r : PendingRecord) : Bool :=
  r.posted && r.ctx == ctx && r.obj == obj && (revoke || (s.postSlot r).isSome)

/-- Nothing translated before a shoot-down is still on its way: no store of the context to the object is queued, no record of a POST
waits that was issued through a revoked capability or can be written, and no engine command names it (R157). -/
def State.shootReady (s : State) (ctx obj : Nat) (revoke : Bool) : Bool :=
  (s.teams.all fun t => t.ctx != ctx || t.waves.all fun w => w.stores.all fun q => q.obj != obj) &&
    (s.dies.toList.all fun d => d.records.all fun r => !s.recordHolds ctx obj revoke r) &&
    (s.cores.all fun c => c.engines.all fun e => !e.names ctx obj) && !s.awayNames ctx obj

/-- The shoot-down of a context that may be acknowledged: the first that is at work and whose requests are done. -/
def State.ackDue (s : State) (ctx : Nat) : Option ShootDown :=
  (s.ctx ctx).shoot.find? fun d => d.raised && d.result.isNone && s.shootReady ctx d.obj d.revoke

/-- What a core has taken of the object since the shoot-down began leaves it before the acknowledgement (R157), and the lines of its
pages that move leave every L1 and L2 (R143). -/
def State.settleShoot (s : State) (ctx obj : Nat) : State :=
  let s := s.purgeObject ctx obj
  match s.entry ctx obj with
  | none => s
  | some e => ((s.leaves e).filter fun l => l.migrating).foldl State.evictRun s

/-- SHOOT_DOWN_ACK: a shoot-down is acknowledged; an OINV receives the new generations, BUSY clears with the last one asked
for through OINVREQ, and the next begin (R157 to R159). -/
def execShootDownAck (ctx : Nat) (s : State) : Host.Outcome State Fault Refusal :=
  match s.ackDue ctx with
  | none => .next s
  | some d =>
    let ds := (s.ctx ctx).shoot
    let ds :=
      if d.asker.isNone then ds.erase d
      else ds.map fun e => if e = d then { e with result := some (s.newGens ctx d.obj) } else e
    .next (((s.settleShoot ctx d.obj).setShoot ctx ds).beginDue ctx ds.length)

/-- OINVREQ: a write of the register asks for a shoot-down (R159). Before PHASE 2 the write has no effect (R27). -/
def execOinvreq (ctx : Nat) (revoke : Bool) (obj : BitVec 24) (s : State) : Host.Outcome State Fault Refusal :=
  if s.phase ≠ .running then .next s
  else
    let s := s.setCtx ctx { s.ctx ctx with oinvObj := obj }
    .next (s.askShoot ctx ⟨obj.toNat, revoke, none, false, none⟩)

/-! ## Replay (R159) -/

/-- A wave parked replayable on an object issues again. -/
def Wave.replay (w : Wave) (obj : Nat) : Wave :=
  match w.park with
  | some (.replayable _ _ o) => if o = obj then { w with park := none } else w
  | some (.due _ _ _ _ _ _ _) | some .service | none => w

/-- An engine command that waits on an object goes on. -/
def EngineCmd.wake (e : EngineCmd) (obj : Nat) : EngineCmd := if e.waiting = some obj then { e with waiting := none } else e

/-- The waves of a team parked on an object issue again. -/
def Team.replay (t : Team) (obj : Nat) : Team := { t with waves := t.waves.map fun w => w.replay obj }

/-- The same for a team off its cores, and for its engine commands. -/
def SavedTeam.replay (x : SavedTeam) (obj : Nat) : SavedTeam :=
  { x with team := x.team.replay obj, engines := x.engines.map fun e => (e.1, e.2.wake obj) }

/-- Every wave of a context parked on an object issues again, and every engine command that waits on it goes on, those of teams off
their cores too (R156, R159). -/
def State.replay (s : State) (ctx obj : Nat) : State :=
  let s : State := { s with
    teams := s.teams.map fun t => if t.ctx = ctx then t.replay obj else t
    cores := s.cores.map fun c =>
      { c with engines := c.engines.map fun e => if e.ctx = ctx then e.wake obj else e } }
  s.mapAway ctx fun x => x.replay obj

/-- REPLAY: a write of the register replays what is parked or waits on an object; while the context is saved it has no effect
(R159, R298). -/
def execReplay (ctx : Nat) (obj : BitVec 24) (s : State) : Host.Outcome State Fault Refusal :=
  if s.phase = .running ∧ !(s.ctx ctx).state.offModule then .next (s.replay ctx obj.toNat) else .next s

end Sys2Proof.Machine
end

