-- ==== Sys2Proof/Machine/System.lean ====
section
/-! DEFINITION. System registers (R374, R375), counters (R306, R307) and OINV (R157, R158). -/

namespace Sys2Proof.Machine

/-- A number of live splits' slots as a bit mask. -/
def slotBits (ps : List (Fin 4 × Split)) : Nat := ps.foldl (fun n p => n + 2 ^ p.1.val) 0

/-- SPLITS (Table 2.1). -/
def Iss.splitsReg (x : Iss) : Nat :=
  let live := (x.slot, x.sp) :: x.siblings
  slotBits live + slotBits (live.filter fun p => p.2.status == .parked) * 2 ^ 4 +
    slotBits (live.filter fun p => p.2.status == .atJoin) * 2 ^ 8 + x.slot.val * 2 ^ 12

/-- CNTSEL as a register (Table 15.3). -/
def CntSel.toNat (c : CntSel) : Nat :=
  c.src.toNat + bit c.own * 2 ^ 16 + c.ctx.toNat * 2 ^ 17 + bit c.en * 2 ^ 23

/-- The value of a system register (Table 17.11); those of a trap are the split's own record (R289). -/
def Iss.readSys (x : Iss) (n : SysReg) : Nat :=
  let w := x.wv
  let r := x.sp.record
  match n with
  | .wstat => bit w.pflag + bit w.jmis * 2 + w.prio.toNat * 2 ^ 8 + bit x.inService * 2 ^ 11 + bit x.tm.follower.isSome * 2 ^ 12
  | .wid => widOf x.tm.die w
  | .tid => x.tm.serial.toNat + x.tm.ctx % 64 * 2 ^ 32 + x.tm.depth % 8 * 2 ^ 38
  | .ltile => w.tile.code
  | .fpmode => w.rm.toNat + w.enables.toNat * 2 ^ 8
  | .fpflags => w.flags.toNat
  | .repc => x.sp.repCount.toNat + x.sp.repNext.toNat * 2 ^ 8 + bit x.sp.repActive * 2 ^ 16
  | .splits => x.splitsReg
  | .poolw => x.tm.vregs % 128 + x.tm.scru % 256 * 2 ^ 8 + x.tm.accu % 256 * 2 ^ 16
  | .role => w.role.toNat
  | .pdead => w.pdead.toNat
  | .prq => if w.cc.p then w.left.toNat + 2 ^ 32 else 0
  | .tvec => w.tvecEntry.toNat * 2 ^ 6 + w.tvecObj.toNat * 2 ^ 40
  | .tcause => r.cause.toNat + bit r.lane * 2 ^ 8 + bit r.noslot * 2 ^ 9
  | .trec => r.fmask.toNat + r.info.toNat * 2 ^ 32
  | .tsib => r.sibs.toNat + r.slot.toNat * 2 ^ 4 + r.siblanes.toNat * 2 ^ 32
  | .tpar => widOf x.tm.die w + x.tm.serial.toNat * 2 ^ 32
  | .tepc => r.epc.toNat
  | .taddr => r.addr.toNat
  | .dumpobj => w.dumpobj.toNat
  | .traceobj => w.traceobj.toNat
  | .cntsel j => ((x.st.core x.tm.die w.core).cntsel[j]).toNat

/-- MFSR reads at issue; fpflags waits for every earlier instruction of the wave (R375, R105). -/
def execMfsr (n : SysReg) (d : SReg) (mk : Bool) (s : State) : Host.Outcome State Fault Refusal :=
  issue (.mfsr n d mk) s fun x =>
    if n = .fpflags ∧ x.passesOut then .wait x .fpflags
    else Eff.ok (x.setS d (BitVec.ofNat 64 (x.readSys n)))

/-- A source of Table 15.4 that an MTSR may select: one of the die's L2 sums needs OWN = 0 and is refused (log 18). -/
def coreSource (n : Nat) : Bool := n ≤ 15

/-- A system register written (R374): the fields the mode may write, the others kept; none where the value is refused. -/
def Iss.writeSys (x : Iss) (n : SysReg) (v : Nat) : Option Iss :=
  let w := x.wv
  let r := x.sp.record
  match n with
  | .wstat =>
    some { x with wv := { w with
      prio := BitVec.ofNat 3 (field v 8 3), jmis := w.jmis && !fieldBit v 1, pflag := w.pflag && !fieldBit v 0 } }
  | .ltile => (TileCode.ofCode (field v 0 3)).map fun t => { x with wv := { w with tile := t } }
  | .fpmode => some { x with wv := { w with rm := BitVec.ofNat 2 v, enables := BitVec.ofNat 5 (field v 8 5) } }
  | .fpflags => some { x with wv := { w with flags := w.flags &&& ~~~(BitVec.ofNat 6 v) } }
  | .repc => some { x with sp := { x.sp with repActive := fieldBit v 16, repNext := BitVec.ofNat 6 (field v 8 6) } }
  | .pdead => some { x with wv := { w with pdead := BitVec.ofNat 32 v } }
  | .tvec =>
    some { x with wv := { w with tvecObj := BitVec.ofNat 24 (field v 40 24), tvecEntry := BitVec.ofNat 34 (field v 6 34) } }
  | .trec => some { x with sp := { x.sp with record := { r with fmask := BitVec.ofNat 32 v } } }
  | .tepc => some { x with sp := { x.sp with record := { r with epc := BitVec.ofNat 48 (v % 2 ^ 48 / 2 * 2) } } }
  | .cntsel j =>
    if coreSource (field v 0 8) then
      let c := x.st.core x.tm.die w.core
      let sel : CntSel := ⟨fieldBit v 23, BitVec.ofNat 6 x.tm.ctx, true, BitVec.ofNat 8 v⟩
      some { x with st := x.st.setCore { c with cntsel := c.cntsel.set j sel } }
    else none
  | .wid | .tid | .splits | .poolw | .role | .prq | .tcause | .tsib | .tpar | .taddr | .dumpobj | .traceobj => some x

/-- MTSR (R374, R375). -/
def execMtsr (n : SysReg) (d : SReg) (mk : Bool) (s : State) : Host.Outcome State Fault Refusal :=
  issue (.mtsr n d mk) s fun x =>
    match x.writeSys n (x.s d).toNat with
    | some y => Eff.ok y
    | none => .trap x { cause := 0x01 }

/-- CNTRD: the count where the selector counts the reader's context alone, else 0 (R307). -/
def execCntrd (n : Fin 8) (d : SReg) (mk : Bool) (s : State) : Host.Outcome State Fault Refusal :=
  issue (.cntrd n d mk) s fun x =>
    let c := x.st.core x.tm.die x.wv.core
    let sel := c.cntsel[n]
    Eff.ok (x.setS d (if sel.own && sel.ctx.toNat == x.tm.ctx then (c.counters[n]).setWidth 64 else 0))

/-- The shoot-down an OINV waits for, by its wave and split. -/
def ShootDown.isOf (d : ShootDown) (x : Iss) : Bool :=
  d.asker == some (x.tm.die, x.tm.serial, x.wv.number.val, x.slot)

/-- OINV (R158): a shoot-down is asked for, and once it is acknowledged the split receives the new generations. -/
def Iss.oinv (x : Iss) (d : SReg) : Eff :=
  let c := x.st.ctx x.tm.ctx
  match c.shoot.find? fun e => e.isOf x with
  | some e =>
    match e.result with
    | none => .wait x .oinv
    | some r =>
      Eff.ok ({ x with st := x.st.setCtx x.tm.ctx { c with shoot := c.shoot.filter fun e => !e.isOf x } }.setS d r)
  | none =>
    let v := (x.s d).toNat
    match x.st.entry x.tm.ctx (field v 0 24) with
    | none => .trap x (onceTrap 0x23 0 0)
    | some _ =>
      let down : ShootDown := ⟨field v 0 24, fieldBit v 24, some (x.tm.die, x.tm.serial, x.wv.number.val, x.slot), false, none⟩
      .wait { x with st := x.st.askShoot x.tm.ctx down } .oinv

/-- OINV (R157, R158, R380). -/
def execOinv (d : SReg) (mk : Bool) (s : State) : Host.Outcome State Fault Refusal :=
  issue (.oinv d mk) s fun x => x.oinv d

end Sys2Proof.Machine
end

