-- ==== Sys2Proof/Machine/VecFp.lean ====
section
/-! DEFINITION. Vector floating-point arithmetic (R411), compares (R408), special functions (R416) and conversion (R108),
with the floating-point ops of the 16-bit parcels (R78). -/

namespace Sys2Proof.Machine

/-- A floating-point operation of two vector operands under a predicate, rounded by FPMODE (R411). -/
def Iss.vecFp (x : Iss) (op : FpOp) (t : FltType) (m : MReg) (a b d : VReg) : Eff :=
  x.fpLanes t.isWide d (x.under m) fun L =>
    fpLane op t (roundOf x.wv.rm) (x.lane t.isWide a L) (x.lane t.isWide b L)

/-- A floating-point op of a 16-bit parcel: f32, on D and B, into D (R78). -/
def Iss.parcelFp (x : Iss) (op : FpOp) (b d : Fin 32) : Eff :=
  x.vecFp op .f32 0 (Fin.ofNat 64 d.val) (Fin.ofNat 64 b.val) (Fin.ofNat 64 d.val)

/-- VFADD: rounded sums (R411). -/
def execVfadd (t : FltType) (m : MReg) (b : VReg) (a : VReg) (d : VReg) (mk : Bool)
    (s : State) : Host.Outcome State Fault Refusal :=
  issue (.vfadd t m b a d mk) s fun x => x.vecFp .add t m a b d

/-- VFSUB: rounded differences (R411). -/
def execVfsub (t : FltType) (m : MReg) (b : VReg) (a : VReg) (d : VReg) (mk : Bool)
    (s : State) : Host.Outcome State Fault Refusal :=
  issue (.vfsub t m b a d mk) s fun x => x.vecFp .sub t m a b d

/-- VFMUL: rounded products (R411). -/
def execVfmul (t : FltType) (m : MReg) (b : VReg) (a : VReg) (d : VReg) (mk : Bool)
    (s : State) : Host.Outcome State Fault Refusal :=
  issue (.vfmul t m b a d mk) s fun x => x.vecFp .mul t m a b d

/-- VFMIN: minimumNumber (R411). -/
def execVfmin (t : FltType) (m : MReg) (b : VReg) (a : VReg) (d : VReg) (mk : Bool)
    (s : State) : Host.Outcome State Fault Refusal :=
  issue (.vfmin t m b a d mk) s fun x => x.vecFp .min t m a b d

/-- VFMAX: maximumNumber (R411). -/
def execVfmax (t : FltType) (m : MReg) (b : VReg) (a : VReg) (d : VReg) (mk : Bool)
    (s : State) : Host.Outcome State Fault Refusal :=
  issue (.vfmax t m b a d mk) s fun x => x.vecFp .max t m a b d

/-- VFCMP into the lanes of a mask; a lane whose enabled invalid is raised keeps its bit (R408). -/
def execVfcmp (t : FltType) (m : MReg) (b : VReg) (a : VReg) (c : CmpCond) (md : MReg) (mk : Bool)
    (s : State) : Host.Outcome State Fault Refusal :=
  issue (.vfcmp t m b a c md mk) s fun x =>
    let r := fun (L : Fin 32) => fpCompare (fltFormat t) c (x.lane t.isWide a L) (x.lane t.isWide b L)
    x.fpEnd (x.under m) (fun L => (r L).2) fun y ok => y.setMaskLanes md ok fun L => (r L).1

/-- VFMA in fp32: a × b + c rounded once (R411). -/
def execVfma (c : VReg) (b : VReg) (a : VReg) (d : VReg) (mk : Bool) (s : State) : Host.Outcome State Fault Refusal :=
  issue (.vfma c b a d mk) s fun x =>
    x.fpLanes false d x.mask fun L =>
      fpFma fp32 (roundOf x.wv.rm) (x.lane false a L) (x.lane false b L) (x.lane false c L)

/-- VFMA in fp64: a × b + c rounded once (R411). -/
def execVfmaF64 (c : VReg) (b : VReg) (a : VReg) (d : VReg) (mk : Bool)
    (s : State) : Host.Outcome State Fault Refusal :=
  issue (.vfmaF64 c b a d mk) s fun x =>
    x.fpLanes true d x.mask fun L =>
      fpFma fp64 (roundOf x.wv.rm) (x.lane true a L) (x.lane true b L) (x.lane true c L)

/-- VSFN (R416). -/
def execVsfn (t : SfnType) (m : MReg) (fn : SfnOp) (a : VReg) (d : VReg) (mk : Bool)
    (s : State) : Host.Outcome State Fault Refusal :=
  issue (.vsfn t m fn a d mk) s fun x => x.fpLanes false d (x.under m) fun L => sfnLane fn t (x.lane false a L)

/-- VCVT, zero-filling above the element (R108). -/
def execVcvt (rnd : CvtRound) (m : MReg) (dst : CvtFmt) (src : CvtFmt) (a : VReg) (d : VReg) (mk : Bool)
    (s : State) : Host.Outcome State Fault Refusal :=
  issue (.vcvt rnd m dst src a d mk) s fun x =>
    x.fpLanes (dst == .f64) d (x.under m) fun L => cvtElem dst src (cvtRound rnd) (x.lane (src == .f64) a L)

/-- VFADD as a 16-bit parcel (R78). -/
def execVfaddH (b : Fin 32) (d : Fin 32) (mk : Bool) (s : State) : Host.Outcome State Fault Refusal :=
  issue (.vfaddH b d mk) s fun x => x.parcelFp .add b d

/-- VFSUB as a 16-bit parcel (R78). -/
def execVfsubH (b : Fin 32) (d : Fin 32) (mk : Bool) (s : State) : Host.Outcome State Fault Refusal :=
  issue (.vfsubH b d mk) s fun x => x.parcelFp .sub b d

/-- VFMUL as a 16-bit parcel (R78). -/
def execVfmulH (b : Fin 32) (d : Fin 32) (mk : Bool) (s : State) : Host.Outcome State Fault Refusal :=
  issue (.vfmulH b d mk) s fun x => x.parcelFp .mul b d

/-- VFMAX as a 16-bit parcel (R78). -/
def execVfmaxH (b : Fin 32) (d : Fin 32) (mk : Bool) (s : State) : Host.Outcome State Fault Refusal :=
  issue (.vfmaxH b d mk) s fun x => x.parcelFp .max b d

/-- VFMIN as a 16-bit parcel (R78). -/
def execVfminH (b : Fin 32) (d : Fin 32) (mk : Bool) (s : State) : Host.Outcome State Fault Refusal :=
  issue (.vfminH b d mk) s fun x => x.parcelFp .min b d

end Sys2Proof.Machine
end

