-- ==== Sys2Proof/Machine/VecInt.lean ====
section
/-! DEFINITION. Vector integer arithmetic (R404), bit counts, lane moves and indices (R406), integer compares (R408) and
select (R415), with the integer ops of the 16-bit parcels (R78). -/

namespace Sys2Proof.Machine

/-- An integer operation of two vector operands under a predicate (R404). -/
def Iss.vecInt (x : Iss) (op : IntOp) (t : IntType) (m : MReg) (a b d : VReg) : Eff :=
  x.lanesEnd t.isWide d (x.under m) fun L => intLane op t (x.lane t.isWide a L) (x.lane t.isWide b L)

/-- An integer op of a 16-bit parcel: i32, on D and B, into D (R78). -/
def Iss.parcelInt (x : Iss) (op : IntOp) (b d : Fin 32) : Eff :=
  x.vecInt op .i32 0 (Fin.ofNat 64 d.val) (Fin.ofNat 64 b.val) (Fin.ofNat 64 d.val)

/-- VADD: sums (R404). -/
def execVadd (t : IntType) (m : MReg) (b : VReg) (a : VReg) (d : VReg) (mk : Bool)
    (s : State) : Host.Outcome State Fault Refusal :=
  issue (.vadd t m b a d mk) s fun x => x.vecInt .add t m a b d

/-- VSUB: differences (R404). -/
def execVsub (t : IntType) (m : MReg) (b : VReg) (a : VReg) (d : VReg) (mk : Bool)
    (s : State) : Host.Outcome State Fault Refusal :=
  issue (.vsub t m b a d mk) s fun x => x.vecInt .sub t m a b d

/-- VMUL: low halves of products (R404). -/
def execVmul (t : IntType) (m : MReg) (b : VReg) (a : VReg) (d : VReg) (mk : Bool)
    (s : State) : Host.Outcome State Fault Refusal :=
  issue (.vmul t m b a d mk) s fun x => x.vecInt .mul t m a b d

/-- VMIN: lesser elements, signed or natural by T (R404). -/
def execVmin (t : IntType) (m : MReg) (b : VReg) (a : VReg) (d : VReg) (mk : Bool)
    (s : State) : Host.Outcome State Fault Refusal :=
  issue (.vmin t m b a d mk) s fun x => x.vecInt .min t m a b d

/-- VMAX: greater elements, signed or natural by T (R404). -/
def execVmax (t : IntType) (m : MReg) (b : VReg) (a : VReg) (d : VReg) (mk : Bool)
    (s : State) : Host.Outcome State Fault Refusal :=
  issue (.vmax t m b a d mk) s fun x => x.vecInt .max t m a b d

/-- VSHL: left shifts by b mod n (R404). -/
def execVshl (t : IntType) (m : MReg) (b : VReg) (a : VReg) (d : VReg) (mk : Bool)
    (s : State) : Host.Outcome State Fault Refusal :=
  issue (.vshl t m b a d mk) s fun x => x.vecInt .shl t m a b d

/-- VSHR: right shifts by b mod n, arithmetic for signed T (R404). -/
def execVshr (t : IntType) (m : MReg) (b : VReg) (a : VReg) (d : VReg) (mk : Bool)
    (s : State) : Host.Outcome State Fault Refusal :=
  issue (.vshr t m b a d mk) s fun x => x.vecInt .shr t m a b d

/-- VAND: bitwise and over all 32 bits (R404). -/
def execVand (m : MReg) (b : VReg) (a : VReg) (d : VReg) (mk : Bool) (s : State) : Host.Outcome State Fault Refusal :=
  issue (.vand m b a d mk) s fun x => x.vecInt .and .n32 m a b d

/-- VOR: bitwise or over all 32 bits (R404). -/
def execVor (m : MReg) (b : VReg) (a : VReg) (d : VReg) (mk : Bool) (s : State) : Host.Outcome State Fault Refusal :=
  issue (.vor m b a d mk) s fun x => x.vecInt .or .n32 m a b d

/-- VXOR: bitwise exclusive or over all 32 bits (R404). -/
def execVxor (m : MReg) (b : VReg) (a : VReg) (d : VReg) (mk : Bool) (s : State) : Host.Outcome State Fault Refusal :=
  issue (.vxor m b a d mk) s fun x => x.vecInt .xor .n32 m a b d

/-- VCMP into the lanes of a mask (R408). -/
def execVcmp (t : IntType) (m : MReg) (b : VReg) (a : VReg) (c : CmpCond) (md : MReg) (mk : Bool)
    (s : State) : Host.Outcome State Fault Refusal :=
  issue (.vcmp t m b a c md mk) s fun x =>
    Eff.ok (x.setMaskLanes md (x.under m) fun L =>
      intCompare c t (x.lane t.isWide a L) (x.lane t.isWide b L))

/-- VSEL: a where the mask is set, else b, in every active lane (R415). -/
def execVsel (m : MReg) (b : VReg) (a : VReg) (d : VReg) (mk : Bool) (s : State) : Host.Outcome State Fault Refusal :=
  issue (.vsel m b a d mk) s fun x =>
    x.lanesEnd false d x.mask fun L =>
      if (x.m m).getLsbD L.val then x.lane false a L else x.lane false b L

/-- VMAD: a × b + c modulo 2^32 (R404). -/
def execVmad (c : VReg) (b : VReg) (a : VReg) (d : VReg) (mk : Bool) (s : State) : Host.Outcome State Fault Refusal :=
  issue (.vmad c b a d mk) s fun x =>
    x.lanesEnd false d x.mask fun L =>
      (x.lane false a L * x.lane false b L + x.lane false c L) % 2 ^ 32

/-- VADD with a sign-extended immediate (R404). -/
def execVaddImm (imm : BitVec 12) (a : VReg) (d : VReg) (mk : Bool) (s : State) : Host.Outcome State Fault Refusal :=
  issue (.vaddImm imm a d mk) s fun x =>
    x.lanesEnd false d x.mask fun L =>
      (x.lane false a L + (imm.signExtend 32).toNat) % 2 ^ 32

/-- VMOV copy (R406). -/
def execVmov (m : MReg) (a : VReg) (d : VReg) (mk : Bool) (s : State) : Host.Outcome State Fault Refusal :=
  issue (.vmov m a d mk) s fun x => x.lanesEnd false d (x.under m) fun L => x.lane false a L

/-- VMOV broadcast of a scalar's low word (R406). -/
def execVmovBcast (m : MReg) (a : SReg) (d : VReg) (mk : Bool) (s : State) : Host.Outcome State Fault Refusal :=
  issue (.vmovBcast m a d mk) s fun x => x.lanesEnd false d (x.under m) fun _ => (x.s a).toNat % 2 ^ 32

/-- VMOV from a mask: 0 or 1 in each lane (R406). -/
def execVmovMask (m : MReg) (a : MReg) (d : VReg) (mk : Bool) (s : State) : Host.Outcome State Fault Refusal :=
  issue (.vmovMask m a d mk) s fun x => x.lanesEnd false d (x.under m) fun L => bit ((x.m a).getLsbD L.val)

/-- The lane numbers VIDX gives (R406). -/
def laneIndex (fn : LaneIndex) (t : TileCode) (wave : Nat) (L : Fin 32) : Nat :=
  match fn with
  | .lane => L.val
  | .tlane => L.val % tileLanes t
  | .tile => L.val / tileLanes t
  | .team => 32 * wave + L.val

/-- VIDX by the tiling in force at issue (R406). -/
def execVidx (m : MReg) (fn : LaneIndex) (d : VReg) (mk : Bool) (s : State) : Host.Outcome State Fault Refusal :=
  issue (.vidx m fn d mk) s fun x => x.lanesEnd false d (x.under m) fun L => laneIndex fn x.wv.tile x.wv.number.val L

/-- VBIT on every element (R406). -/
def execVbit (t : IntType) (m : MReg) (fn : VBitFn) (a : VReg) (d : VReg) (mk : Bool)
    (s : State) : Host.Outcome State Fault Refusal :=
  issue (.vbit t m fn a d mk) s fun x => x.lanesEnd t.isWide d (x.under m) fun L => vbitLane fn t (x.lane t.isWide a L)

/-- VADD as a 16-bit parcel (R78). -/
def execVaddH (b : Fin 32) (d : Fin 32) (mk : Bool) (s : State) : Host.Outcome State Fault Refusal :=
  issue (.vaddH b d mk) s fun x => x.parcelInt .add b d

/-- VSUB as a 16-bit parcel (R78). -/
def execVsubH (b : Fin 32) (d : Fin 32) (mk : Bool) (s : State) : Host.Outcome State Fault Refusal :=
  issue (.vsubH b d mk) s fun x => x.parcelInt .sub b d

/-- VMUL as a 16-bit parcel (R78). -/
def execVmulH (b : Fin 32) (d : Fin 32) (mk : Bool) (s : State) : Host.Outcome State Fault Refusal :=
  issue (.vmulH b d mk) s fun x => x.parcelInt .mul b d

/-- VAND as a 16-bit parcel (R78). -/
def execVandH (b : Fin 32) (d : Fin 32) (mk : Bool) (s : State) : Host.Outcome State Fault Refusal :=
  issue (.vandH b d mk) s fun x => x.parcelInt .and b d

/-- VOR as a 16-bit parcel (R78). -/
def execVorH (b : Fin 32) (d : Fin 32) (mk : Bool) (s : State) : Host.Outcome State Fault Refusal :=
  issue (.vorH b d mk) s fun x => x.parcelInt .or b d

/-- VXOR as a 16-bit parcel (R78). -/
def execVxorH (b : Fin 32) (d : Fin 32) (mk : Bool) (s : State) : Host.Outcome State Fault Refusal :=
  issue (.vxorH b d mk) s fun x => x.parcelInt .xor b d

/-- VSHL as a 16-bit parcel (R78). -/
def execVshlH (b : Fin 32) (d : Fin 32) (mk : Bool) (s : State) : Host.Outcome State Fault Refusal :=
  issue (.vshlH b d mk) s fun x => x.parcelInt .shl b d

/-- VSHR as a 16-bit parcel (R78). -/
def execVshrH (b : Fin 32) (d : Fin 32) (mk : Bool) (s : State) : Host.Outcome State Fault Refusal :=
  issue (.vshrH b d mk) s fun x => x.parcelInt .shr b d

/-- VMIN as a 16-bit parcel (R78). -/
def execVminH (b : Fin 32) (d : Fin 32) (mk : Bool) (s : State) : Host.Outcome State Fault Refusal :=
  issue (.vminH b d mk) s fun x => x.parcelInt .min b d

/-- VMAX as a 16-bit parcel (R78). -/
def execVmaxH (b : Fin 32) (d : Fin 32) (mk : Bool) (s : State) : Host.Outcome State Fault Refusal :=
  issue (.vmaxH b d mk) s fun x => x.parcelInt .max b d

/-- VMOV as a 16-bit parcel: v(D) := v(B) (R78). -/
def execVmovH (b : Fin 32) (d : Fin 32) (mk : Bool) (s : State) : Host.Outcome State Fault Refusal :=
  issue (.vmovH b d mk) s fun x =>
    x.lanesEnd false (Fin.ofNat 64 d.val) x.mask fun L => x.lane false (Fin.ofNat 64 b.val) L

end Sys2Proof.Machine
end

