-- ==== Sys2Proof/Machine/VecLane.lean ====
section
/-! DEFINITION. Instructions that cross lanes within a tile: shuffles (R417), votes (R413), reductions and scans (R414,
R114) and the online softmax pair (R243, R395). -/

namespace Sys2Proof.Machine

/-- The source lane a shuffle names; one outside the reader's tile is the reader itself (R417, R37). -/
def shuffleSource (op : ShflOp) (t : TileCode) (L : Fin 32) (d : Nat) : Fin 32 :=
  let src : Int :=
    match op with
    | .idx => d
    | .up => (L.val : Int) - d
    | .down => L.val + d
    | .xor => (L.val ^^^ d : Nat)
  if src < tileBase t L ∨ (tileBase t L + tileLanes t : Nat) ≤ src then L else Fin.ofNat 32 src.toNat

/-- VSHFL: the source lane need not be active; an absent one reads zero (R417). -/
def execVshfl (op : ShflOp) (m : MReg) (b : VReg) (a : VReg) (d : VReg) (mk : Bool)
    (s : State) : Host.Outcome State Fault Refusal :=
  issue (.vshfl op m b a d mk) s fun x =>
    x.lanesEnd false d (x.under m) fun L =>
      let src := shuffleSource op x.wv.tile L (x.lane false b L)
      if x.present.getLsbD src.val then x.lane false a src else 0

/-- The bit a vote gives a lane of `A` (R413). -/
def voteBit (op : VoteOp) (t : TileCode) (A : Mask) (val : Fin 32 → W32) (L : Fin 32) : Bool :=
  let others := lanesOf (A &&& tileOf t L)
  match op with
  | .ballot => val L != 0
  | .any => others.any fun K => val K != 0
  | .all => others.all fun K => val K != 0
  | .uniform => others.all fun K => val K == val L

/-- VVOTE into a scalar, a bit per lane (R413). -/
def execVvote (m : MReg) (op : VoteOp) (a : VReg) (d : SReg) (mk : Bool)
    (s : State) : Host.Outcome State Fault Refusal :=
  issue (.vvote m op a d mk) s fun x =>
    Eff.ok (x.setS d ((maskOf fun L =>
      (x.under m).getLsbD L.val && voteBit op x.wv.tile (x.under m) (x.v a) L).setWidth 64))

/-- The value of a lane where it lies in a mask, by lane number (R114). -/
def laneVal (A : Mask) (val : Fin 32 → Nat) (k : Nat) : Option Nat :=
  if k < 32 ∧ A.getLsbD k then some (val (Fin.ofNat 32 k)) else none

/-- The root of a lane's tile and the exceptions of its nodes. -/
def tileRoot (op : Nat → Nat → Nat × Exc) (t : TileCode) (A : Mask) (val : Fin 32 → Nat) (L : Fin 32) : Nat × Exc :=
  (treeVal op (laneVal A val) t.code (tileBase t L)).getD (0, Exc.none)

/-- A lane's scan value with the exceptions that belong to it: those of its tile's nodes and of its own prefix (R414). -/
def scanLane (excl : Bool) (op : RedOp) (t : TileCode) (A : Mask) (val : Fin 32 → Nat) (L : Fin 32) : Nat × Exc :=
  let n := L.val - tileBase t L + bit (!excl)
  let p := (prefixVal (redOp op) (laneVal A val) (t.code + 1) (tileBase t L) n none).getD (redIdentity op, Exc.none)
  (p.1, p.2.or (tileRoot (redOp op) t A val L).2)

/-- VRED: the root of its tile to every lane (R414). -/
def execVred (m : MReg) (op : RedOp) (a : VReg) (d : VReg) (mk : Bool) (s : State) : Host.Outcome State Fault Refusal :=
  issue (.vred m op a d mk) s fun x =>
    x.fpLanes false d (x.under m) fun L => tileRoot (redOp op) x.wv.tile (x.under m) (x.lane false a) L

/-- VSCAN, inclusive or exclusive (R414). -/
def execVscan (excl : Bool) (m : MReg) (op : RedOp) (a : VReg) (d : VReg) (mk : Bool)
    (s : State) : Host.Outcome State Fault Refusal :=
  issue (.vscan excl m op a d mk) s fun x =>
    x.fpLanes false d (x.under m) fun L => scanLane excl op x.wv.tile (x.under m) (x.lane false a) L

/-- What SMXU gives a lane: m′, l′, c, p and the exceptions that belong to the lane (R243, R395). `A` holds the lanes that
take part. -/
def smxuLane (t : TileCode) (A : Mask) (m l xs : Fin 32 → Nat) (L : Fin 32) : (Nat × Nat × Nat × Nat) × Exc :=
  let mx := tileRoot (fpBin fp32 .rne .max) t A xs L
  let one := fun (K : Fin 32) => smxuFirst (m K) (xs K) mx.1
  let sum := tileRoot (fpBin fp32 .rne .add) t A (fun K => (one K).2.2.1) L
  let r := one L
  let q := smxuSecond r.1 (l L) r.2.1 sum.1
  ((r.1, q.1, r.2.1, r.2.2.1), ((mx.2.or sum.2).or r.2.2.2).or q.2)

/-- SMXU: one online softmax step of each tile (R243, R395). -/
def execSmxu (m : MReg) (b : VReg) (a : VReg) (d : VReg) (mk : Bool) (s : State) : Host.Outcome State Fault Refusal :=
  issue (.smxu m b a d mk) s fun x =>
    let A := x.under m
    let r := fun (L : Fin 32) => smxuLane x.wv.tile A (x.lane false d) (x.lane false (vNext d 1)) (x.lane false a) L
    x.fpEnd A (fun L => (r L).2) fun y ok =>
      (((y.setLane false d ok fun L => (r L).1.1).setLane false (vNext d 1) ok fun L => (r L).1.2.1).setLane false
        (vNext d 2) ok fun L => (r L).1.2.2.1).setLane false b ok fun L => (r L).1.2.2.2

/-- SMXF: the reciprocal of l, correctly rounded (R243, R395). -/
def execSmxf (m : MReg) (a : VReg) (d : VReg) (mk : Bool) (s : State) : Host.Outcome State Fault Refusal :=
  issue (.smxf m a d mk) s fun x => x.fpLanes false d (x.under m) fun L => fpFn fp32 .rcp (x.lane false (vNext a 1) L)

end Sys2Proof.Machine
end

