-- ==== Sys2Proof/Machine/Window.lean ====
section
/-! DEFINITION. The module register window (R302): registers without a row of their own, SAMPCTL (R309) and CNTSEL (R306), and
samples (R308). -/

namespace Sys2Proof.Machine

/-! ## REGISTER_WRITE (R302) -/

/-- A doubleword of a debug block written (Table 15.7); ATTACH only in a context created debuggable (R312). -/
def Context.writeDebug (c : Context) (off : Nat) (v : W64) : Context :=
  match off with
  | 0 => if c.debuggable then { c with dbg := { c.dbg with attach := v.getLsbD 0 } } else c
  | 8 => { c with dbg := { c.dbg with team := v.setWidth 32, die := BitVec.ofNat 2 (field v.toNat 32 2) } }
  | 32 => { c with dbg := { c.dbg with trace := traceField v } }
  | 40 => { c with dbg := { c.dbg with dump := traceField v } }
  | 48 => { c with dbg := { c.dbg with swapObj := v.setWidth 24 } }
  | _ => c

/-- A doubleword of a watch register written (R315). -/
def Watch.setHalf (w : Watch) (high : Bool) (v : W64) : Watch :=
  if high then { w with len8 := BitVec.ofNat 8 (field v.toNat 40 8), offset8 := BitVec.ofNat 37 (field v.toNat 3 37) }
  else
    { w with en := v.getLsbD 27, atomic := v.getLsbD 26, write := v.getLsbD 25, read := v.getLsbD 24
             obj := v.setWidth 24 }

/-- A value that the window lets the host change for later launches and whose offset the manual does not give (R42, R289): at the model's
own offsets 0x100000 + 32c, past the window, TVEC, at +8 PDEAD, at +16 the launch weight (log 71). -/
def Context.writeLaunch (c : Context) (off : Nat) (v : W64) : Context :=
  match off with
  | 0 => { c with tvecObj := BitVec.ofNat 24 (field v.toNat 40 24), tvecEntry := BitVec.ofNat 34 (field v.toNat 6 34) }
  | 8 => { c with pdead := v.setWidth 32 }
  | 16 => { c with weight := v.toNat % 256 }
  | _ => c

/-- REGISTER_WRITE: a doubleword of the window that has no row of its own updates its writable fields; an unassigned offset is
ignored, and so is every write before PHASE 2 (R27, R302). -/
def execRegisterWrite (offset : Nat) (value : BitVec 64) (s : State) : Host.Outcome State Fault Refusal :=
  if s.phase ≠ .running ∨ offset % 8 ≠ 0 then .next s
  else if 0x4000 ≤ offset ∧ offset < 0x4800 then
    let c := (offset - 0x4000) / 32
    if offset % 32 = 8 then .next (s.setCtx c { s.ctx c with imgObj := value.setWidth 24 }) else .next s
  else if 0x5000 ≤ offset ∧ offset < 0x6000 then
    let c := (offset - 0x5000) / 64
    .next (s.setCtx c ((s.ctx c).writeDebug (offset % 64) value))
  else if 0x6000 ≤ offset ∧ offset < 0xA000 then
    let c := (offset - 0x6000) / 256
    let n : Fin 16 := Fin.ofNat 16 (offset % 256 / 16)
    let x := s.ctx c
    .next (s.setCtx c { x with watch := x.watch.set n (x.watch[n].setHalf (offset % 16 == 8) value) })
  else if 0x100000 ≤ offset ∧ offset < 0x100800 then
    let c := (offset - 0x100000) / 32
    .next (s.setCtx c ((s.ctx c).writeLaunch (offset % 32) value))
  else .next s

/-! ## Reading the window (R302) -/

/-- PHASE as BOOTSTAT codes it (Table 1.6). -/
def Phase.code : Phase → Nat
  | .reset => 0
  | .verifying => 1
  | .running => 2
  | .failed => 3

/-- BOOTSTAT (Table 1.6). -/
def State.bootstat (s : State) : Nat := s.phase.code + s.fail.toNat * 2 ^ 8 + s.cfgver.toNat * 2 ^ 16

/-- STATE of CTXSTAT (Table 14.11). -/
def CtxState.code : CtxState → Nat
  | .none => 0
  | .running => 1
  | .saving => 2
  | .saved => 3
  | .restoring => 4

/-- STATE of a debug block (Table 15.7). -/
def DebugState.code : DebugState → Nat
  | .none => 0
  | .stopping => 1
  | .stopped => 2
  | .resuming => 3

/-- A doubleword of a context control block as read; CMD is write-only and reads zero (Table 14.11). -/
def Context.readControl (c : Context) (off : Nat) : Nat :=
  match off with
  | 8 => c.imgObj.toNat
  | 16 => c.state.code + c.fail.toNat * 2 ^ 8 + c.forcedW.toNat * 2 ^ 32
  | 24 => c.saveCtr.toNat
  | _ => 0

/-- A doubleword of a debug block as read; CMD reads zero (Table 15.7). -/
def Context.readDebug (c : Context) (off : Nat) : Nat :=
  let x := c.dbg
  match off with
  | 0 => bit (c.debuggable && x.attach)
  | 8 => x.team.toNat + x.die.toNat * 2 ^ 32
  | 24 => x.state.code + bit x.fail * 2 ^ 4 + x.cause.toNat * 2 ^ 8 + x.ord.toNat * 2 ^ 16 + x.skid.toNat * 2 ^ 32
  | 32 => x.trace.toNat
  | 40 => x.dump.toNat
  | 48 => x.swapObj.toNat
  | _ => 0

/-- A doubleword of a watch register as read (R315). -/
def Watch.half (w : Watch) (high : Bool) : Nat :=
  if high then w.len8.toNat * 2 ^ 40 + w.offset8.toNat * 2 ^ 3
  else w.obj.toNat + bit w.read * 2 ^ 24 + bit w.write * 2 ^ 25 + bit w.atomic * 2 ^ 26 + bit w.en * 2 ^ 27

/-- Sector pointers of a die's tags that satisfy a condition. -/
def L2.pointers (l : L2) (p : SectorPtr → Bool) : Nat := l.tags.foldl (fun n t => n + (t.ptr.toList.filter p).length) 0

/-- A sum of Table 6.4 over the slices of a die, in table order (R141). -/
def L2.sum (l : L2) : Nat → Nat
  | 0 => l.pointers fun p => p != .none
  | 1 => l.pointers fun p => p == .zero
  | 2 => (List.range 24).foldl (fun n sl => n + l.used sl) 0
  | 3 => l.share.toNat
  | 4 => l.collide.toNat
  | 5 => l.saturate.toNat
  | 6 => l.unshare.toNat
  | _ => 0

/-- A counter as read: one whose selector is enabled for an L2 sum shows that sum (R306; log 70). -/
def State.counter (s : State) (die : Fin 4) (core : Nat) (j : Fin 8) : Nat :=
  let c := s.core die core
  let src := c.cntsel[j].src.toNat
  if c.cntsel[j].en ∧ 0x40 ≤ src ∧ src ≤ 0x46 then s.dies[die].l2.sum (src - 0x40) % 2 ^ 48 else c.counters[j].toNat

/-- A selector as read (Table 15.3). -/
def CntSel.word (c : CntSel) : Nat := c.src.toNat + bit c.own * 2 ^ 16 + c.ctx.toNat * 2 ^ 17 + bit c.en * 2 ^ 23

/-- A doubleword per counter of the module: die, core and counter at an offset of the two areas (Table 15.2). -/
def counterAt (off : Nat) (f : Fin 4 → Nat → Fin 8 → Nat) : Nat :=
  f (Fin.ofNat 4 (off / 0x2400)) (off % 0x2400 / 64) (Fin.ofNat 8 (off % 64 / 8))

/-- What a read of the register window at an aligned offset returns (Table 15.2): zero at an unassigned offset, and for write-only fields
(R8), TEAMKILL, CMD, REVOKE and REPLAY among them. A read changes nothing. -/
def State.windowRead (s : State) (offset : Nat) : Nat :=
  if offset = 0x10 then s.bootstat
  else if offset = 0x20 then s.module.toNat + bit s.joined * 2 ^ 31
  else if 0x2000 ≤ offset ∧ offset < 0x2400 ∧ offset % 16 = 0 then
    let c := s.ctx ((offset - 0x2000) / 16)
    c.oinvObj.toNat + bit c.busy * 2 ^ 63
  else if 0x4000 ≤ offset ∧ offset < 0x4800 then (s.ctx ((offset - 0x4000) / 32)).readControl (offset % 32)
  else if 0x5000 ≤ offset ∧ offset < 0x6000 then (s.ctx ((offset - 0x5000) / 64)).readDebug (offset % 64)
  else if 0x6000 ≤ offset ∧ offset < 0xA000 then
    ((s.ctx ((offset - 0x6000) / 256)).watch[Fin.ofNat 16 (offset % 256 / 16)]).half (offset % 16 == 8)
  else if 0x10000 ≤ offset ∧ offset < 0x19000 then counterAt (offset - 0x10000) s.counter
  else if 0x20000 ≤ offset ∧ offset < 0x29000 then
    counterAt (offset - 0x20000) fun d n j => ((s.core d n).cntsel[j]).word
  else if 0x30000 ≤ offset ∧ offset < 0x30100 then
    s.dies[Fin.ofNat 4 ((offset - 0x30000) / 64)].l2.sum (offset % 64 / 8)
  else if offset = 0x31000 then s.samp.period.toNat + bit s.samp.en * 2 ^ 5
  else 0

/-! ## SAMPCTL_WRITE and CNTSEL_WRITE -/

/-- SAMPCTL_WRITE: ignored whole where PERIOD lies outside 10 to 24 (R309). -/
def execSampctlWrite (value : BitVec 64) (s : State) : Host.Outcome State Fault Refusal :=
  let p := field value.toNat 0 5
  if s.phase ≠ .running ∨ p < 10 ∨ 24 < p then .next s
  else .next { s with samp := ⟨value.getLsbD 5, BitVec.ofNat 5 p⟩ }

/-- CNTSEL_WRITE: a window write of a selector; one of an L2 sum with OWN = 1 is ignored whole (R306). -/
def execCntselWrite (die : Fin 4) (core : Nat) (j : Fin 8) (value : BitVec 64) (s : State) :
    Host.Outcome State Fault Refusal :=
  let src := field value.toNat 0 8
  if s.phase ≠ .running ∨ 144 ≤ core ∨ (0x40 ≤ src ∧ src ≤ 0x46 ∧ value.getLsbD 16) then .next s
  else
    let c := s.core die core
    let sel : CntSel := ⟨value.getLsbD 23, BitVec.ofNat 6 (field value.toNat 17 6), value.getLsbD 16, BitVec.ofNat 8 src⟩
    .next (s.setCore { c with cntsel := c.cntsel.set j sel })

/-! ## PC_SAMPLE (R308) -/

/-- The waves resident on a quarter of a core, with their teams. -/
def State.quarterWaves (s : State) (die : Fin 4) (core : Nat) (q : Fin 4) : List (Team × Wave) :=
  (s.teams.map fun t =>
    if t.die == die then
      (t.waves.filter fun w => w.core == core && w.quarter == q && w.status == .running).map fun w => (t, w)
    else []).flatten

/-- The reason of Table 15.5 for a wait. -/
def Wait.reason : Wait → Nat
  | .bar _ | .arrive => 11
  | .waita _ _ _ => 12
  | .ewait _ => 13
  | .stga => 14
  | .fence => 15
  | .stgw _ _ | .records => 3
  | .admission => 8
  | .quorumAnswer _ => 21
  | .oinv => 22
  | .fpflags => 23
  | .tile _ => 7

/-- The wave may issue from some split: it runs, is not parked, yielded or at a marker, no split waits for service and none
suspends fetch (R44, R50, R53). -/
def Wave.mayIssue (w : Wave) : Bool :=
  w.status == .running && w.park.isNone && !w.yielded && !w.yieldsNow && !w.marker && w.eligible.isNone

/-- A split is ready (R44): in service mode only the one served (R282), unless its handler waits (R380). -/
def Wave.splitReady (w : Wave) (slot : Fin 4) : Bool :=
  w.mayIssue &&
    (match w.svc with
     | some j => j == slot && (w.splits[slot]).isSome && w.svcWait.isNone
     | none =>
       (match w.splits[slot] with
        | some sp => sp.status == .ready
        | none => false) &&
       !(w.liveSplits.any fun p => match p.2.waitsFor with | some k => k.suspends | none => false))

/-- The slot whose turn it is among the ready splits that no debug stop bars (R44, R314). -/
def Team.pick (t : Team) (w : Wave) : Option (Fin 4) :=
  ((List.finRange 4).map fun k => w.turn + k).find? fun j => w.splitReady j && !t.bars w j

/-- A word is that of an instruction for the matrix sequencer (R230). -/
def needsSequencer : Instr → Bool
  | .mma _ _ _ _ _ _ _ | .mmas _ _ _ _ _ _ _ | .mmac _ _ _ _ _ _ _ | .mmax _ _ _ _ _ _ _ => true
  | .aclr _ _ | .ald _ _ _ _ _ | .ast _ _ _ _ _ => true
  | _ => false

/-- The unit that a new instruction goes to is the matrix sequencer, and it is busy (R44, R230). -/
def State.unitBusy (s : State) (c : Cursor) (i : Instr) : Bool :=
  needsSequencer i && (s.waveAt c).any fun p => s.sequencerBusy p.1 p.2

/-- The stall reason of a wave's split, where the state shows one (Table 15.5). A split in its handler stalls like one that runs. -/
def State.stalledBy (s : State) (t : Team) (w : Wave) (slot : Fin 4) (sp : Split) : Option Nat :=
  let served := w.svc == some slot
  if w.park = some .service then some 28
  else if w.park.isSome then some 18
  else if w.forced then some 27
  else if w.yielded || w.yieldsNow then some 24
  else if w.marker then some 1
  else if w.svc.any fun j => j != slot then some 19
  else if !served && ((s.serviceDue t w).isSome || sp.status = .trapped) then some 28
  else if t.bars w slot then some 25
  else
    match w.waitOf slot, sp.status with
    | some k, _ => some k.reason
    | none, .atJoin => some 16
    | none, .parked => if served then none else some 17
    | none, .held => some 25
    | none, .ready | none, .trapped | none, .waiting _ =>
      if served then none
      else if w.liveSplits.any fun p => match p.2.waitsFor with | some k => k.suspends | none => false then some 3 else none

/-- Another wave of the quarter could issue. -/
def State.otherWave (s : State) (t : Team) (w : Wave) : Bool :=
  (s.quarterWaves t.die w.core w.quarter).any fun p =>
    !(p.1.serial == t.serial && p.2.number == w.number) && (p.1.pick p.2).isSome

/-- Another split of the wave could issue. -/
def Team.otherSplit (t : Team) (w : Wave) (slot : Fin 4) : Bool :=
  (List.finRange 4).any fun j => j != slot && w.splitReady j && !t.bars w j

/-- What may be sampled of a split that the state shows no stall of: that it issued, or a busy fetch or unit, or that another split or
another wave was chosen, where there is one. `some_`: what the core's timing says of another split's issue. -/
def sampled (split wave some_ : Bool) : List (Bool × Nat) :=
  [(true, 0)] ++ ([2, 4, 5, 6, 8].map fun r => (split && some_, r)) ++ (if wave then [(false, 9)] else []) ++
    if split then [(true, 10)] else []

/-- Whether a wave issued in the sampled cycle, and the reason of its lowest split: what the state shows, else one of those that the state
allows, which the manual leaves to the core's timing (Table 15.5). `blocked`: the split's instruction needs a busy sequencer. -/
def State.sampleReason (s : State) (t : Team) (w : Wave) (slot : Fin 4) (sp : Split) (blocked : Bool) : Bool × Nat :=
  let f := Config.stallReason s.free
  let split := t.otherSplit w slot
  match s.stalledBy t w slot sp, blocked with
  | some r, _ => (split && f % 2 == 1, r)
  | none, true => (split && f % 2 == 1, 7)
  | none, false =>
    let rs := sampled split (s.otherWave t w) (f % 2 == 1)
    rs.getD (f / 2 % rs.length) (true, 0)

/-- The instruction that a split of a wave would issue needs a busy sequencer. -/
def State.nextBusy (s : State) (t : Team) (w : Wave) (slot : Fin 4) : Bool :=
  match s.teams.findIdx? fun u => u.die == t.die && u.serial == t.serial, t.waves.findIdx? fun v => v.number == w.number with
  | some i, some j => (s.fetchAt ⟨i, j, slot⟩).any fun p => s.unitBusy ⟨i, j, slot⟩ p.2
  | _, _ => false

/-- PC_SAMPLE: a quarter samples its next resident wave in ascending slot order and writes a record to that wave's trace object
(R308, R310). A handler has no safe points: a split in service mode is sampled without one (log 72). -/
def execPcSample (die : Fin 4) (core : Nat) (quarter : Fin 4) (s : State) : Host.Outcome State Fault Refusal :=
  if !s.samp.en then .next s
  else
    let c := s.core die core
    let ws := s.quarterWaves die core quarter
    let next := ((List.finRange 16).map fun k => c.samplePos[quarter] + k).findSome? fun k =>
      ws.find? fun p => p.2.wslot == k
    match next with
    | none => .next s
    | some (t, w) =>
      let s := s.setCore { c with samplePos := c.samplePos.set quarter (w.wslot + 1) }
      let rec_ :=
        match w.liveSplits.head? with
        | none => traceBytes 1 0 false quarter.val 0xFFFF t.serial.toNat (widOf die w) 0 die s.dies[die].ticks 0
        | some (slot, sp) =>
          let served := w.svc == some slot
          let blocked := !served && s.nextBusy t w slot
          let r := s.sampleReason t w slot sp blocked
          let q := if served then none else s.safeBefore t sp.pc
          let ordinal := match q with | some q => q.ord | none => 0xFFFF
          let distance := match q with | some q => (sp.pc.toNat - q.pc) / 2 | none => 0
          traceBytes 1 r.2 r.1 quarter.val ordinal t.serial.toNat (widOf die w) distance die s.dies[die].ticks 0
      .next (s.trace t.ctx w.traceobj die core rec_)

end Sys2Proof.Machine
end

