-- ==== Sys2Proof/Machine/Dispatch.lean ====
section
/-! DEFINITION. One arm per constructor of `Instr`: its meaning. -/

namespace Sys2Proof.Machine

/-- What an instruction or a step does to the module. -/
def exec (i : Instr) (s : State) : Host.Outcome State Fault Refusal :=
  match i with
  | .vadd t m b a d mk => Sys2Proof.Machine.execVadd t m b a d mk s
  | .vsub t m b a d mk => Sys2Proof.Machine.execVsub t m b a d mk s
  | .vmul t m b a d mk => Sys2Proof.Machine.execVmul t m b a d mk s
  | .vmin t m b a d mk => Sys2Proof.Machine.execVmin t m b a d mk s
  | .vmax t m b a d mk => Sys2Proof.Machine.execVmax t m b a d mk s
  | .vshl t m b a d mk => Sys2Proof.Machine.execVshl t m b a d mk s
  | .vshr t m b a d mk => Sys2Proof.Machine.execVshr t m b a d mk s
  | .vand m b a d mk => Sys2Proof.Machine.execVand m b a d mk s
  | .vor m b a d mk => Sys2Proof.Machine.execVor m b a d mk s
  | .vxor m b a d mk => Sys2Proof.Machine.execVxor m b a d mk s
  | .vcmp t m b a c md mk => Sys2Proof.Machine.execVcmp t m b a c md mk s
  | .vsel m b a d mk => Sys2Proof.Machine.execVsel m b a d mk s
  | .vmad c b a d mk => Sys2Proof.Machine.execVmad c b a d mk s
  | .vaddImm imm a d mk => Sys2Proof.Machine.execVaddImm imm a d mk s
  | .vmov m a d mk => Sys2Proof.Machine.execVmov m a d mk s
  | .vmovBcast m a d mk => Sys2Proof.Machine.execVmovBcast m a d mk s
  | .vmovMask m a d mk => Sys2Proof.Machine.execVmovMask m a d mk s
  | .vidx m fn d mk => Sys2Proof.Machine.execVidx m fn d mk s
  | .vbit t m fn a d mk => Sys2Proof.Machine.execVbit t m fn a d mk s
  | .vshfl op m b a d mk => Sys2Proof.Machine.execVshfl op m b a d mk s
  | .vvote m op a d mk => Sys2Proof.Machine.execVvote m op a d mk s
  | .vred m op a d mk => Sys2Proof.Machine.execVred m op a d mk s
  | .vscan excl m op a d mk => Sys2Proof.Machine.execVscan excl m op a d mk s
  | .vfadd t m b a d mk => Sys2Proof.Machine.execVfadd t m b a d mk s
  | .vfsub t m b a d mk => Sys2Proof.Machine.execVfsub t m b a d mk s
  | .vfmul t m b a d mk => Sys2Proof.Machine.execVfmul t m b a d mk s
  | .vfmin t m b a d mk => Sys2Proof.Machine.execVfmin t m b a d mk s
  | .vfmax t m b a d mk => Sys2Proof.Machine.execVfmax t m b a d mk s
  | .vfcmp t m b a c md mk => Sys2Proof.Machine.execVfcmp t m b a c md mk s
  | .vfma c b a d mk => Sys2Proof.Machine.execVfma c b a d mk s
  | .vfmaF64 c b a d mk => Sys2Proof.Machine.execVfmaF64 c b a d mk s
  | .vsfn t m fn a d mk => Sys2Proof.Machine.execVsfn t m fn a d mk s
  | .vcvt rnd m dst src a d mk => Sys2Proof.Machine.execVcvt rnd m dst src a d mk s
  | .smxu m b a d mk => Sys2Proof.Machine.execSmxu m b a d mk s
  | .smxf m a d mk => Sys2Proof.Machine.execSmxf m a d mk s
  | .cmprs pat b a d mk => Sys2Proof.Machine.execCmprs pat b a d mk s
  | .sadd b a d mk => Sys2Proof.Machine.execSadd b a d mk s
  | .ssub b a d mk => Sys2Proof.Machine.execSsub b a d mk s
  | .smul b a d mk => Sys2Proof.Machine.execSmul b a d mk s
  | .smulh nat b a d mk => Sys2Proof.Machine.execSmulh nat b a d mk s
  | .sdiv nat b a d mk => Sys2Proof.Machine.execSdiv nat b a d mk s
  | .srem nat b a d mk => Sys2Proof.Machine.execSrem nat b a d mk s
  | .sand b a d mk => Sys2Proof.Machine.execSand b a d mk s
  | .sor b a d mk => Sys2Proof.Machine.execSor b a d mk s
  | .sxor b a d mk => Sys2Proof.Machine.execSxor b a d mk s
  | .sshl b a d mk => Sys2Proof.Machine.execSshl b a d mk s
  | .sshr arith b a d mk => Sys2Proof.Machine.execSshr arith b a d mk s
  | .smin nat b a d mk => Sys2Proof.Machine.execSmin nat b a d mk s
  | .smax nat b a d mk => Sys2Proof.Machine.execSmax nat b a d mk s
  | .sbit fn a d mk => Sys2Proof.Machine.execSbit fn a d mk s
  | .smov a d mk => Sys2Proof.Machine.execSmov a d mk s
  | .scmp nat b a mk => Sys2Proof.Machine.execScmp nat b a mk s
  | .ssel c b a d mk => Sys2Proof.Machine.execSsel c b a d mk s
  | .saddImm imm a d mk => Sys2Proof.Machine.execSaddImm imm a d mk s
  | .sandImm imm a d mk => Sys2Proof.Machine.execSandImm imm a d mk s
  | .sorImm imm a d mk => Sys2Proof.Machine.execSorImm imm a d mk s
  | .sxorImm imm a d mk => Sys2Proof.Machine.execSxorImm imm a d mk s
  | .scmpImm imm a nat mk => Sys2Proof.Machine.execScmpImm imm a nat mk s
  | .sli imm h d mk => Sys2Proof.Machine.execSli imm h d mk s
  | .smovV lane a d mk => Sys2Proof.Machine.execSmovV lane a d mk s
  | .smovM a d mk => Sys2Proof.Machine.execSmovM a d mk s
  | .smovCcRead d mk => Sys2Proof.Machine.execSmovCcRead d mk s
  | .smovCcWrite a mk => Sys2Proof.Machine.execSmovCcWrite a mk s
  | .mlog op b a d mk => Sys2Proof.Machine.execMlog op b a d mk s
  | .mlogNot a d mk => Sys2Proof.Machine.execMlogNot a d mk s
  | .mcnt fn a d mk => Sys2Proof.Machine.execMcnt fn a d mk s
  | .mset a md mk => Sys2Proof.Machine.execMset a md mk s
  | .msetAll md mk => Sys2Proof.Machine.execMsetAll md mk s
  | .msetNone md mk => Sys2Proof.Machine.execMsetNone md mk s
  | .msetFirst md mk => Sys2Proof.Machine.execMsetFirst md mk s
  | .br off c mk => Sys2Proof.Machine.execBr off c mk s
  | .bmz off z m mk => Sys2Proof.Machine.execBmz off z m mk s
  | .call off mk => Sys2Proof.Machine.execCall off mk s
  | .fork off m mk => Sys2Proof.Machine.execFork off m mk s
  | .nop mk => Sys2Proof.Machine.execNop mk s
  | .join mk => Sys2Proof.Machine.execJoin mk s
  | .exit mk => Sys2Proof.Machine.execExit mk s
  | .killpt mk => Sys2Proof.Machine.execKillpt mk s
  | .ret t mk => Sys2Proof.Machine.execRet t mk s
  | .yieldWave u lm mk => Sys2Proof.Machine.execYieldWave u lm mk s
  | .rep stride stepB stepA stepD count mk => Sys2Proof.Machine.execRep stride stepB stepA stepD count mk s
  | .ld sc o w xs x k d mk => Sys2Proof.Machine.execLd sc o w xs x k d mk s
  | .ldScalar sc o w xs x k d mk => Sys2Proof.Machine.execLdScalar sc o w xs x k d mk s
  | .st sc o w xs x k d mk => Sys2Proof.Machine.execSt sc o w xs x k d mk s
  | .stScalar sc o w xs x k d mk => Sys2Proof.Machine.execStScalar sc o w xs x k d mk s
  | .lds off w xs x d mk => Sys2Proof.Machine.execLds off w xs x d mk s
  | .sts off w xs x d mk => Sys2Proof.Machine.execSts off w xs x d mk s
  | .ldp off w scalar p d mk => Sys2Proof.Machine.execLdp off w scalar p d mk s
  | .atom sc wide op x k d mk => Sys2Proof.Machine.execAtom sc wide op x k d mk s
  | .atomAr sc wide op x k d mk => Sys2Proof.Machine.execAtomAr sc wide op x k d mk s
  | .atoms wide op x d mk => Sys2Proof.Machine.execAtoms wide op x d mk s
  | .fence sc kind mk => Sys2Proof.Machine.execFence sc kind mk s
  | .waita sc eq b a k mk => Sys2Proof.Machine.execWaita sc eq b a k mk s
  | .cmake b a kd mk => Sys2Proof.Machine.execCmake b a kd mk s
  | .cnarrow b a ks kd mk => Sys2Proof.Machine.execCnarrow b a ks kd mk s
  | .cload a ks kd mk => Sys2Proof.Machine.execCload a ks kd mk s
  | .cstore a ks kd mk => Sys2Proof.Machine.execCstore a ks kd mk s
  | .cinfo sel a ks mk => Sys2Proof.Machine.execCinfo sel a ks mk s
  | .cpy t p ks kd mk => Sys2Proof.Machine.execCpy t p ks kd mk s
  | .gath t p ks mk => Sys2Proof.Machine.execGath t p ks mk s
  | .bld t p ks mk => Sys2Proof.Machine.execBld t p ks mk s
  | .coll t p ks kd mk => Sys2Proof.Machine.execColl t p ks kd mk s
  | .ewait t mk => Sys2Proof.Machine.execEwait t mk s
  | .mma ac p fw sb rg t mk => Sys2Proof.Machine.execMma ac p fw sb rg t mk s
  | .mmas ac p fw sb rg t mk => Sys2Proof.Machine.execMmas ac p fw sb rg t mk s
  | .mmac ac p fw sb rg t mk => Sys2Proof.Machine.execMmac ac p fw sb rg t mk s
  | .mmax ac p fw sb rg t mk => Sys2Proof.Machine.execMmax ac p fw sb rg t mk s
  | .aclr t mk => Sys2Proof.Machine.execAclr t mk s
  | .ald fmt v rg t mk => Sys2Proof.Machine.execAld fmt v rg t mk s
  | .ast fmt v rg t mk => Sys2Proof.Machine.execAst fmt v rg t mk s
  | .stga ph sl rg mk => Sys2Proof.Machine.execStga ph sl rg mk s
  | .stgw ph sl rg mk => Sys2Proof.Machine.execStgw ph sl rg mk s
  | .post mode y v k mk => Sys2Proof.Machine.execPost mode y v k mk s
  | .resv y v k mk => Sys2Proof.Machine.execResv y v k mk s
  | .publ v k mk => Sys2Proof.Machine.execPubl v k mk s
  | .autld b a k mk => Sys2Proof.Machine.execAutld b a k mk s
  | .autctl op b a mk => Sys2Proof.Machine.execAutctl op b a mk s
  | .autq q b a mk => Sys2Proof.Machine.execAutq q b a mk s
  | .qopen a k mk => Sys2Proof.Machine.execQopen a k mk s
  | .qarr b a mk => Sys2Proof.Machine.execQarr b a mk s
  | .qstat b a mk => Sys2Proof.Machine.execQstat b a mk s
  | .qscale b a mk => Sys2Proof.Machine.execQscale b a mk s
  | .bar cnt sc id mk => Sys2Proof.Machine.execBar cnt sc id mk s
  | .bara cnt sc id mk => Sys2Proof.Machine.execBara cnt sc id mk s
  | .barw sc id mk => Sys2Proof.Machine.execBarw sc id mk s
  | .part t mk => Sys2Proof.Machine.execPart t mk s
  | .trap code mk => Sys2Proof.Machine.execTrap code mk s
  | .rett mk => Sys2Proof.Machine.execRett mk s
  | .mfsr n d mk => Sys2Proof.Machine.execMfsr n d mk s
  | .mtsr n d mk => Sys2Proof.Machine.execMtsr n d mk s
  | .oinv d mk => Sys2Proof.Machine.execOinv d mk s
  | .bkpt code mk => Sys2Proof.Machine.execBkpt code mk s
  | .cntrd n d mk => Sys2Proof.Machine.execCntrd n d mk s
  | .vaddH b d mk => Sys2Proof.Machine.execVaddH b d mk s
  | .vsubH b d mk => Sys2Proof.Machine.execVsubH b d mk s
  | .vmulH b d mk => Sys2Proof.Machine.execVmulH b d mk s
  | .vandH b d mk => Sys2Proof.Machine.execVandH b d mk s
  | .vorH b d mk => Sys2Proof.Machine.execVorH b d mk s
  | .vxorH b d mk => Sys2Proof.Machine.execVxorH b d mk s
  | .vshlH b d mk => Sys2Proof.Machine.execVshlH b d mk s
  | .vshrH b d mk => Sys2Proof.Machine.execVshrH b d mk s
  | .vminH b d mk => Sys2Proof.Machine.execVminH b d mk s
  | .vmaxH b d mk => Sys2Proof.Machine.execVmaxH b d mk s
  | .vfaddH b d mk => Sys2Proof.Machine.execVfaddH b d mk s
  | .vfsubH b d mk => Sys2Proof.Machine.execVfsubH b d mk s
  | .vfmulH b d mk => Sys2Proof.Machine.execVfmulH b d mk s
  | .vfmaxH b d mk => Sys2Proof.Machine.execVfmaxH b d mk s
  | .vfminH b d mk => Sys2Proof.Machine.execVfminH b d mk s
  | .vmovH b d mk => Sys2Proof.Machine.execVmovH b d mk s
  | .moduleReset => Sys2Proof.Machine.execModuleReset s
  | .hostTrafficBeforeRun => Sys2Proof.Machine.execHostTrafficBeforeRun s
  | .hostMemAccess pa op => Sys2Proof.Machine.execHostMemAccess pa op s
  | .hostHeadStore block value => Sys2Proof.Machine.execHostHeadStore block value s
  | .hostTailCas block compare value => Sys2Proof.Machine.execHostTailCas block compare value s
  | .oinvreq ctx revoke obj => Sys2Proof.Machine.execOinvreq ctx revoke obj s
  | .shootDownAck ctx => Sys2Proof.Machine.execShootDownAck ctx s
  | .replay ctx obj => Sys2Proof.Machine.execReplay ctx obj s
  | .teamkill ctx die team => Sys2Proof.Machine.execTeamkill ctx die team s
  | .contextSave ctx => Sys2Proof.Machine.execContextSave ctx s
  | .contextRestore ctx => Sys2Proof.Machine.execContextRestore ctx s
  | .contextTearDown ctx => Sys2Proof.Machine.execContextTearDown ctx s
  | .preemptRequest ctx die core => Sys2Proof.Machine.execPreemptRequest ctx die core s
  | .forcedSave team wave => Sys2Proof.Machine.execForcedSave team wave s
  | .saveImageWrite ctx => Sys2Proof.Machine.execSaveImageWrite ctx s
  | .debugStop ctx => Sys2Proof.Machine.execDebugStop ctx s
  | .debugStopComplete team => Sys2Proof.Machine.execDebugStopComplete team s
  | .debugResume ctx intact edits => Sys2Proof.Machine.execDebugResume ctx intact edits s
  | .debugDump ctx => Sys2Proof.Machine.execDebugDump ctx s
  | .sampctlWrite value => Sys2Proof.Machine.execSampctlWrite value s
  | .cntselWrite die core j value => Sys2Proof.Machine.execCntselWrite die core j value s
  | .registerWrite offset value => Sys2Proof.Machine.execRegisterWrite offset value s
  | .pcSample die core quarter => Sys2Proof.Machine.execPcSample die core quarter s
  | .droopEvent die quad => Sys2Proof.Machine.execDroopEvent die quad s
  | .droopRecovery die quad => Sys2Proof.Machine.execDroopRecovery die quad s
  | .podJoin module ctx peers => Sys2Proof.Machine.execPodJoin module ctx peers s
  | .podModuleLoss module => Sys2Proof.Machine.execPodModuleLoss module s
  | .softError die slice num => Sys2Proof.Machine.execSoftError die slice num s
  | .sectorFill die core ctx cap off => Sys2Proof.Machine.execSectorFill die core ctx cap off s
  | .sectorWriteback die core index evict => Sys2Proof.Machine.execSectorWriteback die core index evict s
  | .partialWrite pa dom bytes => Sys2Proof.Machine.execPartialWrite pa dom bytes s
  | .l2Eviction die slice => Sys2Proof.Machine.execL2Eviction die slice s
  | .tentativeStore team wave => Sys2Proof.Machine.execTentativeStore team wave s
  | .storeQueueDrain team wave => Sys2Proof.Machine.execStoreQueueDrain team wave s
  | .walkerFill die core ctx obj off mgen => Sys2Proof.Machine.execWalkerFill die core ctx obj off mgen s
  | .systemEventWrite die index => Sys2Proof.Machine.execSystemEventWrite die index s
  | .ingestionStep die ctx obj => Sys2Proof.Machine.execIngestionStep die ctx obj s
  | .timeout die ctx rod => Sys2Proof.Machine.execTimeout die ctx rod s
  | .launch die => Sys2Proof.Machine.execLaunch die s
  | .teamPlacement die => Sys2Proof.Machine.execTeamPlacement die s
  | .postRecordWrite die index => Sys2Proof.Machine.execPostRecordWrite die index s
  | .waveRetire team wave => Sys2Proof.Machine.execWaveRetire team wave s
  | .markerWaitComplete team wave => Sys2Proof.Machine.execMarkerWaitComplete team wave s
  | .serviceEntry team wave => Sys2Proof.Machine.execServiceEntry team wave s
  | .matrixPass die core bad1 bad2 follower => Sys2Proof.Machine.execMatrixPass die core bad1 bad2 follower s
  | .mmaxStep die core bad1 bad2 => Sys2Proof.Machine.execMmaxStep die core bad1 bad2 s
  | .accumulatorExecute die core => Sys2Proof.Machine.execAccumulatorExecute die core s
  | .engineAdmission team wave slot => Sys2Proof.Machine.execEngineAdmission team wave slot s
  | .engineCompletion die core index => Sys2Proof.Machine.execEngineCompletion die core index s
  | .engineFaultEnd die core index => Sys2Proof.Machine.execEngineFaultEnd die core index s
  | .collContribution part => Sys2Proof.Machine.execCollContribution part s
  | .collResultDelivery die core index => Sys2Proof.Machine.execCollResultDelivery die core index s
  | .quorumArrival team wave slot => Sys2Proof.Machine.execQuorumArrival team wave slot s
  | .quorumDeadline die num => Sys2Proof.Machine.execQuorumDeadline die num s
  | .killRequest ctx die team => Sys2Proof.Machine.execKillRequest ctx die team s
  | .codeObjectLoad ctx code => Sys2Proof.Machine.execCodeObjectLoad ctx code s
  | .unassignedEncoding => Sys2Proof.Machine.execUnassignedEncoding s
  | .fetchOutsideText => Sys2Proof.Machine.execFetchOutsideText s
  | .companionMemAccess pa op => Sys2Proof.Machine.execCompanionMemAccess pa op s
  | .walaroRemoteRequest ctx obj off gen op => Sys2Proof.Machine.execWalaroRemoteRequest ctx obj off gen op s
  | .contextCreation ctx spec => Sys2Proof.Machine.execContextCreation ctx spec s
  | .moduleFlashWrite slot image => Sys2Proof.Machine.execModuleFlashWrite slot image s
  | .hostLinkTraining width rate => Sys2Proof.Machine.execHostLinkTraining width rate s

end Sys2Proof.Machine
end

