-- ==== Sys2Proof/Machine/Schedule.lean ====
section
/-! DEFINITION. Which step the module takes next: a step asked for from outside, else one of the steps whose condition
holds (R424), among them the instruction each quarter would issue (R44, R45). -/

namespace Sys2Proof.Machine

/-- A wait that the split's own instruction ends; that for admission has a step of its own, and so has that for a Frame's answer, while
the team is bound as the member it arrived as (`bound`). -/
def Wait.polls (bound : Bool) : Wait → Bool
  | .admission => false
  | .quorumAnswer late => !bound && !late
  | .waita _ _ _ | .ewait _ | .arrive | .bar _ | .fence | .stga | .stgw _ _ | .oinv | .fpflags | .records | .tile _ => true

/-- A wait for the last check of an instruction that stands in the sequencer's queue: the check is made whatever the wave does
meanwhile, for its result is in flight until then (R53, R234). -/
def Wait.always : Wait → Bool
  | .tile _ => true
  | .waita _ _ _ | .ewait _ | .arrive | .bar _ | .fence | .stga | .stgw _ _ | .admission | .quorumAnswer _ | .oinv | .fpflags
  | .records => false

/-- A split that waits at its instruction and may try it again, also while its wave waits at a marker. -/
def State.splitPolls (s : State) (t : Team) (w : Wave) (slot : Fin 4) : Bool :=
  w.status == .running && (w.waitOf slot).any fun k =>
    k.polls (s.binding t).isSome &&
      (k.always || (w.park.isNone && !w.yielded && !w.yieldsNow && w.eligible.isNone && !t.bars w slot &&
        (w.svc.isNone || w.svc == some slot)))

/-- Every wave with its place: team index, wave index. -/
def State.allWaves (s : State) : List (Nat × Nat × Team × Wave) :=
  (s.teams.zipIdx.map fun t => t.1.waves.zipIdx.map fun w => (t.2, w.2, t.1, w.1)).flatten

/-- Wave `a` is chosen before wave `b` on one quarter (R44, R45). -/
def Wave.before (a b : Wave) : Bool :=
  let byR44 := b.prio.toNat < a.prio.toNat || (a.prio == b.prio && a.placed < b.placed)
  if 240 ≤ a.age then a.age > b.age || (a.age == b.age && byR44)
  else if 240 ≤ b.age then false
  else byR44

/-- Two waves share a quarter. -/
def sameQuarter (t : Team) (w : Wave) (t' : Team) (w' : Wave) : Bool :=
  t.die == t'.die && w.core == w'.core && w.quarter == w'.quarter

/-- The issues the quarters would make now, one for each quarter with a ready split, and every waiting split's try. -/
def State.issues (s : State) : List Move :=
  let all := s.allWaves
  let ready := all.filter fun p => (p.2.2.1.pick p.2.2.2).isSome
  let chosen := ready.filter fun p =>
    !(ready.any fun q => sameQuarter q.2.2.1 q.2.2.2 p.2.2.1 p.2.2.2 && q.2.2.2.before p.2.2.2)
  let now := chosen.filterMap fun p => (p.2.2.1.pick p.2.2.2).map fun j => Move.issue ⟨p.1, p.2.1, j⟩
  let polls := all.map fun p =>
    ((List.finRange 4).filter fun j => s.splitPolls p.2.2.1 p.2.2.2 j).map fun j => Move.issue ⟨p.1, p.2.1, j⟩
  now ++ polls.flatten

/-! ## Steps that no instruction takes -/

/-- The step of the sequencer of a core. Checksums that do not match come from outside. -/
def State.sequencerStep (s : State) (c : Core) : List Instr :=
  match s.seqHead c.die c.num with
  | none => []
  | some (q, _, _) =>
    if q.op < 3 then [.matrixPass c.die c.num false false (false, false)]
    else if q.op = 3 then [.mmaxStep c.die c.num false false]
    else [.accumulatorExecute c.die c.num]

/-- The steps that a command of a core may take. -/
def State.engineSteps (s : State) (c : Core) (e : EngineCmd) (i : Nat) : List Instr :=
  if (s.collEnds c.num e).isSome then [.collResultDelivery c.die c.num i]
  else if !s.mayRun c.die c.num e then []
  else if e.sub != 3 then [.engineCompletion c.die c.num i, .engineFaultEnd c.die c.num i]
  else if e.sent then [.collResultDelivery c.die c.num i, .engineFaultEnd c.die c.num i]
  else [.collContribution (.own c.die c.num i), .engineFaultEnd c.die c.num i]

/-- The steps of the cores, with the writeback of the least recently used dirty sector of each. -/
def State.coreSteps (s : State) : List Instr :=
  (s.cores.map fun c =>
    s.sequencerStep c ++ (c.engines.zipIdx.map fun e => s.engineSteps c e.1 e.2).flatten ++
      (match (c.l1.zipIdx.filter fun x => x.1.dirty).getLast? with
       | some x => [.sectorWriteback c.die c.num x.2 false]
       | none => [])).flatten

/-- The steps of one wave. -/
def State.waveSteps (s : State) (p : Nat × Nat × Team × Wave) : List Instr :=
  let t := p.2.2.1
  let w := p.2.2.2
  let on := fun (b : Bool) (i : Instr) => if b then [i] else []
  let run := w.status == .running
  let answers := w.liveSplits.filterMap fun x =>
    match x.2.waitsFor with
    | some (.quorumAnswer false) => some (Instr.quorumArrival p.1 p.2.1 x.1)
    | some .admission => if w.mayIssue && w.svc.isNone && !t.bars w x.1 then some (Instr.engineAdmission p.1 p.2.1 x.1) else none
    | _ => none
  on (run && s.markerDone t w) (.markerWaitComplete p.1 p.2.1) ++
    on (s.serviceDue t w).isSome (.serviceEntry p.1 p.2.1) ++ on (s.retireDue t w) (.waveRetire p.1 p.2.1) ++
    (match (if (s.owed t.die t.serial w.number.val).isEmpty then w.stores else []) with
     | [] => []
     | q :: _ => if q.member.isSome then [.tentativeStore p.1 p.2.1] else [.storeQueueDrain p.1 p.2.1]) ++
    answers ++ on (s.forcedDue t w) (.forcedSave p.1 p.2.1) ++
    on (run && s.requestDue t.ctx t.die w.core) (.preemptRequest t.ctx t.die w.core) ++
    on (run && s.samp.en) (.pcSample t.die w.core w.quarter)

/-- The steps of one die: its Frame, its dispatcher and the homes of streams. -/
def State.dieSteps (s : State) (d : Fin 4) : List Instr :=
  let x := s.dies[d]
  (x.quorums.filter (s.quorumDue d)).map (fun q => .quorumDeadline d q.num) ++
    (x.quorums.map fun q => (q.killing.filter fun k => s.killDue q.ctx (Fin.ofNat 4 k.2.1) k.2.2).map fun k =>
      Instr.killRequest q.ctx (Fin.ofNat 4 k.2.1) k.2.2).flatten ++
    (x.records.zipIdx.map fun r => if r.1.posted then Instr.postRecordWrite d r.2 else .systemEventWrite d r.2) ++
    ((x.attached.filter fun a => (s.ingestable d a.ctx a.obj).isSome).map fun a => .ingestionStep d a.ctx a.obj) ++
    ((x.rods.filter (s.timeoutDue d)).map fun r => .timeout d r.ctx r.number) ++
    (if x.accepted.isEmpty && s.refillDie.isNone then [] else [.launch d]) ++
    (if x.queue.isEmpty then [] else [.teamPlacement d]) ++
    (((List.range 24).filter fun sl => s.reserveLow d sl).map fun sl => .l2Eviction d sl)

/-- The steps of contexts and teams as a whole. -/
def State.contextSteps (s : State) : List Instr :=
  ((List.range 64).map fun c =>
    (if (s.ackDue c).isSome then [Instr.shootDownAck c] else []) ++
      (if s.saveReady c then [Instr.saveImageWrite c] else []) ++
      (if s.restoreDue c then [Instr.contextRestore c] else [])).flatten ++
    s.teams.zipIdx.filterMap fun t => if s.halted t.1 then some (.debugStopComplete t.2) else none

/-- The steps that may come next without being asked for from outside. -/
def State.enabled (s : State) : List Move :=
  s.issues ++ ((s.coreSteps ++ (s.allWaves.map s.waveSteps).flatten ++ ((List.finRange 4).map s.dieSteps).flatten ++
    s.contextSteps).map Move.event)

/-! ## Time -/

/-- What a selector counts in `n` cycles of its core: cycles, stretched cycles and cycles of marker wait (Table 15.4). `waves`:
context and marker wait of each wave that is resident. -/
def CntSel.cycles (x : CntSel) (stretched : Bool) (waves : List (Nat × Bool)) (n : Nat) : Nat :=
  let mine := waves.filter fun w => !x.own || w.1 == x.ctx.toNat
  if !x.en then 0
  else if x.src = 1 then (if x.own && mine.isEmpty then 0 else n)
  else if x.src = 9 then (if stretched && !x.own then n else 0)
  else if x.src = 13 then n * (mine.filter fun w => w.2).length
  else 0

/-- A core's counters after `n` cycles. -/
def Core.cycle (c : Core) (waves : List (Nat × Bool)) (n : Nat) : Core :=
  { c with counters := Vector.ofFn fun j => c.counters[j] + BitVec.ofNat 48 (c.cntsel[j].cycles c.stretched waves n) }

/-- Context and marker wait of the waves resident on a core. -/
def State.residents (s : State) (die : Fin 4) (core : Nat) : List (Nat × Bool) :=
  (s.teams.map fun t =>
    if t.die == die then
      (t.waves.filter fun w => w.core == core && w.status == .running).map fun w => (t.ctx, w.marker)
    else []).flatten

/-- A pre-emption's countdown (R294). -/
def Wave.countDown (w : Wave) (n : Nat) : Wave :=
  if w.cc.p then { w with left := w.left - BitVec.ofNat 32 (min w.left.toNat n) } else w

/-- Time passes between steps: reference ticks on each die (R18), and the cycles of countdowns and counters (R294, R306). -/
def State.pass (s : State) : State :=
  let dies := Vector.ofFn fun (d : Fin 4) =>
    ({ s.dies[d] with ticks := (s.dies[d].ticks + Config.ticks s.free d.val) % 2 ^ 48 } : Die)
  let teams := s.teams.map fun (t : Team) => { t with waves := t.waves.map fun w => w.countDown (Config.cycles s.free t.die.val) }
  let cores := s.cores.map fun (c : Core) => c.cycle (s.residents c.die c.num) (Config.cycles s.free c.die.val)
  { s with dies := dies, teams := teams, cores := cores, free := s.free + 1 }

/-! ## Issue -/

/-- The quarter's counts when a wave of it issues (R45), the turn of the wave's next split (R44), and SKID (R314). -/
def State.countIssue (s : State) (c : Cursor) : State :=
  match s.waveAt c with
  | none => s
  | some (t, w) =>
    let older := fun (t' : Team) (w' : Wave) => if sameQuarter t w t' w' then { w' with age := w'.age + 1 } else w'
    let s : State := { s with teams := s.teams.map fun (t' : Team) => { t' with waves := t'.waves.map (older t') } }
    let s := s.setWaveAt c { w with age := 0, turn := c.slot + 1 }
    match s.teams[c.team]? with
    | some t => s.setTeam c.team (t.countSkid w c.slot)
    | none => s

/-- Where an instruction is issued: the die, the core and the context, for counter source 2. -/
abbrev IssuedAt := Fin 4 × Nat × Nat

/-- Where a cursor's split would issue a new instruction; none where it tries again one it waits at. -/
def State.newIssue (s : State) (c : Cursor) : Option IssuedAt :=
  (s.waveAt c).bind fun p =>
    match p.2.splits[c.slot] with
    | some _ => if (p.2.waitOf c.slot).isSome then none else some (p.1.die, p.2.core, p.1.ctx)
    | none => none

/-- An instruction issued counted (source 2). -/
def State.issued (s : State) (at_ : Option IssuedAt) : State :=
  match at_ with
  | none => s
  | some (d, core, ctx) => s.count d core 2 (some ctx) 1

/-- A move made ready: the state it acts on, the instruction or step to perform, and where an instruction is issued. A split of
a stopping team that stands at a safe point stops there instead (R314). Where a new instruction's unit is busy the quarter issues nothing,
and the wave keeps its place (R44). -/
def State.take (s : State) (m : Move) : State × Option Instr × Option IssuedAt :=
  match m with
  | .event i => (s, some i, none)
  | .issue c =>
    if s.debugBars c then (s, none, none)
    else
      match s.holdsAt c with
      | some (t, w, sp, q) => (s.hold c t w sp q, none, none)
      | none =>
        let at_ := s.newIssue c
        match (if at_.isSome then s.countIssue c else s).fetchAt c with
        | some (t, i) => if at_.isSome && s.unitBusy c i then (s, none, none) else (t, some i, at_)
        | none => (s, none, none)

/-- What the next step performs, and on which state; nothing where nothing can happen but time. -/
def State.next (s : State) : State × Option Instr × Option IssuedAt :=
  match s.moves with
  | m :: ms => ({ s.pass with moves := ms }).take m
  | [] =>
    match s.enabled with
    | [] => (s.pass, none, none)
    | m :: ms => s.pass.take ((m :: ms).getD (Config.choice s.free % (ms.length + 1)) m)

end Sys2Proof.Machine
end

