-- ==== Sys2Proof/Machine/Step.lean ====
section
/-! DEFINITION. One step of the module, and the state in which a given instruction is the next to issue. -/

namespace Sys2Proof.Machine

/-- One step: what comes next by `State.next` is performed; where nothing can, time passes. -/
def step (s : State) : Host.Outcome State Fault Refusal :=
  match s.next with
  | (t, some i, at_) =>
    match exec i t with
    | .next u => .next (u.issued at_)
    | .fault f => .fault f
    | .refused r => .refused r
  | (t, none, _) => .next t

/-- The state with an instruction's bits placed where the next step fetches (log 4). -/
def State.withFetchWord (s : State) (nbits w : Nat) : State := s.placeWord nbits w

end Sys2Proof.Machine
end

