-- ==== Sys2Proof/Safety.lean ====
section
/-! DEFINITION. What holds of the module between steps, in the terms claims use. -/

namespace Sys2Proof.Safety

open Sys2Proof.Machine

/-- Memory is in its canonical form. -/
def MemoryOk (s : State) : Prop := s.phys.wf = true

end Sys2Proof.Safety
end

