-- ==== Sys2Proof/Certificates/Slice0/Obligations.lean ====
section
/-! DEFINITION. The statements for the provers: what the numbered rules of spec/ say of the instructions, of taking a trap and
returning from one, and of the module's steps. The definitions of `Sys2Proof.Claims` say in the rules' own terms what the
statements compare the machine with. -/

/-! ## The words the statements are in -/

namespace Sys2Proof.Claims

open Sys2Proof.Machine

/-- The split `State.cur` names issues `i`: it is live, it is not a replay that names no lane, and the checks of R52 pass. `x` is
that split with its wave and team. -/
def Issues (i : Instr) (s : State) (x : Iss) : Prop :=
  checkout s = some x ∧ (x.inService = true ∨ x.sp.only ≠ some 0) ∧ checkIssue (infoOf i) x = none

/-- The marker of `i` takes effect now: S = 1, and the split has not issued `i` before and waited at it since (R50). -/
def marks (i : Instr) (y : Iss) : Bool := markerOf i && !y.waited

/-- The state after `i` has had the effect `y` and no other: the registers it writes are pending, the split is past it. -/
def after (i : Instr) (y : Iss) : State := ((y.markWrites (infoOf i) []).advance (infoOf i) (marks i y)).commit

/-- The flags of a − b (R391). -/
def scmpEffect (a b : W64) (x : Iss) : Iss :=
  x.setFlags (decide (a - b = 0)) ((a - b).getLsbD 63) (decide (b ≤ a)) (BitVec.ssubOverflow a b)

/-- The scalar entry, R391: what each instruction of it does to the registers of its wave. -/
def scalarEffect : Instr → Option (Iss → Iss)
  | .sadd b a d _ => some fun x => x.setS d (x.s a + x.s b)
  | .ssub b a d _ => some fun x => x.setS d (x.s a - x.s b)
  | .smul b a d _ => some fun x => x.setS d (x.s a * x.s b)
  | .smulh nat b a d _ => some fun x => x.setS d (
      if nat then ((x.s a).setWidth 128 * (x.s b).setWidth 128).extractLsb' 64 64
      else ((x.s a).signExtend 128 * (x.s b).signExtend 128).extractLsb' 64 64)
  | .sdiv nat b a d _ => some fun x => x.setS d (
      if x.s b = 0 then BitVec.allOnes 64 else if nat then x.s a / x.s b else (x.s a).sdiv (x.s b))
  | .srem nat b a d _ => some fun x => x.setS d (
      if x.s b = 0 then x.s a else if nat then x.s a % x.s b else (x.s a).srem (x.s b))
  | .sand b a d _ => some fun x => x.setS d (x.s a &&& x.s b)
  | .sor b a d _ => some fun x => x.setS d (x.s a ||| x.s b)
  | .sxor b a d _ => some fun x => x.setS d (x.s a ^^^ x.s b)
  | .sshl b a d _ => some fun x => x.setS d (x.s a <<< ((x.s b).toNat % 64))
  | .sshr arith b a d _ => some fun x => x.setS d (
      if arith then (x.s a).sshiftRight ((x.s b).toNat % 64) else x.s a >>> ((x.s b).toNat % 64))
  | .smin nat b a d _ => some fun x => x.setS d (
      if nat then (if x.s a ≤ x.s b then x.s a else x.s b) else (if (x.s a).sle (x.s b) then x.s a else x.s b))
  | .smax nat b a d _ => some fun x => x.setS d (
      if nat then (if x.s a ≤ x.s b then x.s b else x.s a) else (if (x.s a).sle (x.s b) then x.s b else x.s a))
  | .sbit .clz a d _ => some fun x => x.setS d (x.s a).clz
  | .sbit .popc a d _ => some fun x => x.setS d (x.s a).cpop
  | .sbit .ctz a d _ => some fun x => x.setS d (x.s a).ctz
  | .sbit .brev a d _ => some fun x => x.setS d (x.s a).reverse
  | .smov a d _ => some fun x => x.setS d (x.s a)
  | .ssel c b a d _ => some fun x => x.setS d (if holds c x.wv.cc then x.s a else x.s b)
  | .scmp _ b a _ => some fun x => scmpEffect (x.s a) (x.s b) x
  | .saddImm imm a d _ => some fun x => x.setS d (x.s a + imm.signExtend 64)
  | .sandImm imm a d _ => some fun x => x.setS d (x.s a &&& imm.signExtend 64)
  | .sorImm imm a d _ => some fun x => x.setS d (x.s a ||| imm.signExtend 64)
  | .sxorImm imm a d _ => some fun x => x.setS d (x.s a ^^^ imm.signExtend 64)
  | .scmpImm imm a nat _ => some fun x => scmpEffect (x.s a) (if nat then imm.setWidth 64 else imm.signExtend 64) x
  | .sli imm h d _ => some fun x => x.setS d (
      match h with
      | 0 => (0#48 ++ imm : BitVec 64)
      | 1 => ((x.s d).extractLsb' 32 32 ++ imm ++ (x.s d).extractLsb' 0 16 : BitVec 64)
      | 2 => ((x.s d).extractLsb' 48 16 ++ imm ++ (x.s d).extractLsb' 0 32 : BitVec 64)
      | 3 => (imm ++ (x.s d).extractLsb' 0 48 : BitVec 64))
  | _ => none

end Sys2Proof.Claims

/-- R391, for every value of every operand and every form: a scalar instruction that issues completes, and its one effect beside
going on is the one the entry gives it. -/
def Obligations.ScalarEntry : Prop :=
  ∀ (i : Sys2Proof.Instr) (f : Sys2Proof.Machine.Iss → Sys2Proof.Machine.Iss) (s : Sys2Proof.Machine.State)
    (x : Sys2Proof.Machine.Iss), Sys2Proof.Claims.scalarEffect i = some f → Sys2Proof.Claims.Issues i s x →
    Sys2Proof.Machine.exec i s = .next (Sys2Proof.Claims.after i (f x))
namespace Sys2Proof.Claims

open Sys2Proof.Machine

/-- The lanes that lead their tiles (R379): bit L set where L mod 2^TILE = 0. -/
def leadLanes : TileCode → Mask
  | .l2 => 0x55555555
  | .l4 => 0x11111111
  | .l8 => 0x01010101
  | .l16 => 0x00010001
  | .l32 => 0x00000001

/-- Moves between register kinds (R393, R394), masks (R371, R379), PART (R381) and NOP (R353). -/
def moveEffect : Instr → Option (Iss → Iss)
  | .smovV lane a d _ => some fun x => x.setS d (
      if 32 * x.wv.number.val + lane.val < x.tm.lanes then (x.v a lane).setWidth 64 else 0)
  | .smovM a d _ => some fun x => x.setS d ((x.m a).setWidth 64)
  | .smovCcRead d _ => some fun x => x.setS d (
      (0#57 ++ BitVec.ofBool x.wv.cc.e ++ BitVec.ofBool x.wv.cc.k ++ BitVec.ofBool x.wv.cc.p ++ BitVec.ofBool x.wv.cc.v ++
        BitVec.ofBool x.wv.cc.c ++ BitVec.ofBool x.wv.cc.n ++ BitVec.ofBool x.wv.cc.z : BitVec 64))
  | .smovCcWrite a _ => some fun x =>
      x.setFlags ((x.s a).getLsbD 0) ((x.s a).getLsbD 1) ((x.s a).getLsbD 2) ((x.s a).getLsbD 3)
  | .mlog .and b a d _ => some fun x => x.setM d (x.m a &&& x.m b)
  | .mlog .or b a d _ => some fun x => x.setM d (x.m a ||| x.m b)
  | .mlog .xor b a d _ => some fun x => x.setM d (x.m a ^^^ x.m b)
  | .mlog .andn b a d _ => some fun x => x.setM d (x.m a &&& ~~~(x.m b))
  | .mlogNot a d _ => some fun x => x.setM d (~~~(x.m a))
  | .mcnt .popc a d _ => some fun x => x.setS d ((x.m a).cpop.setWidth 64)
  | .mcnt .first a d _ => some fun x => x.setS d ((x.m a).ctz.setWidth 64)
  | .mcnt .last a d _ => some fun x => x.setS d (if x.m a = 0 then 32 else 31 - (x.m a).clz.setWidth 64)
  | .mset a md _ => some fun x => x.setM md ((x.s a).setWidth 32)
  | .msetAll md _ => some fun x => x.setM md (BitVec.allOnes 32)
  | .msetNone md _ => some fun x => x.setM md 0
  | .msetFirst md _ => some fun x => x.setM md (leadLanes x.wv.tile)
  | .part t _ => some fun x => { x with wv := { x.wv with tile := t } }
  | .nop _ => some fun x => x
  | _ => none

/-- Element `e`, of `n` bits, of a lane's value, or of a pair's. -/
def elem (n e w : Nat) : Nat := w / 2 ^ (n * e) % 2 ^ n

/-- R404 on one element of `n` bits. -/
def intRule (op : IntOp) (n : Nat) (signed : Bool) (a b : BitVec n) : BitVec n :=
  match op with
  | .add => a + b
  | .sub => a - b
  | .mul => a * b
  | .min => if (if signed then a.sle b else a.ule b) then a else b
  | .max => if (if signed then a.sle b else a.ule b) then b else a
  | .shl => a <<< (b.toNat % n)
  | .shr => if signed then a.sshiftRight (b.toNat % n) else a >>> (b.toNat % n)
  | .and => a &&& b
  | .or => a ||| b
  | .xor => a ^^^ b

/-- The two-operand integer instructions as operation, type, mask register, A, B and D; a 16-bit parcel is its 32-bit form with
A = D, m0 and i32 (R78). -/
def intForm : Instr → Option (IntOp × IntType × MReg × VReg × VReg × VReg)
  | .vadd t m b a d _ => some (.add, t, m, a, b, d)
  | .vsub t m b a d _ => some (.sub, t, m, a, b, d)
  | .vmul t m b a d _ => some (.mul, t, m, a, b, d)
  | .vmin t m b a d _ => some (.min, t, m, a, b, d)
  | .vmax t m b a d _ => some (.max, t, m, a, b, d)
  | .vshl t m b a d _ => some (.shl, t, m, a, b, d)
  | .vshr t m b a d _ => some (.shr, t, m, a, b, d)
  | .vand m b a d _ => some (.and, .n32, m, a, b, d)
  | .vor m b a d _ => some (.or, .n32, m, a, b, d)
  | .vxor m b a d _ => some (.xor, .n32, m, a, b, d)
  | .vaddH b d _ => some (.add, .i32, 0, d.castLE (by decide), b.castLE (by decide), d.castLE (by decide))
  | .vsubH b d _ => some (.sub, .i32, 0, d.castLE (by decide), b.castLE (by decide), d.castLE (by decide))
  | .vmulH b d _ => some (.mul, .i32, 0, d.castLE (by decide), b.castLE (by decide), d.castLE (by decide))
  | .vandH b d _ => some (.and, .i32, 0, d.castLE (by decide), b.castLE (by decide), d.castLE (by decide))
  | .vorH b d _ => some (.or, .i32, 0, d.castLE (by decide), b.castLE (by decide), d.castLE (by decide))
  | .vxorH b d _ => some (.xor, .i32, 0, d.castLE (by decide), b.castLE (by decide), d.castLE (by decide))
  | .vshlH b d _ => some (.shl, .i32, 0, d.castLE (by decide), b.castLE (by decide), d.castLE (by decide))
  | .vshrH b d _ => some (.shr, .i32, 0, d.castLE (by decide), b.castLE (by decide), d.castLE (by decide))
  | .vminH b d _ => some (.min, .i32, 0, d.castLE (by decide), b.castLE (by decide), d.castLE (by decide))
  | .vmaxH b d _ => some (.max, .i32, 0, d.castLE (by decide), b.castLE (by decide), d.castLE (by decide))
  | _ => none

/-- The lane a shuffle reads (R417), as an exact integer; one outside the reader's tile is the reader. -/
def shuffled (op : ShflOp) (t : TileCode) (L : Fin 32) (d : Nat) : Int :=
  let z : Nat := 2 ^ t.code
  let src : Int :=
    match op with
    | .idx => d
    | .up => (L.val : Int) - d
    | .down => (L.val : Int) + d
    | .xor => ((L.val ^^^ d : Nat) : Int)
  if src < (L.val - L.val % z : Nat) ∨ (L.val - L.val % z + z : Nat) ≤ src then L.val else src

/-- Vector instructions that copy, number or move lanes, each as its destination, its lanes and the value of a lane (R406, R415,
R417, R78). -/
def laneEffect : Instr → Option (VReg × (Iss → Mask) × (Iss → Fin 32 → W32))
  | .vsel m b a d _ => some (d, fun x => x.mask, fun x L => if (x.m m).getLsbD L.val then x.v a L else x.v b L)
  | .vmov m a d _ => some (d, fun x => x.mask &&& x.m m, fun x L => x.v a L)
  | .vmovBcast m a d _ => some (d, fun x => x.mask &&& x.m m, fun x _ => (x.s a).setWidth 32)
  | .vmovMask m a d _ => some (d, fun x => x.mask &&& x.m m, fun x L => if (x.m a).getLsbD L.val then 1 else 0)
  | .vidx m .lane d _ => some (d, fun x => x.mask &&& x.m m, fun _ L => BitVec.ofNat 32 L.val)
  | .vidx m .tlane d _ => some (d, fun x => x.mask &&& x.m m, fun x L => BitVec.ofNat 32 (L.val % 2 ^ x.wv.tile.code))
  | .vidx m .tile d _ => some (d, fun x => x.mask &&& x.m m, fun x L => BitVec.ofNat 32 (L.val / 2 ^ x.wv.tile.code))
  | .vidx m .team d _ => some (d, fun x => x.mask &&& x.m m, fun x L => BitVec.ofNat 32 (32 * x.wv.number.val + L.val))
  | .vshfl op m b a d _ => some (d, fun x => x.mask &&& x.m m, fun x L =>
      let src := shuffled op x.wv.tile L (x.v b L).toNat
      if 32 * x.wv.number.val + src < x.tm.lanes then x.v a (Fin.ofNat 32 src.toNat) else 0)
  | .vmovH b d _ => some (d.castLE (by decide), fun x => x.mask, fun x L => x.v (b.castLE (by decide)) L)
  | _ => none

/-- The unsigned or signed comparison of R408 on elements of `n` bits. -/
def cmpRule (c : CmpCond) (n : Nat) (signed : Bool) (a b : BitVec n) : Bool :=
  let lt := fun (p q : BitVec n) => if signed then p.slt q else p.ult q
  match c with
  | .eq => a == b
  | .ne => a != b
  | .lt => lt a b
  | .le => !lt b a
  | .gt => lt b a
  | .ge => !lt a b
  | .uo | .ord => false

/-- The bit a vote gives a lane of A (R413). -/
def voteRule (op : VoteOp) (t : TileCode) (A : Mask) (val : Fin 32 → W32) (L : Fin 32) : Prop :=
  match op with
  | .ballot => val L ≠ 0
  | .any => ∃ K : Fin 32, A.getLsbD K.val = true ∧ K.val / 2 ^ t.code = L.val / 2 ^ t.code ∧ val K ≠ 0
  | .all => ∀ K : Fin 32, A.getLsbD K.val = true → K.val / 2 ^ t.code = L.val / 2 ^ t.code → val K ≠ 0
  | .uniform => ∀ K : Fin 32, A.getLsbD K.val = true → K.val / 2 ^ t.code = L.val / 2 ^ t.code → val K = val L

/-- The lanes of A in the tile of a lane, ascending. -/
def tileMates (t : TileCode) (A : Mask) (L : Fin 32) : List (Fin 32) :=
  (List.finRange 32).filter fun K => A.getLsbD K.val && K.val / 2 ^ t.code == L.val / 2 ^ t.code

/-- The integer reductions of R414 on two values. -/
def intRed : RedOp → Option (W32 → W32 → W32)
  | .add => some fun a b => a + b
  | .mins => some fun a b => if a.sle b then a else b
  | .minn => some fun a b => if a.ule b then a else b
  | .maxs => some fun a b => if a.sle b then b else a
  | .maxn => some fun a b => if a.ule b then b else a
  | .and => some fun a b => a &&& b
  | .or => some fun a b => a ||| b
  | .xor => some fun a b => a ^^^ b
  | .fadd | .fmin | .fmax => none

/-- The identity an exclusive integer scan gives (R114). -/
def intIdentity : RedOp → W32
  | .add | .or | .xor => 0
  | .and => 0xFFFFFFFF
  | .mins => 0x7FFFFFFF
  | .minn => 0xFFFFFFFF
  | .maxs => 0x80000000
  | .maxn | .fadd | .fmin | .fmax => 0

/-- Values combined left to right. -/
def foldRed (f : W32 → W32 → W32) : List W32 → Option W32
  | [] => none
  | a :: as => some (as.foldl f a)

end Sys2Proof.Claims

/-- R393, R394, R371, R379, R381 and NOP of R353: a move between register kinds, a mask operation, PART or NOP that issues
completes, and its effect is the one its entry gives it. -/
def Obligations.MoveAndMaskEntries : Prop :=
  ∀ (i : Sys2Proof.Instr) (f : Sys2Proof.Machine.Iss → Sys2Proof.Machine.Iss) (s : Sys2Proof.Machine.State)
    (x : Sys2Proof.Machine.Iss), Sys2Proof.Claims.moveEffect i = some f → Sys2Proof.Claims.Issues i s x →
    Sys2Proof.Machine.exec i s = .next (Sys2Proof.Claims.after i (f x))

/-- R404, and R78 for the 16-bit parcels: a vector integer instruction that issues completes. In the lanes of the active mask under
m(M), and in no other, every element of the destination of a two-operand one is the operation on the elements of the operands as
they stood; VMAD and VADD with an immediate give each active lane a × b + c and a + IMM12. Nothing else changes. -/
def Obligations.VectorIntegerEntry : Prop :=
  (∀ (i : Sys2Proof.Instr) (op : Sys2Proof.Machine.IntOp) (t : Sys2Proof.IntType) (m : Sys2Proof.MReg)
      (a b d : Sys2Proof.VReg) (s : Sys2Proof.Machine.State) (x : Sys2Proof.Machine.Iss),
      Sys2Proof.Claims.intForm i = some (op, t, m, a, b, d) → Sys2Proof.Claims.Issues i s x →
      ∃ r : Fin 32 → Nat,
        Sys2Proof.Machine.exec i s =
          .next (Sys2Proof.Claims.after i (x.setLane t.isWide d (x.mask &&& x.m m) r)) ∧
        ∀ (L : Fin 32) (e : Nat), e < Sys2Proof.Machine.elemCount t →
          Sys2Proof.Claims.elem (Sys2Proof.Machine.elemBits t) e (r L) =
            (Sys2Proof.Claims.intRule op (Sys2Proof.Machine.elemBits t) (Sys2Proof.Machine.elemSigned t)
              (BitVec.ofNat _ (Sys2Proof.Claims.elem (Sys2Proof.Machine.elemBits t) e (x.lane t.isWide a L)))
              (BitVec.ofNat _ (Sys2Proof.Claims.elem (Sys2Proof.Machine.elemBits t) e (x.lane t.isWide b L)))).toNat) ∧
  (∀ (c b a d : Sys2Proof.VReg) (mk : Bool) (s : Sys2Proof.Machine.State) (x : Sys2Proof.Machine.Iss),
      Sys2Proof.Claims.Issues (.vmad c b a d mk) s x →
      Sys2Proof.Machine.exec (.vmad c b a d mk) s =
        .next (Sys2Proof.Claims.after (.vmad c b a d mk) (x.setV d x.mask fun L => x.v a L * x.v b L + x.v c L))) ∧
  ∀ (imm : BitVec 12) (a d : Sys2Proof.VReg) (mk : Bool) (s : Sys2Proof.Machine.State) (x : Sys2Proof.Machine.Iss),
    Sys2Proof.Claims.Issues (.vaddImm imm a d mk) s x →
    Sys2Proof.Machine.exec (.vaddImm imm a d mk) s =
      .next (Sys2Proof.Claims.after (.vaddImm imm a d mk) (x.setV d x.mask fun L => x.v a L + imm.signExtend 32))
namespace Sys2Proof.Claims

open Sys2Proof.Machine

/-- The union of the exceptions of the lanes of a mask. -/
def raisedIn (A : Mask) (exc : Fin 32 → Exc) : Exc :=
  let some_ := fun (p : Exc → Bool) => (List.finRange 32).any fun L => A.getLsbD L.val && p (exc L)
  ⟨some_ Exc.nv, some_ Exc.dz, some_ Exc.ovf, some_ Exc.uf, some_ Exc.nx⟩

/-- FPMODE.RM as a rounding (Table 5.3). -/
def roundingOf (x : Iss) : Round :=
  if x.wv.rm = 0 then .rne else if x.wv.rm = 1 then .rtz else if x.wv.rm = 2 then .rdn else .rup

/-- The element operations of a floating-point lane, each element of its own format: the lane's value and the union of the
exceptions its elements raise. -/
def fpElems (n cnt : Nat) (f : Nat → Nat × Exc) : Nat × Exc :=
  (((List.range cnt).map fun e => 2 ^ (n * e) * (f e).1).sum,
    (List.range cnt).foldl (fun acc e => acc.or (f e).2) Exc.none)

/-- A two-operand floating-point operation of a lane (R411). -/
def fpBinLane (op : FpOp) (t : FltType) (r : Round) (a b : Nat) : Nat × Exc :=
  let n := (fltFormat t).width
  fpElems n (fltCount t) fun e => fpBin (fltFormat t) r op (elem n e a) (elem n e b)

/-- The two-operand floating-point instructions as operation, type, mask register, A, B and D; a 16-bit parcel is its 32-bit form
with A = D, m0 and f32 (R78). -/
def fpForm : Instr → Option (FpOp × FltType × MReg × VReg × VReg × VReg)
  | .vfadd t m b a d _ => some (.add, t, m, a, b, d)
  | .vfsub t m b a d _ => some (.sub, t, m, a, b, d)
  | .vfmul t m b a d _ => some (.mul, t, m, a, b, d)
  | .vfmin t m b a d _ => some (.min, t, m, a, b, d)
  | .vfmax t m b a d _ => some (.max, t, m, a, b, d)
  | .vfaddH b d _ => some (.add, .f32, 0, d.castLE (by decide), b.castLE (by decide), d.castLE (by decide))
  | .vfsubH b d _ => some (.sub, .f32, 0, d.castLE (by decide), b.castLE (by decide), d.castLE (by decide))
  | .vfmulH b d _ => some (.mul, .f32, 0, d.castLE (by decide), b.castLE (by decide), d.castLE (by decide))
  | .vfmaxH b d _ => some (.max, .f32, 0, d.castLE (by decide), b.castLE (by decide), d.castLE (by decide))
  | .vfminH b d _ => some (.min, .f32, 0, d.castLE (by decide), b.castLE (by decide), d.castLE (by decide))
  | _ => none

/-- What a vector floating-point instruction does: its lanes, the exceptions that belong to each lane, and its results written in
the lanes of a mask. -/
structure FpEffect where
  lanes : Mask
  exc : Fin 32 → Exc
  write : Mask → Iss → Iss

/-- One result a lane. -/
def fpResult (wide : Bool) (d : VReg) (A : Mask) (f : Fin 32 → Nat × Exc) : FpEffect :=
  ⟨A, fun L => (f L).2, fun ok y => y.setLane wide d ok fun L => (f L).1⟩

/-- The vector floating-point instructions (R411, R408, R416, R108, R414, R395, R243). -/
def fpEffect (x : Iss) : Instr → Option FpEffect
  | .vfma c b a d _ => some (fpResult false d x.mask fun L =>
      fpFma fp32 (roundingOf x) (x.lane false a L) (x.lane false b L) (x.lane false c L))
  | .vfmaF64 c b a d _ => some (fpResult true d x.mask fun L =>
      fpFma fp64 (roundingOf x) (x.lane true a L) (x.lane true b L) (x.lane true c L))
  | .vsfn .f32 m fn a d _ => some (fpResult false d (x.mask &&& x.m m) fun L => fpFn fp32 fn (x.lane false a L))
  | .vsfn .f16x2 m fn a d _ => some (fpResult false d (x.mask &&& x.m m) fun L =>
      fpElems 16 2 fun e => fpFn fp16 fn (elem 16 e (x.lane false a L)))
  | .vcvt rnd m dst src a d _ => some (fpResult (dst == .f64) d (x.mask &&& x.m m) fun L =>
      cvtElem dst src (cvtRound rnd) (x.lane (src == .f64) a L))
  | .vfcmp t m b a c md _ =>
      let r := fun (L : Fin 32) => fpCompare (fltFormat t) c (x.lane t.isWide a L) (x.lane t.isWide b L)
      some ⟨x.mask &&& x.m m, fun L => (r L).2, fun ok y => y.setMaskLanes md ok fun L => (r L).1⟩
  | .vred m op a d _ => some (fpResult false d (x.mask &&& x.m m) fun L =>
      tileRoot (redOp op) x.wv.tile (x.mask &&& x.m m) (x.lane false a) L)
  | .vscan excl m op a d _ => some (fpResult false d (x.mask &&& x.m m) fun L =>
      scanLane excl op x.wv.tile (x.mask &&& x.m m) (x.lane false a) L)
  | .smxu m b a d _ =>
      let A := x.mask &&& x.m m
      let mx := fun (L : Fin 32) => tileRoot (redOp .fmax) x.wv.tile A (x.lane false a) L
      let one := fun (K : Fin 32) => smxuFirst (x.lane false d K) (x.lane false a K) (mx K).1
      let sum := fun (L : Fin 32) =>
        tileRoot (redOp .fadd) x.wv.tile A (fun K => (smxuFirst (x.lane false d K) (x.lane false a K) (mx L).1).2.2.1) L
      let two := fun (L : Fin 32) => smxuSecond (one L).1 (x.lane false (vNext d 1) L) (one L).2.1 (sum L).1
      some ⟨A, fun L => (((mx L).2.or (sum L).2).or (one L).2.2.2).or (two L).2, fun ok y =>
        (((y.setLane false d ok fun L => (one L).1).setLane false (vNext d 1) ok fun L => (two L).1).setLane false
          (vNext d 2) ok fun L => (one L).2.1).setLane false b ok fun L => (one L).2.2.1⟩
  | .smxf m a d _ => some (fpResult false d (x.mask &&& x.m m) fun L =>
      fpFn fp32 .rcp (x.lane false (vNext a 1) L))
  | i => (fpForm i).map fun q =>
      fpResult q.2.1.isWide q.2.2.2.2.2 (x.mask &&& x.m q.2.2.1) fun L =>
        fpBinLane q.1 q.2.1 (roundingOf x) (x.lane q.2.1.isWide q.2.2.2.1 L) (x.lane q.2.1.isWide q.2.2.2.2.1 L)

/-- A lane raises an exception whose trap FPMODE enables (R104). -/
def enabledIn (x : Iss) (e : Exc) : Bool :=
  (e.nv && x.wv.enables.getLsbD 0) || (e.dz && x.wv.enables.getLsbD 1) || (e.ovf && x.wv.enables.getLsbD 2) ||
    (e.uf && x.wv.enables.getLsbD 3) || (e.nx && x.wv.enables.getLsbD 4)

/-- The lowest cause of Table 5.5 among the enabled exceptions a lane raises. -/
def fpCause (x : Iss) (e : Exc) : Nat :=
  if e.nv && x.wv.enables.getLsbD 0 then 0x40 else if e.dz && x.wv.enables.getLsbD 1 then 0x41
  else if e.ovf && x.wv.enables.getLsbD 2 then 0x42 else if e.uf && x.wv.enables.getLsbD 3 then 0x43 else 0x44

/-- The lanes of a mask whose exceptions trap. -/
def trappedIn (x : Iss) (A : Mask) (exc : Fin 32 → Exc) : Mask :=
  maskOf fun L => A.getLsbD L.val && enabledIn x (exc L)

/-- The lane faults of those lanes, ascending. -/
def fpTraps (x : Iss) (A : Mask) (exc : Fin 32 → Exc) : List LaneFault :=
  ((List.finRange 32).filter fun L => A.getLsbD L.val && enabledIn x (exc L)).map fun L => ⟨L, fpCause x (exc L), L.val, 0⟩

/-- An all-ones exponent: the bits stand for an infinity or a NaN (R97). -/
abbrev FpOnes (f : FpFormat) (w : Nat) : Prop := w / 2 ^ f.fbits % 2 ^ f.ebits = 2 ^ f.ebits - 1

/-- The bits of a NaN (R97). -/
abbrev FpNan (f : FpFormat) (w : Nat) : Prop := FpOnes f w ∧ w % 2 ^ f.fbits ≠ 0

/-- The bits of a signalling NaN: the most significant fraction bit is 0 (R97). -/
abbrev FpSnan (f : FpFormat) (w : Nat) : Prop := FpNan f w ∧ w.testBit (f.fbits - 1) = false

/-- The bits of an infinity (R97). -/
abbrev FpInf (f : FpFormat) (w : Nat) : Prop := FpOnes f w ∧ w % 2 ^ f.fbits = 0

/-- The sign bit of an element. -/
def fpNeg (f : FpFormat) (w : Nat) : Bool := w.testBit (f.ebits + f.fbits)

/-- The bits without the sign; they order the magnitudes. -/
def fpMag (f : FpFormat) (w : Nat) : Nat := w % 2 ^ (f.ebits + f.fbits)

/-- A finite element in units of the format's smallest subnormal (Table 5.1). -/
def fpUnits (f : FpFormat) (w : Nat) : Int :=
  let e := w / 2 ^ f.fbits % 2 ^ f.ebits
  let m := w % 2 ^ f.fbits
  let u := if e = 0 then m else (m + 2 ^ f.fbits) * 2 ^ (e - 1)
  if fpNeg f w then -(u : Int) else u

/-- The smallest subnormal is 2 to minus this (Table 5.1). -/
def fpScale (f : FpFormat) : Nat := f.bias + f.fbits - 1

/-- The sign, the exponent and the fraction of the canonical NaN (Table 5.1, R98). -/
def fpQuiet (f : FpFormat) : Nat := (2 ^ f.ebits - 1) * 2 ^ f.fbits + 2 ^ (f.fbits - 1)

/-- An infinity of a sign. -/
def fpInfinity (f : FpFormat) (neg : Bool) : Nat :=
  (if neg then 2 ^ (f.ebits + f.fbits) else 0) + (2 ^ f.ebits - 1) * 2 ^ f.fbits

/-- A zero of a sign. -/
def fpZero (f : FpFormat) (neg : Bool) : Nat := if neg then 2 ^ (f.ebits + f.fbits) else 0

/-- Invalid alone where a condition holds, else no exception. -/
def invalidIf (c : Bool) : Exc := ⟨c, false, false, false, false⟩

/-- A direction that takes a value of a sign away from zero (R101). -/
def roundsAway (r : Round) (neg : Bool) : Bool :=
  match r with
  | .rup => !neg
  | .rdn => neg
  | .rne | .rtz | .rneSat | .rtzSat => false

/-- v / 2^k units, rounded to the significand of the format with an unbounded exponent,
stays below n units, where the last place just below n is p half units (R101, R103). -/
def staysBelow (r : Round) (v : Int) (k n p : Nat) : Bool :=
  if r = .rne then decide (4 * v.natAbs < 2 ^ k * (4 * n - p))
  else if roundsAway r (decide (v < 0)) then decide (2 * v.natAbs ≤ 2 ^ k * (2 * n - p))
  else decide (v.natAbs < 2 ^ k * n)

/-- The least magnitude above every finite one, in units. -/
def fpLimit (f : FpFormat) : Nat := 2 ^ (f.fbits + 1) * 2 ^ (2 ^ f.ebits - 3)

/-- The element delivered on overflow (Table 5.2): an infinity, or the largest finite one. -/
def fpOverflowed (f : FpFormat) (r : Round) (neg : Bool) : Nat :=
  if r = .rne ∨ roundsAway r neg = true then fpInfinity f neg
  else fpZero f neg + (2 ^ f.ebits - 1) * 2 ^ f.fbits - 1

/-- The finite element `w` is what the direction makes of v / 2^k units: the nearest, ties to the even one; or the greatest not
above; or the least not below (R101), among the elements that stand for finite values. -/
def RoundsAmong (finite : Nat → Prop) (f : FpFormat) (r : Round) (v : Int) (k : Nat) (w : Nat) : Prop :=
  ∀ u < 2 ^ f.width, finite u →
    if r = .rne then
      (v - 2 ^ k * fpUnits f w).natAbs ≤ (v - 2 ^ k * fpUnits f u).natAbs ∧
      ((v - 2 ^ k * fpUnits f w).natAbs = (v - 2 ^ k * fpUnits f u).natAbs → fpUnits f u = fpUnits f w ∨ w % 2 = 0)
    else if roundsAway r (decide (v < 0)) = decide (v < 0) then
      2 ^ k * fpUnits f w ≤ v ∧ (2 ^ k * fpUnits f u ≤ v → fpUnits f u ≤ fpUnits f w)
    else v ≤ 2 ^ k * fpUnits f w ∧ (v ≤ 2 ^ k * fpUnits f u → fpUnits f w ≤ fpUnits f u)

/-- The same among the elements of a format whose all-ones exponents are no finite values. -/
def Rounds (f : FpFormat) (r : Round) (v : Int) (k : Nat) (w : Nat) : Prop := RoundsAmong (fun u => ¬ FpOnes f u) f r v k w

/-- What R101 and R103 deliver for the exact value v / 2^k units, a zero of which has the sign given: the element and the
exceptions. -/
def Delivers (f : FpFormat) (r : Round) (v : Int) (k : Nat) (zero : Bool) (res : Nat × Exc) : Prop :=
  if v = 0 then res = (fpZero f zero, Exc.none)
  else if staysBelow r v k (fpLimit f) (2 * 2 ^ (2 ^ f.ebits - 3)) = false then
    res = (fpOverflowed f r (decide (v < 0)), ⟨false, false, true, false, true⟩)
  else
    res.1 < 2 ^ f.width ∧ ¬ FpOnes f res.1 ∧ fpNeg f res.1 = decide (v < 0) ∧ Rounds f r v k res.1 ∧
    (res.2.nx = true ↔ 2 ^ k * fpUnits f res.1 ≠ v) ∧
    (res.2.uf = true ↔ res.2.nx = true ∧ staysBelow r v k (2 ^ f.fbits) 1 = true) ∧
    res.2.nv = false ∧ res.2.dz = false ∧ res.2.ovf = false

/-- The first of two numbers is the lesser, −0 below +0 (R106). -/
def fpBelow (f : FpFormat) (x y : Nat) : Bool :=
  match fpNeg f x, fpNeg f y with
  | true, false => true
  | true, true => decide (fpMag f y < fpMag f x)
  | false, false => decide (fpMag f x < fpMag f y)
  | false, true => false

/-- R98, R101, R103 and R106 for an addition or subtraction of two elements. -/
def AddValue (f : FpFormat) (r : Round) (sub : Bool) (x y : Nat) (res : Nat × Exc) : Prop :=
  let t : Bool := fpNeg f y != sub
  if FpNan f x ∨ FpNan f y then res = (fpQuiet f, invalidIf (decide (FpSnan f x ∨ FpSnan f y)))
  else if FpInf f x ∧ FpInf f y ∧ fpNeg f x ≠ t then res = (fpQuiet f, invalidIf true)
  else if FpInf f x then res = (fpInfinity f (fpNeg f x), Exc.none)
  else if FpInf f y then res = (fpInfinity f t, Exc.none)
  else
    Delivers f r (fpUnits f x + (if sub then -fpUnits f y else fpUnits f y)) 0
      (if fpNeg f x = t then t else decide (r = .rdn)) res

/-- R98, R101, R103 and R106 for a multiplication of two elements. -/
def MulValue (f : FpFormat) (r : Round) (x y : Nat) (res : Nat × Exc) : Prop :=
  if FpNan f x ∨ FpNan f y then res = (fpQuiet f, invalidIf (decide (FpSnan f x ∨ FpSnan f y)))
  else if FpInf f x ∧ fpMag f y = 0 ∨ fpMag f x = 0 ∧ FpInf f y then res = (fpQuiet f, invalidIf true)
  else if FpInf f x ∨ FpInf f y then res = (fpInfinity f (fpNeg f x != fpNeg f y), Exc.none)
  else Delivers f r (fpUnits f x * fpUnits f y) (fpScale f) (fpNeg f x != fpNeg f y) res

/-- R98, R101, R103, R106 and R411 for a fused multiply and add: 0 × ∞ is invalid whatever is added. -/
def FmaValue (f : FpFormat) (r : Round) (x y z : Nat) (res : Nat × Exc) : Prop :=
  let bad := FpInf f x ∧ fpMag f y = 0 ∨ fpMag f x = 0 ∧ FpInf f y
  let s : Bool := fpNeg f x != fpNeg f y
  if FpNan f x ∨ FpNan f y ∨ FpNan f z then
    res = (fpQuiet f, invalidIf (decide (FpSnan f x ∨ FpSnan f y ∨ FpSnan f z ∨ bad)))
  else if bad then res = (fpQuiet f, invalidIf true)
  else if FpInf f x ∨ FpInf f y then
    if FpInf f z ∧ fpNeg f z ≠ s then res = (fpQuiet f, invalidIf true) else res = (fpInfinity f s, Exc.none)
  else if FpInf f z then res = (fpInfinity f (fpNeg f z), Exc.none)
  else
    Delivers f r (fpUnits f x * fpUnits f y + 2 ^ fpScale f * fpUnits f z) (fpScale f)
      (if s = fpNeg f z then s else decide (r = .rdn)) res

/-- R106 for the minimum and the maximum of two elements: a NaN beside a number gives the number, two NaNs the canonical one, and
only a signalling NaN is invalid. -/
def MinMaxValue (f : FpFormat) (max : Bool) (x y : Nat) (res : Nat × Exc) : Prop :=
  let e := invalidIf (decide (FpSnan f x ∨ FpSnan f y))
  if FpNan f x ∧ FpNan f y then res = (fpQuiet f, e)
  else if FpNan f x then res = (y, e)
  else if FpNan f y then res = (x, e)
  else res = (if fpBelow f x y then (if max then y else x) else (if max then x else y), e)

/-- R408, R82 and R103 for a compare of two elements: infinities lie beyond every finite value, −0 equals +0, on a NaN only `ne` and
`uo` hold; a signalling NaN, and any NaN under an ordering, is invalid. -/
def CompareValue (f : FpFormat) (c : CmpCond) (x y : Nat) (res : Bool × Exc) : Prop :=
  let un := FpNan f x ∨ FpNan f y
  let a := fpUnits f x
  let b := fpUnits f y
  (res.1 = true ↔
    if un then c = .ne ∨ c = .uo
    else c = .eq ∧ a = b ∨ c = .ne ∧ a ≠ b ∨ c = .lt ∧ a < b ∨ c = .le ∧ a ≤ b ∨ c = .gt ∧ b < a ∨ c = .ge ∧ b ≤ a ∨ c = .ord) ∧
  res.2 = invalidIf (decide (FpSnan f x ∨ FpSnan f y ∨ un ∧ (c = .lt ∨ c = .le ∨ c = .gt ∨ c = .ge)))

/-- Bits of a VCVT element (R107). -/
def cvtWidth (c : CvtFmt) : Nat := if c = .i32 then 32 else (cvtFormat c).width

/-- A VCVT element stands for a NaN (R97). -/
abbrev CvtNan (c : CvtFmt) (w : Nat) : Prop :=
  c ≠ .i32 ∧ c ≠ .e2m1 ∧ if c = .e4m3 then w % 128 = 127 else FpNan (cvtFormat c) w

/-- A VCVT element stands for an infinity (R97). -/
abbrev CvtInf (c : CvtFmt) (w : Nat) : Prop := c ≠ .i32 ∧ c ≠ .e2m1 ∧ c ≠ .e4m3 ∧ FpInf (cvtFormat c) w

/-- A VCVT element stands for a signalling NaN; E5M2 has none (R97). -/
abbrev CvtSnan (c : CvtFmt) (w : Nat) : Prop := CvtNan c w ∧ c ≠ .e4m3 ∧ c ≠ .e5m2 ∧ FpSnan (cvtFormat c) w

/-- The sign of a VCVT element; a zero of i32 has none (R108). -/
def cvtNeg (c : CvtFmt) (w : Nat) : Bool := if c = .i32 then decide (2 ^ 31 ≤ w) else fpNeg (cvtFormat c) w

/-- A finite VCVT element in units of 2 to minus `cvtScale`. -/
def cvtUnits (c : CvtFmt) (w : Nat) : Int :=
  if c = .i32 then (if 2 ^ 31 ≤ w then (w : Int) - 2 ^ 32 else w) else fpUnits (cvtFormat c) w

/-- The scale of a VCVT element's units. -/
def cvtScale (c : CvtFmt) : Nat := if c = .i32 then 0 else fpScale (cvtFormat c)

/-- The direction an F code rounds in (R107); the saturating ones round as the first two. -/
def cvtDirection : CvtRound → Round
  | .rne | .rnes => .rne
  | .rtz | .rtzs => .rtz
  | .rdn => .rdn
  | .rup => .rup

/-- A saturating F code (R107). -/
def cvtSaturates (rnd : CvtRound) : Bool := rnd == .rnes || rnd == .rtzs

/-- The integer `y` is what a direction makes of v / 2^k (R101). -/
def RoundsToInt (r : Round) (v : Int) (k : Nat) (y : Int) : Prop :=
  if r = .rne then 2 * (v - 2 ^ k * y).natAbs ≤ 2 ^ k ∧ (2 * (v - 2 ^ k * y).natAbs = 2 ^ k → y % 2 = 0)
  else if r = .rdn ∨ r = .rtz ∧ 0 ≤ v then 2 ^ k * y ≤ v ∧ v < 2 ^ k * (y + 1)
  else 2 ^ k * (y - 1) < v ∧ v ≤ 2 ^ k * y

/-- A conversion to i32 (R108): a NaN gives 0, a value out of range its clamp or 0x8000_0000, both with invalid alone. -/
def CvtToInt (src : CvtFmt) (rnd : CvtRound) (w : Nat) (res : Nat × Exc) : Prop :=
  let least := cvtNeg src w = true ∨ cvtSaturates rnd = false
  let outside := (if least then 0x80000000 else 0x7FFFFFFF, invalidIf true)
  if CvtNan src w then res = (0, invalidIf true)
  else if CvtInf src w then res = outside
  else ∀ y : Int, RoundsToInt (cvtDirection rnd) (cvtUnits src w) (cvtScale src) y →
    if y < -2 ^ 31 ∨ 2 ^ 31 - 1 < y then res = outside
    else res = ((y % 2 ^ 32).toNat, ⟨false, false, false, false, decide (2 ^ cvtScale src * y ≠ cvtUnits src w)⟩)

/-- The canonical NaN of a destination (Table 5.1); E2M1 takes 0 (R98). -/
def cvtQuiet (d : CvtFmt) : Nat := if d = .e4m3 then 0x7F else if d = .e2m1 then 0 else fpQuiet (cvtFormat d)

/-- A direction rounds a value of a sign to infinity where it overflows (Table 5.2). -/
def overflowsOut (rnd : CvtRound) (neg : Bool) : Bool :=
  rnd == .rne || rnd == .rup && !neg || rnd == .rdn && neg

/-- The overflowed value of Table 5.2 in a destination. -/
def cvtOverflowed (d : CvtFmt) (rnd : CvtRound) (neg : Bool) : Nat :=
  if d = .e4m3 then (if overflowsOut rnd neg = true then 0x7F else if neg = true then 0xFE else 0x7E)
  else if d = .e2m1 then (if neg = true then 15 else 7)
  else if overflowsOut rnd neg = true then fpInfinity (cvtFormat d) neg
  else fpZero (cvtFormat d) neg + (2 ^ (cvtFormat d).ebits - 1) * 2 ^ (cvtFormat d).fbits - 1

/-- v / 2^k units of a destination do not overflow (R101). E4M3 ends at 448, whose last place is 2^14 units, and 464 is a tie that goes
to it; E2M1 ends at 6. -/
def cvtStays (d : CvtFmt) (r : Round) (v : Int) (k : Nat) : Bool :=
  let f := cvtFormat d
  if d = .e4m3 then
    if r = .rne then decide (2 * v.natAbs ≤ 2 ^ k * (29 * 2 ^ 14)) else staysBelow r v k (15 * 2 ^ 14) (2 * 2 ^ 14)
  else
    let last := 2 ^ (2 ^ f.ebits - if d = .e2m1 then 2 else 3)
    staysBelow r v k (2 ^ (f.fbits + 1) * last) (2 * last)

/-- A VCVT element stands for a finite value. -/
abbrev CvtFinite (d : CvtFmt) (u : Nat) : Prop := ¬ CvtNan d u ∧ ¬ CvtInf d u

/-- A conversion to a floating-point format (R108, R101, R103): a NaN gives the canonical one, an infinity is exact where the destination
has it and overflows elsewhere, a finite value is rounded once, a zero keeping its sign. -/
def CvtToFloat (d src : CvtFmt) (rnd : CvtRound) (w : Nat) (res : Nat × Exc) : Prop :=
  let f := cvtFormat d
  let r := cvtDirection rnd
  let neg := cvtNeg src w
  let v := 2 ^ cvtScale d * cvtUnits src w
  let k := cvtScale src
  let overflowed := (cvtOverflowed d rnd neg, (⟨false, false, true, false, true⟩ : Exc))
  if CvtNan src w then res = (cvtQuiet d, invalidIf (decide (CvtSnan src w ∨ d = .e2m1)))
  else if CvtInf src w then
    res = if d = .e4m3 ∨ d = .e2m1 then overflowed else (fpInfinity f neg, Exc.none)
  else if v = 0 then res = (fpZero f neg, Exc.none)
  else if cvtStays d r v k = false then res = overflowed
  else
    res.1 < 2 ^ f.width ∧ CvtFinite d res.1 ∧ fpNeg f res.1 = neg ∧ RoundsAmong (CvtFinite d) f r v k res.1 ∧
    (res.2.nx = true ↔ 2 ^ k * fpUnits f res.1 ≠ v) ∧
    (res.2.uf = true ↔ res.2.nx = true ∧ staysBelow r v k (2 ^ f.fbits) 1 = true) ∧
    res.2.nv = false ∧ res.2.dz = false ∧ res.2.ovf = false

end Sys2Proof.Claims

/-- R411, R408, R416, R108, R414, R243 and R395 with R104: a vector floating-point instruction that issues, none of whose lanes
raises an exception that FPMODE traps, completes: the results stand in its lanes and in no other, and FPFLAGS gains the exceptions
its lanes raise.
R104: where lanes of a vector floating-point instruction raise exceptions that FPMODE traps, those lanes write nothing and set
no flag, every other lane completes, and the instruction ends by R280 with each such lane's fault of the lowest cause it raises.
R98, R101, R103 and R106: the element an addition, subtraction, multiplication, fused multiply and add, minimum or maximum
delivers, and its exceptions: the exact result rounded once in the direction of FPMODE, the overflowed result of Table 5.2, the
canonical NaN, infinities and signed zeros, with invalid, overflow, underflow and inexact exactly where R103 raises them.
R408 and R82: the truth and the invalid of a VFCMP of two elements. R108: the element and the exceptions of a VCVT, for every format and
rounding, with its ranges.
The sign of an exact zero sum is IEEE 754's (R106). What VSFN, SMXU and VSCAN compute beyond the words of R108, R395 and R414 is
the model's reading (logs 5 to 8). -/
def Obligations.VectorFloatEntry : Prop :=
  (∀ (i : Sys2Proof.Instr) (e : Sys2Proof.Claims.FpEffect) (s : Sys2Proof.Machine.State) (x : Sys2Proof.Machine.Iss),
      Sys2Proof.Claims.Issues i s x → Sys2Proof.Claims.fpEffect x i = some e →
      Sys2Proof.Claims.trappedIn x e.lanes e.exc = 0 →
      Sys2Proof.Machine.exec i s =
        .next (Sys2Proof.Claims.after i ((e.write e.lanes x).raise (Sys2Proof.Claims.raisedIn e.lanes e.exc)))) ∧
  (∀ (i : Sys2Proof.Instr) (e : Sys2Proof.Claims.FpEffect) (s : Sys2Proof.Machine.State) (x : Sys2Proof.Machine.Iss),
      Sys2Proof.Claims.Issues i s x → Sys2Proof.Claims.fpEffect x i = some e →
      Sys2Proof.Claims.trappedIn x e.lanes e.exc ≠ 0 →
      let ok := e.lanes &&& ~~~ Sys2Proof.Claims.trappedIn x e.lanes e.exc
      Sys2Proof.Machine.exec i s =
        .next (Sys2Proof.Machine.Iss.settle (Sys2Proof.Machine.infoOf i) (Sys2Proof.Claims.marks i x)
          ((e.write ok x).raise (Sys2Proof.Claims.raisedIn ok e.exc)) [] (Sys2Proof.Claims.fpTraps x e.lanes e.exc) none)) ∧
  (∀ (t : Sys2Proof.FltType) (r : Sys2Proof.Machine.Round) (x y z : Nat),
      let f := Sys2Proof.Machine.fltFormat t
      x < 2 ^ f.width → y < 2 ^ f.width → z < 2 ^ f.width →
      r = .rne ∨ r = .rtz ∨ r = .rdn ∨ r = .rup →
      Sys2Proof.Claims.AddValue f r false x y (Sys2Proof.Machine.fpBin f r .add x y) ∧
      Sys2Proof.Claims.AddValue f r true x y (Sys2Proof.Machine.fpBin f r .sub x y) ∧
      Sys2Proof.Claims.MulValue f r x y (Sys2Proof.Machine.fpBin f r .mul x y) ∧
      Sys2Proof.Claims.MinMaxValue f false x y (Sys2Proof.Machine.fpBin f r .min x y) ∧
      Sys2Proof.Claims.MinMaxValue f true x y (Sys2Proof.Machine.fpBin f r .max x y) ∧
      Sys2Proof.Claims.FmaValue f r x y z (Sys2Proof.Machine.fpFma f r x y z)) ∧
  (∀ (t : Sys2Proof.FltType) (c : Sys2Proof.CmpCond) (x y : Nat),
      let f := Sys2Proof.Machine.fltFormat t
      x < 2 ^ f.width → y < 2 ^ f.width →
      Sys2Proof.Claims.CompareValue f c x y (Sys2Proof.Machine.fpCompare f c x y)) ∧
  ∀ (d src : Sys2Proof.CvtFmt) (rnd : Sys2Proof.CvtRound) (w : Nat), d ≠ src →
    let e := w % 2 ^ Sys2Proof.Claims.cvtWidth src
    let res := Sys2Proof.Machine.cvtElem d src (Sys2Proof.Machine.cvtRound rnd) w
    (d = .i32 → Sys2Proof.Claims.CvtToInt src rnd e res) ∧ (d ≠ .i32 → Sys2Proof.Claims.CvtToFloat d src rnd e res)

/-- R406 for VBIT: a bit count or reversal that issues completes, and in the lanes of the active mask under m(M), and in no other,
every element of the destination is the count or reversal of the element of the source. -/
def Obligations.VectorBitEntry : Prop :=
  ∀ (t : Sys2Proof.IntType) (m : Sys2Proof.MReg) (fn : Sys2Proof.VBitFn) (a d : Sys2Proof.VReg) (mk : Bool)
    (s : Sys2Proof.Machine.State) (x : Sys2Proof.Machine.Iss),
    Sys2Proof.Claims.Issues (.vbit t m fn a d mk) s x →
    ∃ r : Fin 32 → Nat,
      Sys2Proof.Machine.exec (.vbit t m fn a d mk) s =
        .next (Sys2Proof.Claims.after (.vbit t m fn a d mk) (x.setLane t.isWide d (x.mask &&& x.m m) r)) ∧
      ∀ (L : Fin 32) (e : Nat), e < Sys2Proof.Machine.elemCount t →
        let n := Sys2Proof.Machine.elemBits t
        let w : BitVec n := BitVec.ofNat n (Sys2Proof.Claims.elem n e (x.lane t.isWide a L))
        Sys2Proof.Claims.elem n e (r L) =
          match fn with
          | .clz => w.clz.toNat
          | .popc => w.cpop.toNat
          | .ctz => w.ctz.toNat
          | .brev => w.reverse.toNat
          | .bswap => ((List.range (n / 8)).map fun k => (w.extractLsb' (8 * k) 8).toNat * 256 ^ (n / 8 - 1 - k)).sum

/-- R406, R415, R417 and R78: VSEL, VMOV, VIDX and VSHFL, when they issue, complete; the lanes
named get the value named, from the registers as they stood, and no other lane changes. -/
def Obligations.LaneMoveEntries : Prop :=
  ∀ (i : Sys2Proof.Instr) (d : Sys2Proof.VReg) (A : Sys2Proof.Machine.Iss → Sys2Proof.Mask)
    (f : Sys2Proof.Machine.Iss → Fin 32 → Sys2Proof.W32) (s : Sys2Proof.Machine.State) (x : Sys2Proof.Machine.Iss),
    Sys2Proof.Claims.laneEffect i = some (d, A, f) → Sys2Proof.Claims.Issues i s x →
    Sys2Proof.Machine.exec i s = .next (Sys2Proof.Claims.after i (x.setV d (A x) (f x)))

/-- R408 for VCMP: the compare completes, the bits of m(MD) for the lanes of the active mask under m(M) become the comparison of
their elements, signed or natural by the type, and the other bits keep their values; a write to m0 is discarded. -/
def Obligations.VectorCompareEntry : Prop :=
  ∀ (t : Sys2Proof.IntType) (m : Sys2Proof.MReg) (b a : Sys2Proof.VReg) (c : Sys2Proof.CmpCond) (md : Sys2Proof.MReg)
    (mk : Bool) (s : Sys2Proof.Machine.State) (x : Sys2Proof.Machine.Iss),
    Sys2Proof.Instr.wellFormed (.vcmp t m b a c md mk) = true →
    Sys2Proof.Claims.Issues (.vcmp t m b a c md mk) s x →
    ∃ w : Sys2Proof.Mask,
      Sys2Proof.Machine.exec (.vcmp t m b a c md mk) s =
        .next (Sys2Proof.Claims.after (.vcmp t m b a c md mk)
          (if md = 0 then x else { x with wv := { x.wv with m := x.wv.m.set md w } })) ∧
      ∀ L : Fin 32, w.getLsbD L.val =
        if (x.mask &&& x.m m).getLsbD L.val then
          Sys2Proof.Claims.cmpRule c (Sys2Proof.Machine.elemBits t) (Sys2Proof.Machine.elemSigned t)
            (BitVec.ofNat _ (x.lane t.isWide a L)) (BitVec.ofNat _ (x.lane t.isWide b L))
        else (x.m md).getLsbD L.val

/-- R413: a vote completes; s(D) is a lane mask zero-extended, with a bit clear for every lane outside the active mask under m(M)
and otherwise set as the vote says over the lanes of A in the lane's tile. -/
def Obligations.VoteEntry : Prop :=
  ∀ (m : Sys2Proof.MReg) (op : Sys2Proof.VoteOp) (a : Sys2Proof.VReg) (d : Sys2Proof.SReg) (mk : Bool)
    (s : Sys2Proof.Machine.State) (x : Sys2Proof.Machine.Iss),
    Sys2Proof.Claims.Issues (.vvote m op a d mk) s x →
    ∃ w : Sys2Proof.Mask,
      Sys2Proof.Machine.exec (.vvote m op a d mk) s =
        .next (Sys2Proof.Claims.after (.vvote m op a d mk) (x.setS d (w.setWidth 64))) ∧
      ∀ L : Fin 32, w.getLsbD L.val = true ↔
        (x.mask &&& x.m m).getLsbD L.val = true ∧
          Sys2Proof.Claims.voteRule op x.wv.tile (x.mask &&& x.m m) (x.v a) L

/-- R414 for the integer operations: the tree of a tile comes to the combination of its lanes of A in ascending order; VRED gives
it to every lane of A, and VSCAN gives a lane of A the combination of those at or below it, or below it, with the identity of R114
where there is none. -/
def Obligations.IntegerReductionAndScan : Prop :=
  ∀ (op : Sys2Proof.RedOp) (f : Sys2Proof.W32 → Sys2Proof.W32 → Sys2Proof.W32) (m : Sys2Proof.MReg)
    (a d : Sys2Proof.VReg) (mk : Bool) (s : Sys2Proof.Machine.State) (x : Sys2Proof.Machine.Iss),
    Sys2Proof.Claims.intRed op = some f →
    (Sys2Proof.Claims.Issues (.vred m op a d mk) s x →
      Sys2Proof.Machine.exec (.vred m op a d mk) s =
        .next (Sys2Proof.Claims.after (.vred m op a d mk) (x.setV d (x.mask &&& x.m m) fun L =>
          (Sys2Proof.Claims.foldRed f
            ((Sys2Proof.Claims.tileMates x.wv.tile (x.mask &&& x.m m) L).map (x.v a))).getD 0))) ∧
    ∀ excl : Bool, Sys2Proof.Claims.Issues (.vscan excl m op a d mk) s x →
      Sys2Proof.Machine.exec (.vscan excl m op a d mk) s =
        .next (Sys2Proof.Claims.after (.vscan excl m op a d mk) (x.setV d (x.mask &&& x.m m) fun L =>
          (Sys2Proof.Claims.foldRed f
            (((Sys2Proof.Claims.tileMates x.wv.tile (x.mask &&& x.m m) L).filter fun K =>
              if excl then decide (K < L) else decide (K ≤ L)).map (x.v a))).getD (Sys2Proof.Claims.intIdentity op)))
namespace Sys2Proof.Claims

open Sys2Proof.Machine

/-- The state after `i` has had the effect `y` and its split goes on at a PC. -/
def goesTo (i : Instr) (y : Iss) (pc : BitVec 48) : State :=
  ((y.markWrites (infoOf i) []).jumpTo (marks i y) pc).commit

/-- A condition holds (Table 4.6). -/
def condHolds (c : BrCond) (f : CC) : Prop :=
  match c with
  | .al => True
  | .eq => f.z = true
  | .ne => f.z = false
  | .lt => f.n ≠ f.v
  | .ge => f.n = f.v
  | .le => f.z = true ∨ f.n ≠ f.v
  | .gt => f.z = false ∧ f.n = f.v
  | .ltn => f.c = false
  | .gen => f.c = true
  | .ps => f.p = true
  | .pc => f.p = false
  | .ks => f.k = true
  | .kc => f.k = false

/-- The wave with the issuing split in its slot as `sp`; none: the slot is free. -/
def withSplit (x : Iss) (sp : Option Split) : Wave := { x.wv with splits := x.wv.splits.set x.slot sp }

/-- The state `x` was taken from, with the issuing wave as `w`. -/
def putWave (x : Iss) (w : Wave) : State := x.st.setTeam x.st.cur.team (x.tm.setWave x.st.cur.wave w)

/-- The issuing split waits at `i` as `y` leaves it, or its handler does, the split itself as it was (R282); where the instruction has
issued, its marker takes effect (R50). -/
def waits (i : Instr) (y : Iss) (w : Wait) : State :=
  let marker := y.wv.marker || (marks i y && w.issued)
  if y.inService = true then putWave y { withSplit y (some y.sp) with svcWait := some w, marker := marker }
  else putWave y { withSplit y (some { y.sp with status := .waiting w }) with marker := marker }

/-- The live split in a slot once the issuing one stands at its JOIN. -/
def standing (x : Iss) (j : Fin 4) : Option Split :=
  if j = x.slot then some { x.sp with only := none, status := .atJoin } else x.wv.splits[j]

/-- The splits `after_` are those of the wave with every live one merged at its JOIN (R31): for each PC the splits that stand there are
one split in the lowest of their slots, behind the JOIN, with the OR of their masks and pending-write bits, and the other slots are free. -/
def Merged (x : Iss) (after_ : Vector (Option Split) 4) : Prop :=
  ∀ j : Fin 4, (standing x j = none → after_[j] = none) ∧ ∀ o : Split, standing x j = some o →
    ((∃ (k : Fin 4) (p : Split), k < j ∧ standing x k = some p ∧ p.pc = o.pc) → after_[j] = none) ∧
    ((∀ (k : Fin 4) (p : Split), k < j → standing x k = some p → p.pc ≠ o.pc) → ∃ sp : Split, after_[j] = some sp ∧
      sp = { o with status := .ready, pc := o.pc + 4, mask := sp.mask, pend := sp.pend } ∧
      (∀ L : Nat, sp.mask.getLsbD L = true ↔
        ∃ (k : Fin 4) (p : Split), standing x k = some p ∧ p.pc = o.pc ∧ p.mask.getLsbD L = true) ∧
      ∀ r : Reg, sp.pend.has r = true ↔
        ∃ (k : Fin 4) (p : Split), standing x k = some p ∧ p.pc = o.pc ∧ p.pend.has r = true)

/-- The slots of a wave that hold another live split than the issuing one. -/
def others (x : Iss) (j : Fin 4) : Prop := j ≠ x.slot ∧ x.wv.splits[j] ≠ none

end Sys2Proof.Claims

/-- R335, R336, R337 and RET of R353: BR, BMZ, CALL and RET move the whole split to their target where they branch, and BR and BMZ
go on behind themselves where they do not; BMZ looks at the lanes it runs for (R286); CALL leaves the address of the next instruction in s63. Nothing else changes. -/
def Obligations.BranchEntries : Prop :=
  ∀ (s : Sys2Proof.Machine.State) (x : Sys2Proof.Machine.Iss) (mk : Bool),
    (∀ (off : BitVec 20) (c : Sys2Proof.BrCond), Sys2Proof.Claims.Issues (.br off c mk) s x →
      (Sys2Proof.Claims.condHolds c x.wv.cc →
        Sys2Proof.Machine.exec (.br off c mk) s =
          .next (Sys2Proof.Claims.goesTo (.br off c mk) x (x.pc + 2 * off.signExtend 48))) ∧
      (¬ Sys2Proof.Claims.condHolds c x.wv.cc →
        Sys2Proof.Machine.exec (.br off c mk) s = .next (Sys2Proof.Claims.after (.br off c mk) x))) ∧
    (∀ (off : BitVec 20) (z : Bool) (m : Sys2Proof.MReg), Sys2Proof.Claims.Issues (.bmz off z m mk) s x →
      ((z = true ∧ x.mask &&& x.m m = 0 ∨ z = false ∧ x.mask &&& x.m m ≠ 0) →
        Sys2Proof.Machine.exec (.bmz off z m mk) s =
          .next (Sys2Proof.Claims.goesTo (.bmz off z m mk) x (x.pc + 2 * off.signExtend 48))) ∧
      (¬ (z = true ∧ x.mask &&& x.m m = 0 ∨ z = false ∧ x.mask &&& x.m m ≠ 0) →
        Sys2Proof.Machine.exec (.bmz off z m mk) s = .next (Sys2Proof.Claims.after (.bmz off z m mk) x))) ∧
    (∀ off : BitVec 24, Sys2Proof.Claims.Issues (.call off mk) s x →
      Sys2Proof.Machine.exec (.call off mk) s =
        .next (Sys2Proof.Claims.goesTo (.call off mk) (x.setS 63 ((x.pc + 4).setWidth 64))
          (x.pc + 2 * off.signExtend 48))) ∧
    (∀ t : Sys2Proof.SReg, Sys2Proof.Claims.Issues (.ret t mk) s x →
      Sys2Proof.Machine.exec (.ret t mk) s =
        .next (Sys2Proof.Claims.goesTo (.ret t mk) x ((x.s t).extractLsb' 1 47 ++ 0#1)))

/-- R30 and R286: FORK of F := A AND m(M). With F zero the split goes on; with F its whole mask it moves to the target; else F moves to a
new split in the lowest free slot, at the target, with the issuing split's pending-write bits, and the issuing split keeps the rest;
with no slot free FORK traps SPLIT_LIMIT and changes nothing else.
That A is, for a FORK that a handler replays with a narrowed FMASK, the lanes of the replay, while F is compared with the whole mask of
the split, is the model's reading (DEDUCED, log 12), and no word of R30. -/
def Obligations.ForkEntry : Prop :=
  ∀ (off : BitVec 20) (m : Sys2Proof.MReg) (mk : Bool) (s : Sys2Proof.Machine.State) (x : Sys2Proof.Machine.Iss),
    Sys2Proof.Claims.Issues (.fork off m mk) s x →
    let F := x.mask &&& x.m m
    let target := x.pc + 2 * off.signExtend 48
    (F = 0 → Sys2Proof.Machine.exec (.fork off m mk) s = .next (Sys2Proof.Claims.after (.fork off m mk) x)) ∧
    (F ≠ 0 → F = x.sp.mask →
      Sys2Proof.Machine.exec (.fork off m mk) s = .next (Sys2Proof.Claims.goesTo (.fork off m mk) x target)) ∧
    (F ≠ 0 → F ≠ x.sp.mask → ∀ j : Fin 4, j ≠ x.slot → x.wv.splits[j] = none →
      (∀ k : Fin 4, k < j → k ≠ x.slot → x.wv.splits[k] ≠ none) →
      Sys2Proof.Machine.exec (.fork off m mk) s =
        .next (Sys2Proof.Claims.after (.fork off m mk) { x with
          sp := { x.sp with mask := x.sp.mask &&& ~~~F }
          wv := { x.wv with splits := x.wv.splits.set j (some
            { pc := target, mask := F, pend := x.sp.pend, status := .ready, only := none, repActive := false,
              repNext := 0, repCount := 0, repOnly := none, record := Sys2Proof.Machine.FaultRec.zero }) } })) ∧
    (F ≠ 0 → F ≠ x.sp.mask → (∀ k : Fin 4, k ≠ x.slot → x.wv.splits[k] ≠ none) →
      Sys2Proof.Machine.exec (.fork off m mk) s = .next (x.trapHere { cause := 0x07 }))

/-- R31: JOIN. While another live split of the wave does not stand at a JOIN, the split stands at its own; the only live split goes
on; where every live split stands at this JOIN, they merge into one split in the lowest of their slots, with the OR of their masks
and of their pending-write bits, behind the JOIN, and the other slots are freed.
R31, the partial merge: where every live split stands at a JOIN but not all at this one, WSTAT.JMIS is set, and for each PC the splits
that stand there merge so, each group by itself; nothing else of the wave changes. -/
def Obligations.JoinEntry : Prop :=
  (∀ (mk : Bool) (s : Sys2Proof.Machine.State) (x : Sys2Proof.Machine.Iss), Sys2Proof.Claims.Issues (.join mk) s x →
      let stands : Sys2Proof.Machine.Split := { x.sp with only := none, status := .atJoin }
      ((∃ (j : Fin 4) (sp : Sys2Proof.Machine.Split), j ≠ x.slot ∧ x.wv.splits[j] = some sp ∧ sp.status ≠ .atJoin) →
        Sys2Proof.Machine.exec (.join mk) s = .next (Sys2Proof.Claims.putWave x
          { Sys2Proof.Claims.withSplit x (some stands) with marker := x.wv.marker || mk })) ∧
      ((∀ j : Fin 4, j ≠ x.slot → x.wv.splits[j] = none) →
        Sys2Proof.Machine.exec (.join mk) s = .next (Sys2Proof.Claims.putWave x
          { Sys2Proof.Claims.withSplit x (some { stands with status := .ready, pc := x.sp.pc + 4 }) with
            marker := x.wv.marker || mk })) ∧
      ((∀ (j : Fin 4) (sp : Sys2Proof.Machine.Split), j ≠ x.slot → x.wv.splits[j] = some sp →
          sp.status = .atJoin ∧ sp.pc = x.sp.pc) →
        ∃ w : Sys2Proof.Machine.Wave, Sys2Proof.Machine.exec (.join mk) s = .next (Sys2Proof.Claims.putWave x w) ∧
          w = { x.wv with splits := w.splits, marker := x.wv.marker || mk } ∧
          ∃ (j : Fin 4) (sp : Sys2Proof.Machine.Split),
            (j = x.slot ∨ x.wv.splits[j] ≠ none) ∧
            (∀ k : Fin 4, k < j → k ≠ x.slot ∧ x.wv.splits[k] = none) ∧
            w.splits = (Vector.replicate 4 none).set j (some sp) ∧
            sp.status = .ready ∧ sp.pc = x.sp.pc + 4 ∧
            (∀ L : Nat, sp.mask.getLsbD L = true ↔
              x.sp.mask.getLsbD L = true ∨
                ∃ (k : Fin 4) (o : Sys2Proof.Machine.Split), k ≠ x.slot ∧ x.wv.splits[k] = some o ∧ o.mask.getLsbD L = true) ∧
            ∀ r : Sys2Proof.Machine.Reg, sp.pend.has r = true ↔
              x.sp.pend.has r = true ∨
                ∃ (k : Fin 4) (o : Sys2Proof.Machine.Split), k ≠ x.slot ∧ x.wv.splits[k] = some o ∧ o.pend.has r = true)) ∧
  (∀ (mk : Bool) (s : Sys2Proof.Machine.State) (x : Sys2Proof.Machine.Iss), Sys2Proof.Claims.Issues (.join mk) s x →
      (∀ (j : Fin 4) (sp : Sys2Proof.Machine.Split), j ≠ x.slot → x.wv.splits[j] = some sp → sp.status = .atJoin) →
      (∃ (j : Fin 4) (sp : Sys2Proof.Machine.Split), j ≠ x.slot ∧ x.wv.splits[j] = some sp ∧ sp.pc ≠ x.sp.pc) →
      ∃ after_ : Vector (Option Sys2Proof.Machine.Split) 4, Sys2Proof.Claims.Merged x after_ ∧
        Sys2Proof.Machine.exec (.join mk) s = .next (Sys2Proof.Claims.putWave x
          { x.wv with splits := after_, jmis := true, marker := x.wv.marker || mk }))

/-- R46 and R354: EXIT ends the lanes it is issued for. A split that keeps none ceases to exist, and the merge rule of R31 is
evaluated for the splits that are left; a wave left without a live split leaves every barrier. A killed wave stops where every split
left is parked. -/
def Obligations.ExitEntry : Prop :=
  ∀ (mk : Bool) (s : Sys2Proof.Machine.State) (x : Sys2Proof.Machine.Iss), Sys2Proof.Claims.Issues (.exit mk) s x →
    let whole := x.sp.only = none ∧ x.sp.repOnly = none
    (whole → (∀ j : Fin 4, j ≠ x.slot → x.wv.splits[j] = none) →
      Sys2Proof.Machine.exec (.exit mk) s = .next ((Sys2Proof.Claims.putWave x
        { x.wv with splits := Vector.replicate 4 none, marker := x.wv.marker || mk }).leaveBarriers x.tm
          { x.wv with splits := Vector.replicate 4 none, marker := x.wv.marker || mk })) ∧
    (whole → x.wv.cc.k = false →
      (∃ (j : Fin 4) (sp : Sys2Proof.Machine.Split), j ≠ x.slot ∧ x.wv.splits[j] = some sp ∧ sp.status ≠ .atJoin) →
      Sys2Proof.Machine.exec (.exit mk) s = .next (Sys2Proof.Claims.putWave x
        { Sys2Proof.Claims.withSplit x none with marker := x.wv.marker || mk })) ∧
    (whole → x.wv.cc.k = true → x.wv.status = .running → x.wv.svc = none →
      (∃ (j : Fin 4) (sp : Sys2Proof.Machine.Split), j ≠ x.slot ∧ x.wv.splits[j] = some sp) →
      (∀ (j : Fin 4) (sp : Sys2Proof.Machine.Split), j ≠ x.slot → x.wv.splits[j] = some sp → sp.status = .parked) →
      Sys2Proof.Machine.exec (.exit mk) s = .next ((Sys2Proof.Claims.putWave x
        { Sys2Proof.Claims.withSplit x none with marker := x.wv.marker || mk }).stopWave x.st.cur)) ∧
    (whole → x.wv.cc.k = false → (∃ j : Fin 4, j ≠ x.slot ∧ x.wv.splits[j] ≠ none) →
      (∀ (j : Fin 4) (sp : Sys2Proof.Machine.Split), j ≠ x.slot → x.wv.splits[j] = some sp → sp.status = .atJoin) →
      Sys2Proof.Machine.exec (.exit mk) s = .next (Sys2Proof.Claims.putWave x
        ({ Sys2Proof.Claims.withSplit x none with marker := x.wv.marker || mk }).joinStep))

/-- R270, R353, R295 and R421: KILLPT and YIELD stop a wave with cc.K = 1. With cc.K = 0 KILLPT has no effect; YIELD with cc.P = 1
leaves the wave yielded at a marker wait with LIVE := s(LM); with cc.P = 0 the unconditional form makes the wave the last placed
of all, and the other form has no effect. -/
def Obligations.KillPointEntries : Prop :=
  ∀ (s : Sys2Proof.Machine.State) (x : Sys2Proof.Machine.Iss) (mk u : Bool) (lm : Sys2Proof.SReg),
    (Sys2Proof.Claims.Issues (.killpt mk) s x → x.wv.cc.k = true →
      Sys2Proof.Machine.exec (.killpt mk) s = .next (x.commit.stopWave x.st.cur)) ∧
    (Sys2Proof.Claims.Issues (.killpt mk) s x → x.wv.cc.k = false →
      Sys2Proof.Machine.exec (.killpt mk) s = .next (Sys2Proof.Claims.after (.killpt mk) x)) ∧
    (Sys2Proof.Claims.Issues (.yieldWave u lm mk) s x → x.wv.cc.k = true →
      Sys2Proof.Machine.exec (.yieldWave u lm mk) s = .next (x.commit.stopWave x.st.cur)) ∧
    (Sys2Proof.Claims.Issues (.yieldWave u lm mk) s x → x.wv.cc.k = false → x.wv.cc.p = true →
      Sys2Proof.Machine.exec (.yieldWave u lm mk) s = .next (Sys2Proof.Claims.after (.yieldWave u lm mk)
        { x with wv := { x.wv with yielded := true, live := x.s lm, marker := true } })) ∧
    (Sys2Proof.Claims.Issues (.yieldWave false lm mk) s x → x.wv.cc.k = false → x.wv.cc.p = false →
      Sys2Proof.Machine.exec (.yieldWave false lm mk) s = .next (Sys2Proof.Claims.after (.yieldWave false lm mk) x)) ∧
    (Sys2Proof.Claims.Issues (.yieldWave true lm mk) s x → x.wv.cc.k = false → x.wv.cc.p = false →
      ∃ n : Nat, (∀ t ∈ s.teams, ∀ w ∈ t.waves, w.placed < n) ∧
        Sys2Proof.Machine.exec (.yieldWave true lm mk) s =
          .next (Sys2Proof.Claims.after (.yieldWave true lm mk) { x with wv := { x.wv with placed := n } }))

/-- R89, R91 and R92: a REP whose target stands whole in the text, is a legal target and keeps every repeat within the limits of its
encoding and of the wave's role starts at repeat 0 with COUNT in REPC; a target that is no legal one traps REP_TARGET, and one
outside the text traps BOUNDS, at the REP.
REPC as these traps leave it, and the lanes of a REP that a replay limits, are the model's reading (log 62). -/
def Obligations.RepEntry : Prop :=
  ∀ (stride : Fin 4) (sb sa sd : Bool) (count : Fin 64) (mk : Bool) (s : Sys2Proof.Machine.State)
    (x : Sys2Proof.Machine.Iss), Sys2Proof.Claims.Issues (.rep stride sb sa sd count mk) s x → x.sp.repActive = false →
    (∀ a : Nat, Sys2Proof.Machine.wordAt x.text (x.pc.toNat + 4) = .outside a →
      Sys2Proof.Machine.exec (.rep stride sb sa sd count mk) s =
        .next (x.trapHere { cause := 0x20, info := 2 ^ 13 + 2 ^ 14, addr := a })) ∧
    (∀ w : Nat, Sys2Proof.Machine.wordAt x.text (x.pc.toNat + 4) = .bits w → Sys2Proof.Machine.repTarget w = false →
      Sys2Proof.Machine.exec (.rep stride sb sa sd count mk) s = .next (x.trapHere { cause := 0x08 })) ∧
    (∀ w : Nat, Sys2Proof.Machine.wordAt x.text (x.pc.toNat + 4) = .bits w → Sys2Proof.Machine.repTarget w = true →
      (∃ n ≤ count.val, ∀ t,
        Sys2Proof.Machine.repeatOf (Sys2Proof.Machine.repWord stride sb sa sd count) w n = some t →
          (Sys2Proof.Machine.infoOf t).inPool x.tm.vregs = false) →
      Sys2Proof.Machine.exec (.rep stride sb sa sd count mk) s = .next (x.trapHere { cause := 0x01 })) ∧
    (∀ w : Nat, Sys2Proof.Machine.wordAt x.text (x.pc.toNat + 4) = .bits w → Sys2Proof.Machine.repTarget w = true →
      (∀ n ≤ count.val, ∃ t,
        Sys2Proof.Machine.repeatOf (Sys2Proof.Machine.repWord stride sb sa sd count) w n = some t ∧
          (Sys2Proof.Machine.infoOf t).inPool x.tm.vregs = true ∧ (Sys2Proof.Machine.infoOf t).roleOk x = true) →
      Sys2Proof.Machine.exec (.rep stride sb sa sd count mk) s = .next (Sys2Proof.Claims.goesTo
        (.rep stride sb sa sd count mk)
        { x with sp := { x.sp with repActive := true, repNext := 0, repCount := BitVec.ofNat 6 count.val, repOnly := x.sp.only } } x.sp.pc))
namespace Sys2Proof.Claims

open Sys2Proof.Machine

/-- A number whose bit n is set where slot n holds a live split other than the issuing one. -/
def IsSibs (x : Iss) (n : BitVec 4) : Prop := ∀ j : Fin 4, n.getLsbD j.val = true ↔ others x j

/-- The OR of the active masks of the live splits other than the issuing one. -/
def IsSiblanes (x : Iss) (m : Mask) : Prop :=
  ∀ L : Nat, m.getLsbD L = true ↔
    ∃ (j : Fin 4) (sp : Split), j ≠ x.slot ∧ x.wv.splits[j] = some sp ∧ sp.mask.getLsbD L = true

/-- A fault record as Tables 14.4 and 14.6 and R289 fill it for a split trap of the issuing split, with TEPC at `epc`. -/
structure IsTrapRecord (x : Iss) (t : Trap) (at_ : BitVec 48) (r : FaultRec) : Prop where
  cause : r.cause = BitVec.ofNat 8 t.cause
  noslot : r.noslot = false
  lane : r.lane = false
  info : r.info = BitVec.ofNat 32 t.info
  fmask : r.fmask = x.sp.mask
  siblanes : IsSiblanes x r.siblanes
  slot : r.slot = BitVec.ofNat 2 x.slot.val
  sibs : IsSibs x r.sibs
  epc : r.epc = at_
  addr : r.addr = BitVec.ofNat 64 t.addr
  pc : r.pc = at_

/-- No matrix or accumulator instruction of the issuing wave waits or runs: every register result of it is written. -/
def ResultsWritten (x : Iss) : Prop :=
  ∀ c ∈ x.st.cores, c.die = x.tm.die → ∀ q ∈ c.queue, q.team = x.tm.serial → q.wave ≠ x.wv.number.val

/-- Pending-write bits of a wave cleared in every split. -/
def noPending (w : Wave) : Wave :=
  { w with splits := w.splits.map fun o => o.map fun sp => { sp with pend := ⟨0, 0, 0, 0, 0, 0⟩ } }

/-- The issuing wave as its split enters service mode with a fault record (R283): every pending-write bit clear, the handler's entry
in PC. -/
def inServiceWith (x : Iss) (r : FaultRec) : Wave :=
  { noPending (withSplit x (some { x.sp with status := .trapped, only := none, record := r })) with
    marker := false, svc := some x.slot, svcPc := BitVec.ofNat 48 (x.wv.tvecEntry.toNat * 64), svcWait := none }

/-- A split of the wave may enter service mode at once: every register result of the wave is written, and the wave is not parked
(R283, R288). -/
def MayEnter (x : Iss) : Prop := ResultsWritten x ∧ x.wv.park = none

/-- The event of kind 0xF1 of a wave that parks for good (R287, Table 14.3): the fault of its record, the cause that met it then and where. -/
def parkEvent (x : Iss) (r : FaultRec) (second at_ : Nat) : PendingRecord :=
  { ctx := x.tm.ctx, obj := 1, pos := none, slot := 0
    bytes := eventBytes 0xF1 0 0 (srcOf x.tm.die x.wv.core x.wv.number.val) 0
      (leBytes 4 (r.cause.toNat + second * 2 ^ 8 + bit r.noslot * 2 ^ 16) ++ leBytes 8 r.pc.toNat ++
        leBytes 4 r.fmask.toNat ++ leBytes 4 r.info.toNat ++ leBytes 4 (widOf x.tm.die x.wv) ++ leBytes 4 x.tm.serial.toNat ++
        leBytes 8 r.addr.toNat ++ leBytes 4 at_)
    wid := widOf x.tm.die x.wv, team := x.tm.serial, posted := false, told := none, order := none }

/-- The issuing team with its wave parked for good; with DUMPOBJ.AUTO = 1 its stop for a dump begins (R317). -/
def parkedTeam (x : Iss) (w : Wave) (cause : BitVec 8) : Team :=
  let t := x.tm.setWave x.st.cur.wave { w with svcWait := none, park := some .service }
  if x.wv.dumpobj.getLsbD 31 = true ∧ x.tm.halt = .none then
    { t with halt := .stopping cause (some (x.wv.number.val, x.slot)) 0 true }
  else t

/-- The wave `w` parked for good, its event given to the home of the context's fault stream (R155, R287). -/
def parkedWith (x : Iss) (w : Wave) (r : FaultRec) (second at_ : Nat) : State :=
  let home := x.st.homeDie x.tm.ctx 1
  (x.st.setTeam x.st.cur.team (parkedTeam x w r.cause)).setDie home
    { x.st.dies[home] with records := x.st.dies[home].records ++ [parkEvent x r second at_] }

/-- The bits of a split's pending-write bits after an instruction that writes some registers. -/
def IsMarked (p q : Pending) (writes : List Reg) : Prop :=
  ∀ r : Reg, q.has r = true ↔ p.has r = true ∨ (r ∈ writes ∧ r ≠ .m 0 ∧
    match r with
    | .v n | .s n => n < 64
    | .m n => n < 8
    | .k n | .a n => n < 16
    | .f _ => True)

/-- An encoding of the service subset (Table 14.2). -/
def InSubset (w : Nat) : Prop :=
  let major := w / 4 % 64
  let sub := w / 256 % 16
  w % 2 = 1 ∧ (0x1C ≤ major ∧ major ≤ 0x1F ∨ major = 0x2A ∨ major = 0x2C ∨ major = 0x3C ∧ (sub ≤ 4 ∨ sub = 6))

/-- The registers an instruction reads: those its fields name, and k0 by a BLD with KS = 0 that does not read the scratchpad (R334). -/
def regsRead (i : Instr) (x : Iss) : List Reg :=
  match i with
  | .bld _ p ks _ => if ks = 0 ∧ (x.s p).getLsbD 32 = false then .k 0 :: (infoOf i).reads else (infoOf i).reads
  | _ => (infoOf i).reads

/-- The bytes of a REP with its target, whose length its lowest bit gives (R76, R89). -/
def repSpan (x : Iss) : Nat :=
  match wordAt x.text (x.sp.pc.toNat + 4) with
  | .bits w => if w % 2 = 0 then 6 else 8
  | .outside _ => 8

end Sys2Proof.Claims

/-- R50, R51, R76 and R91: what follows an instruction's own effect. The registers it writes are pending in its
split (m0 never), the marker holds the wave where S = 1, unless it took effect before a wait, PC advances by the instruction's length; in a REP the next repeat is
next, and after the last one PC stands behind the target. In service mode the handler's PC advances, and the split stays as it is but for
its pending-write bits (R282). A split that goes on elsewhere has that PC. Nothing else changes.
That results stand in State from the issue on, kept from readers by the pending-write bits of the issuing split, is the model's choice
(logs 9, 10). -/
def Obligations.AfterAnInstruction : Prop :=
  ∀ (i : Sys2Proof.Instr) (y : Sys2Proof.Machine.Iss),
    (y.inService = true → ∃ p : Sys2Proof.Machine.Pending,
      Sys2Proof.Claims.IsMarked y.sp.pend p (Sys2Proof.Machine.infoOf i).writes ∧
      Sys2Proof.Claims.after i y = Sys2Proof.Claims.putWave y
        { Sys2Proof.Claims.withSplit y (some { y.sp with pend := p }) with
          svcPc := y.wv.svcPc + BitVec.ofNat 48 (Sys2Proof.Machine.infoOf i).len, svcWait := none
          marker := y.wv.marker || Sys2Proof.Claims.marks i y }) ∧
    (∀ pc : BitVec 48, ∃ p : Sys2Proof.Machine.Pending,
      Sys2Proof.Claims.IsMarked y.sp.pend p (Sys2Proof.Machine.infoOf i).writes ∧
      Sys2Proof.Claims.goesTo i y pc = Sys2Proof.Claims.putWave y
        { Sys2Proof.Claims.withSplit y (some { y.sp with pend := p, status := .ready, only := none, pc := pc }) with
          marker := y.wv.marker || Sys2Proof.Claims.marks i y }) ∧
    (y.inService = false → ∃ sp : Sys2Proof.Machine.Split,
      Sys2Proof.Claims.IsMarked y.sp.pend sp.pend (Sys2Proof.Machine.infoOf i).writes ∧
      (y.sp.repActive = false →
        sp = { y.sp with pend := sp.pend, status := .ready, only := none,
                         pc := y.sp.pc + BitVec.ofNat 48 (Sys2Proof.Machine.infoOf i).len } ∧
        Sys2Proof.Claims.after i y = Sys2Proof.Claims.putWave y
          { Sys2Proof.Claims.withSplit y (some sp) with marker := y.wv.marker || Sys2Proof.Claims.marks i y }) ∧
      (y.sp.repActive = true → y.sp.repNext.toNat < y.sp.repCount.toNat →
        sp = { y.sp with pend := sp.pend, status := .ready, only := none, repNext := y.sp.repNext + 1 } ∧
        Sys2Proof.Claims.after i y = Sys2Proof.Claims.putWave y (Sys2Proof.Claims.withSplit y (some sp))) ∧
      (y.sp.repActive = true → y.sp.repCount.toNat ≤ y.sp.repNext.toNat →
        sp = { y.sp with pend := sp.pend, status := .ready, only := none, repActive := false, repNext := 0, repCount := 0,
                         repOnly := none
                         pc := y.sp.pc + 4 + BitVec.ofNat 48 (Sys2Proof.Machine.infoOf i).len } ∧
        Sys2Proof.Claims.after i y = Sys2Proof.Claims.putWave y
          { Sys2Proof.Claims.withSplit y (some sp) with marker := y.wv.marker || Sys2Proof.Claims.marks i y }))

/-- R52 and R285: the checks at issue, for every encoded instruction, in their order: in service mode an encoding outside Table 14.2 traps
ILLEGAL_OP; a vector register at or above
POOLW.VREGS traps ILLEGAL_FIELD, a privileged form outside service mode, and one that is never allowed, PRIVILEGED, a class its wave's
role or its team's array does not allow ROLE, a
pending register read HAZARD_RAW, and a pending register written and not read HAZARD_WAW. Each traps at the instruction before
any effect, in service mode as R287 has it. -/
def Obligations.ChecksAtIssue : Prop :=
  ∀ (i : Sys2Proof.Instr) (n w : Nat) (s : Sys2Proof.Machine.State) (x : Sys2Proof.Machine.Iss),
    Sys2Proof.encode i = some (n, w) → Sys2Proof.Machine.checkout s = some x → x.inService = true ∨ x.sp.only ≠ some 0 →
    let f := Sys2Proof.Machine.infoOf i
    let decodes := x.inService = true → Sys2Proof.Claims.InSubset w
    let inPool := decodes ∧ ∀ n ∈ f.vectors, n < x.tm.vregs
    let mayRun := f.priv = .any ∨ f.priv = .service ∧ x.inService = true
    let roleFits := Sys2Proof.Machine.roleAllows x.wv.role f.cls = true ∧ (f.array = true → x.tm.array = true)
    let reads := Sys2Proof.Claims.regsRead i x
    let noRaw := ∀ r ∈ reads, x.sp.pend.has r = false
    (¬ decodes → Sys2Proof.Machine.exec i s = .next (x.trapHere { cause := 0x00 })) ∧
    (decodes → ¬ inPool → Sys2Proof.Machine.exec i s = .next (x.trapHere { cause := 0x01 })) ∧
    (inPool → ¬ mayRun → Sys2Proof.Machine.exec i s = .next (x.trapHere { cause := 0x03 })) ∧
    (inPool → mayRun → ¬ roleFits → Sys2Proof.Machine.exec i s = .next (x.trapHere { cause := 0x04 })) ∧
    (inPool → mayRun → roleFits → ¬ noRaw → Sys2Proof.Machine.exec i s = .next (x.trapHere { cause := 0x05 })) ∧
    (inPool → mayRun → roleFits → noRaw →
      (∃ r ∈ f.writes, x.sp.pend.has r = true ∧ r ∉ reads) →
      Sys2Proof.Machine.exec i s = .next (x.trapHere { cause := 0x06 })) ∧
    (inPool → mayRun → roleFits → noRaw →
      (∀ r ∈ f.writes, x.sp.pend.has r = true → r ∈ reads) → Sys2Proof.Claims.Issues i s x)

/-- R283 and R289: a split trap outside service mode. The split keeps its fault record; with every result of the wave written, the wave not
parked and a handler named, it enters service mode at once, with every pending-write bit clear and PC at the handler's entry; with results
in flight, or while the wave is parked (R288), it stands trapped. Nothing else of the machine changes: no register, no flag, no byte.
R287: a trap raised in service mode parks the wave, which stays in service mode at the trapping instruction; entry with no handler
parks it too, with SECOND 0xA1. One event of kind 0xF1 is given to the home of the context's fault stream, identity 1, laid out as in
Table 14.3; with DUMPOBJ.AUTO the team's stop for a dump begins. A wave with cc.K = 1 stops instead.
What the record captures, that entry comes at once where nothing is in flight, that the stop posts no event, and what AUTO does in a stop
under way are the model's reading (logs 11, 13, 57, 63). -/
def Obligations.TrapEntry : Prop :=
  (∀ (x : Sys2Proof.Machine.Iss) (t : Sys2Proof.Machine.Trap), x.inService = false →
      x.st.teams[x.st.cur.team]? = some x.tm → x.tm.waves[x.st.cur.wave]? = some x.wv → x.st.cur.slot = x.slot →
      ∃ r : Sys2Proof.Machine.FaultRec, Sys2Proof.Claims.IsTrapRecord x t x.sp.pc r ∧
        (Sys2Proof.Claims.MayEnter x → x.wv.tvecObj ≠ 0 →
          x.trapHere t = Sys2Proof.Claims.putWave x (Sys2Proof.Claims.inServiceWith x r)) ∧
        (¬ Sys2Proof.Claims.MayEnter x →
          x.trapHere t = Sys2Proof.Claims.putWave x
            (Sys2Proof.Claims.withSplit x (some { x.sp with status := .trapped, only := none, record := r }))) ∧
        (Sys2Proof.Claims.MayEnter x → x.wv.tvecObj = 0 →
          let w := { Sys2Proof.Claims.noPending (Sys2Proof.Claims.withSplit x
            (some { x.sp with status := .trapped, only := none, record := r })) with marker := false }
          (x.wv.cc.k = false → x.trapHere t = Sys2Proof.Claims.parkedWith x w r 0xA1 0) ∧
          (x.wv.cc.k = true → x.trapHere t = (Sys2Proof.Claims.putWave x w).stopWave x.st.cur))) ∧
  (∀ (x : Sys2Proof.Machine.Iss) (t : Sys2Proof.Machine.Trap), x.wv.svc = some x.slot →
      x.st.teams[x.st.cur.team]? = some x.tm → x.tm.waves[x.st.cur.wave]? = some x.wv → x.st.cur.slot = x.slot →
      let w := Sys2Proof.Claims.withSplit x (some x.sp)
      (x.wv.cc.k = false →
        x.trapHere t = Sys2Proof.Claims.parkedWith x w x.sp.record t.cause x.wv.svcPc.toNat) ∧
      (x.wv.cc.k = true → x.trapHere t = (Sys2Proof.Claims.putWave x w).stopWave x.st.cur))

/-- R287 and R332: TRAP outside service mode is a split trap with cause 0xC0 + n and TEPC at the next instruction, and so is BKPT
with cause 0xE0 + n while no debugger is attached; with one attached BKPT starts the stop of its team and goes on. -/
def Obligations.TrapAndBkptEntries : Prop :=
  ∀ (s : Sys2Proof.Machine.State) (x : Sys2Proof.Machine.Iss) (mk : Bool) (n : Fin 32) (b : Fin 16),
    (Sys2Proof.Claims.Issues (.trap n mk) s x → x.inService = false →
      ∃ r : Sys2Proof.Machine.FaultRec,
        Sys2Proof.Claims.IsTrapRecord x { cause := 0xC0 + n.val } (x.sp.pc + 4) r ∧
        (Sys2Proof.Claims.MayEnter x → x.wv.tvecObj ≠ 0 →
          Sys2Proof.Machine.exec (.trap n mk) s =
            .next (Sys2Proof.Claims.putWave x (Sys2Proof.Claims.inServiceWith x r)))) ∧
    (Sys2Proof.Claims.Issues (.trap n mk) s x → x.inService = true →
      Sys2Proof.Machine.exec (.trap n mk) s = .next (x.trapHere { cause := 0xC0 + n.val })) ∧
    (Sys2Proof.Claims.Issues (.bkpt b mk) s x → (x.st.ctx x.tm.ctx).dbg.attach = false →
      ∃ r : Sys2Proof.Machine.FaultRec,
        Sys2Proof.Claims.IsTrapRecord x { cause := 0xE0 + b.val } (x.sp.pc + 4) r ∧
        (Sys2Proof.Claims.MayEnter x → x.wv.tvecObj ≠ 0 →
          Sys2Proof.Machine.exec (.bkpt b mk) s =
            .next (Sys2Proof.Claims.putWave x (Sys2Proof.Claims.inServiceWith x r)))) ∧
    (Sys2Proof.Claims.Issues (.bkpt b mk) s x → (x.st.ctx x.tm.ctx).dbg.attach = true →
      Sys2Proof.Machine.exec (.bkpt b mk) s =
        .next (Sys2Proof.Claims.after (.bkpt b mk) (x.debugStop (0xE0 + b.val))))

/-- R286: RETT in service mode. With cc.K = 0 the wave leaves service mode, its pending-write bits clear, and the split resumes at
TEPC; where TEPC is the PC at which it trapped, the instruction there runs for the lanes of TREC.FMASK only. With cc.K = 1 the
wave stops.
That the repeats of a REP stay limited to the lanes of a replay of it is the model's reading (log 62). -/
def Obligations.RettEntry : Prop :=
  ∀ (s : Sys2Proof.Machine.State) (x : Sys2Proof.Machine.Iss) (mk : Bool),
    Sys2Proof.Claims.Issues (.rett mk) s x → x.wv.svc = some x.slot ∧
    (x.wv.cc.k = false → Sys2Proof.Machine.exec (.rett mk) s = .next (Sys2Proof.Claims.putWave x
      { Sys2Proof.Claims.noPending (Sys2Proof.Claims.withSplit x (some { x.sp with
          status := .ready, pc := x.sp.record.epc
          only := if x.sp.record.epc = x.sp.record.pc then some (x.sp.mask &&& x.sp.record.fmask) else none
          repOnly := if x.sp.record.epc = x.sp.record.pc ∧ x.sp.repActive = true then x.sp.repOnly else none })) with
        svc := none, svcWait := none, marker := mk })) ∧
    (x.wv.cc.k = true → Sys2Proof.Machine.exec (.rett mk) s =
      .next ((Sys2Proof.Claims.putWave x { Sys2Proof.Claims.withSplit x (some x.sp) with svc := none }).stopWave x.st.cur))

/-- R280: how an instruction with faulting lanes F ends, outside a REP and outside service mode, once its other lanes have had their
effect `y`. With F the whole mask the split itself parks at the instruction; with a slot free F parks in the lowest one, with the
pending-write bits and the fault record, and the rest goes on; with none free the split traps with NOSLOT. The record names
the lowest cause any lane of F raised, and the INFO and TADDR of the lowest lane that raised it. R270: a killed wave whose only split
parks so stops.
Lanes left unfinished beside faulting ones are the model's reading (log 16). -/
def Obligations.LaneFaultEndings : Prop :=
  ∀ (i : Sys2Proof.Instr) (y : Sys2Proof.Machine.Iss) (faults : List Sys2Proof.Machine.LaneFault)
    (f : Sys2Proof.Machine.LaneFault), y.inService = false → y.sp.repActive = false → f ∈ faults →
    (∀ g ∈ faults, f.cause < g.cause ∨ f.cause = g.cause ∧ f.lane ≤ g.lane) → f.cause < 256 →
    (∀ g ∈ faults, g.lane = f.lane → g.cause = f.cause → g = f) →
    (∀ g ∈ faults, y.sp.mask.getLsbD g.lane.val = true) →
    let F := Sys2Proof.Machine.maskOf fun L => faults.any fun g => g.lane == L
    let ended := Sys2Proof.Machine.Iss.settle (Sys2Proof.Machine.infoOf i) (Sys2Proof.Claims.marks i y) y [] faults none
    ∃ (r : Sys2Proof.Machine.FaultRec) (p : Sys2Proof.Machine.Pending),
      r.cause = BitVec.ofNat 8 f.cause ∧ r.lane = true ∧ r.info = BitVec.ofNat 32 f.info ∧
      r.addr = BitVec.ofNat 64 f.addr ∧ r.fmask = F ∧ r.epc = y.sp.pc ∧ r.pc = y.sp.pc ∧
      Sys2Proof.Claims.IsMarked y.sp.pend p (Sys2Proof.Machine.infoOf i).writes ∧
      (F = y.sp.mask → r.noslot = false ∧ r.slot = BitVec.ofNat 2 y.slot.val ∧
        let parked := Sys2Proof.Claims.putWave y { Sys2Proof.Claims.withSplit y
          (some { y.sp with pend := p, status := .parked, only := none, record := r }) with
          marker := y.wv.marker || Sys2Proof.Claims.marks i y }
        (y.wv.cc.k = false → ended = parked) ∧
        (y.wv.cc.k = true → y.st.teams[y.st.cur.team]? ≠ none → y.st.cur.wave < y.tm.waves.length → y.wv.status = .running →
          y.wv.svc = none → (∀ k : Fin 4, k ≠ y.slot → y.wv.splits[k] = none) → ended = parked.stopWave y.st.cur)) ∧
      (F ≠ y.sp.mask → ∀ j : Fin 4, j ≠ y.slot → y.wv.splits[j] = none →
        (∀ k : Fin 4, k < j → k ≠ y.slot → y.wv.splits[k] ≠ none) →
        r.noslot = false ∧ r.slot = BitVec.ofNat 2 j.val ∧
        ended = Sys2Proof.Claims.putWave y { y.wv with
          splits := (y.wv.splits.set j (some { y.sp with
            pend := p, mask := F, status := .parked, only := none, record := r })).set y.slot (some { y.sp with
            pend := p, mask := y.sp.mask &&& ~~~F, status := .ready, only := none
            pc := y.sp.pc + BitVec.ofNat 48 (Sys2Proof.Machine.infoOf i).len })
          marker := y.wv.marker || Sys2Proof.Claims.marks i y }) ∧
      (F ≠ y.sp.mask → (∀ k : Fin 4, k ≠ y.slot → y.wv.splits[k] ≠ none) → Sys2Proof.Claims.MayEnter y →
        y.st.teams[y.st.cur.team]? ≠ none → y.st.cur.slot = y.slot → y.st.cur.wave < y.tm.waves.length →
        y.wv.tvecObj ≠ 0 →
        r.noslot = true ∧ ended = Sys2Proof.Claims.putWave y (Sys2Proof.Claims.inServiceWith y r))

/-- R288 and R53: an instruction that leaves lanes U unfinished and has no faulting lane: the wave parks with the split held at the
instruction and U recorded, in service mode with its handler held there, and the event of R154 is posted; with results of the wave in
flight both come once these are written. R270: a killed wave stops instead.
R286 and R93: an FMASK of zero skips the instruction at P, a REP with its target, whether or not repeats of it are still to run: an encoded
instruction that a replay runs for no lane, and a word that is no instruction, have no effect but PC's advance; of an interrupted REP a
repeat that runs for no lane counts as done.
The lanes a replay runs for, what a REP is skipped with, the one page that the event names, and that the stop posts no event, are the model's
reading (logs 12, 57, 58, 62). -/
def Obligations.ReplayablePark : Prop :=
  (∀ (i : Sys2Proof.Instr) (y : Sys2Proof.Machine.Iss) (u : Sys2Proof.Machine.Unfinished),
      let ended := Sys2Proof.Machine.Iss.settle (Sys2Proof.Machine.infoOf i) (Sys2Proof.Claims.marks i y) y [] [] (some u)
      let held := if y.inService = true then y.sp else { y.sp with only := some u.lanes, status := .ready }
      let parkedAs := fun (p : Sys2Proof.Machine.Park) => Sys2Proof.Claims.putWave y
        { Sys2Proof.Claims.withSplit y (some held) with svcWait := none, park := some p }
      (y.wv.cc.k = false → Sys2Proof.Claims.ResultsWritten y →
        ended = (parkedAs (.replayable y.slot u.lanes u.obj)).postTranslation y.tm.die y.wv.core y.wv.number.val y.tm.ctx
          (Sys2Proof.Machine.widOf y.tm.die y.wv) y.tm.serial u.cause u.obj u.page u.mgen u.access) ∧
      (y.wv.cc.k = false → ¬ Sys2Proof.Claims.ResultsWritten y →
        ended = parkedAs (.due y.slot u.lanes u.obj u.cause u.page u.mgen u.access)) ∧
      (y.wv.cc.k = true → ended = (parkedAs (.replayable y.slot u.lanes u.obj)).stopWave y.st.cur)) ∧
  ∀ (s : Sys2Proof.Machine.State) (x : Sys2Proof.Machine.Iss), Sys2Proof.Machine.checkout s = some x → x.inService = false →
    x.sp.only = some 0 →
    let as := fun (sp : Sys2Proof.Machine.Split) =>
      Sys2Proof.Claims.putWave x (Sys2Proof.Claims.withSplit x (some { sp with status := .ready, only := none }))
    let past := fun (n : Nat) => as { x.sp with pc := x.sp.pc + BitVec.ofNat 48 n }
    let pastRep := fun (n : Nat) => as { x.sp with
      repActive := false, repNext := 0, repCount := 0, repOnly := none, pc := x.sp.pc + BitVec.ofNat 48 n }
    (∀ i : Sys2Proof.Instr, (Sys2Proof.encode i).isSome = true →
      (∀ (st : Fin 4) (a b c : Bool) (n : Fin 64) (mk : Bool), i ≠ .rep st a b c n mk) →
      let len := (Sys2Proof.Machine.infoOf i).len
      (x.sp.repActive = false → Sys2Proof.Machine.exec i s = .next (past len)) ∧
      (x.sp.repActive = true → x.sp.repNext.toNat < x.sp.repCount.toNat →
        Sys2Proof.Machine.exec i s = .next (as { x.sp with repNext := x.sp.repNext + 1 })) ∧
      (x.sp.repActive = true → x.sp.repCount.toNat ≤ x.sp.repNext.toNat → len = 4 →
        Sys2Proof.Machine.exec i s = .next (pastRep 8))) ∧
    (∀ (st : Fin 4) (a b c : Bool) (n : Fin 64) (mk : Bool),
      Sys2Proof.Machine.exec (.rep st a b c n mk) s = .next (pastRep (Sys2Proof.Claims.repSpan x))) ∧
    ∀ (w : Nat) (e : Sys2Proof.DecodeErr), Sys2Proof.Machine.wordAt x.text x.sp.pc.toNat = .bits w →
      Sys2Proof.decodeWord w = .error e → x.sp.repActive = false ∨ Sys2Proof.Machine.isRep w = true →
      Sys2Proof.Machine.exec .unassignedEncoding s =
        .next (if Sys2Proof.Machine.isRep w = true then pastRep (Sys2Proof.Claims.repSpan x) else past (if w % 2 = 0 then 2 else 4))

/-- R94, R77 and R285: a pattern that is no instruction traps with its cause at the split that meets it, and a fetch outside the text traps
BOUNDS with TEPC at the instruction's first parcel; nothing else changes. In service mode, where the handler's text is read, the parcel
0x0000 traps ILLEGAL_PARCEL, every other encoding outside Table 14.2 ILLEGAL_OP, and one of the table that does not decode with its cause. -/
def Obligations.FetchFaults : Prop :=
  ∀ (s : Sys2Proof.Machine.State) (x : Sys2Proof.Machine.Iss), Sys2Proof.Machine.checkout s = some x →
    (x.inService = true →
      (∀ w : Nat, Sys2Proof.Machine.wordAt x.text x.wv.svcPc.toNat = .bits w →
        (w % 2 ^ 16 = 0 → Sys2Proof.Machine.exec .unassignedEncoding s = .next (x.trapHere { cause := 0x02 })) ∧
        (w % 2 ^ 16 ≠ 0 → ¬ Sys2Proof.Claims.InSubset w →
          Sys2Proof.Machine.exec .unassignedEncoding s = .next (x.trapHere { cause := 0x00 })) ∧
        ∀ e, Sys2Proof.Claims.InSubset w → Sys2Proof.decodeWord w = .error e →
          Sys2Proof.Machine.exec .unassignedEncoding s = .next (x.trapHere { cause :=
            match e with | .illegalOp => 0x00 | .illegalField => 0x01 | .illegalParcel => 0x02 })) ∧
      ∀ a : Nat, Sys2Proof.Machine.wordAt x.text x.wv.svcPc.toNat = .outside a →
        Sys2Proof.Machine.exec .fetchOutsideText s =
          .next (x.trapHere { cause := 0x20, info := 2 ^ 13 + 2 ^ 14, addr := a })) ∧
    (x.inService = false → x.sp.repActive = false →
    (∀ w : Nat, Sys2Proof.Machine.wordAt x.text x.sp.pc.toNat = .bits w → x.sp.only ≠ some 0 →
      (∀ e, Sys2Proof.decodeWord w = .error e →
        Sys2Proof.Machine.exec .unassignedEncoding s = .next (x.trapHere { cause :=
          match e with | .illegalOp => 0x00 | .illegalField => 0x01 | .illegalParcel => 0x02 }))) ∧
    (∀ a : Nat, Sys2Proof.Machine.wordAt x.text x.sp.pc.toNat = .outside a →
      (a = x.sp.pc.toNat ∨ a = x.sp.pc.toNat + 2) ∧
      Sys2Proof.Machine.exec .fetchOutsideText s =
        .next (x.trapHere { cause := 0x20, info := 2 ^ 13 + 2 ^ 14, addr := a })))
namespace Sys2Proof.Claims

open Sys2Proof.Machine

/-- The little-endian number of `w` bytes of a scratchpad from an offset. -/
def scratchNat (m : Memory) (o w : Nat) : Nat := ((List.range w).map fun b => (m.read (o + b)).toNat * 256 ^ b).sum

/-- `m'` is `m` with `w` bytes from an offset as the little-endian `v`, every other byte as it was. -/
def ScratchStored (m m' : Memory) (o w v : Nat) : Prop :=
  (∀ b < w, m'.read (o + b) = BitVec.ofNat 8 (v / 256 ^ b)) ∧ ∀ a, (∀ b < w, a ≠ o + b) → m'.read a = m.read a

/-- The scratchpad offset of a lane in LDS and STS (R369). -/
def scratchOffset (x : Iss) (off : Fin 128) (w : Nat) (xs : Bool) (ix : VReg) (L : Fin 32) : Nat :=
  (x.v ix L).toNat * (if xs then w else 1) + off.val * w

/-- The lanes of an access that reach past the scratchpad or are misaligned, with their faults (R118, Table 14.6), ascending. -/
def scratchFaultsOf (x : Iss) (w : Nat) (off : Fin 32 → Nat) : List LaneFault :=
  ((List.finRange 32).filter fun L => x.mask.getLsbD L.val).filterMap fun L =>
    if x.tm.scru * 16384 < off L + w then some ⟨L, 0x20, L.val + 2 ^ 12, off L⟩
    else if off L % w ≠ 0 then some ⟨L, 0x24, L.val + 2 ^ 12, off L⟩
    else none

/-- A lane is active and its scratchpad access is in range and aligned. -/
def scratchFits (x : Iss) (w : Nat) (off : Fin 32 → Nat) (L : Fin 32) : Bool :=
  x.mask.getLsbD L.val && decide (off L + w ≤ x.tm.scru * 16384) && decide (off L % w = 0)

/-- The new value of an atomic operation on numbers of `n` bits (R323); none where a compare fails. -/
def atomRule (op : AtomOp) (n : Nat) (old opnd cmp : Nat) : Option Nat :=
  let a := BitVec.ofNat n old
  let b := BitVec.ofNat n opnd
  match op with
  | .add => some (a + b).toNat
  | .and => some (a &&& b).toNat
  | .or => some (a ||| b).toNat
  | .xor => some (a ^^^ b).toNat
  | .mins => some (if a.sle b then a else b).toNat
  | .minn => some (if a.ule b then a else b).toNat
  | .maxs => some (if a.sle b then b else a).toNat
  | .maxn => some (if a.ule b then b else a).toNat
  | .xchg => some b.toNat
  | .cas => if old = cmp then some b.toNat else none
  | .fadd => some (fpBin fp32 .rne .add a.toNat b.toNat).1

/-- Lanes apply an atomic to a scratchpad one after another: each gets the old value it finds and leaves the new one (R323, R326). -/
inductive AtomChain (op : AtomOp) (w : Nat) (off opnd cmp old : Fin 32 → Nat) : List (Fin 32) → Memory → Memory → Prop
  | done (m : Memory) : AtomChain op w off opnd cmp old [] m m
  | write (L : Fin 32) (Ls : List (Fin 32)) (m m1 m2 : Memory) (v : Nat) : old L = scratchNat m (off L) w →
      atomRule op (8 * w) (old L) (opnd L) (cmp L) = some v → ScratchStored m m1 (off L) w v →
      AtomChain op w off opnd cmp old Ls m1 m2 → AtomChain op w off opnd cmp old (L :: Ls) m m2
  | keep (L : Fin 32) (Ls : List (Fin 32)) (m m2 : Memory) : old L = scratchNat m (off L) w →
      atomRule op (8 * w) (old L) (opnd L) (cmp L) = none →
      AtomChain op w off opnd cmp old Ls m m2 → AtomChain op w off opnd cmp old (L :: Ls) m m2

/-- The lanes of a mask, ascending. -/
def ascending (m : Mask) : List (Fin 32) := (List.finRange 32).filter fun L => m.getLsbD L.val

/-- Bits `lo` to `lo + n - 1` of a number. -/
def bitsOf (w lo n : Nat) : Nat := w / 2 ^ lo % 2 ^ n

/-- A doubleword at an address, as a coherent reader finds it. -/
def word64 (s : State) (pa : Nat) : Nat := s.peekNat pa 8

/-- Accesses of lanes made one after another: the state each leaves and what each lane comes to. -/
inductive LaneRun (f : State → Fin 32 → State × Got) (out : Fin 32 → Got) : List (Fin 32) → State → State → Prop
  | done (s : State) : LaneRun f out [] s s
  | lane (L : Fin 32) (Ls : List (Fin 32)) (s s1 s2 : State) : f s L = (s1, out L) → LaneRun f out Ls s1 s2 →
      LaneRun f out (L :: Ls) s s2

/-- The lanes of a mask that completed: they got bytes, or queued a store. -/
def doneLanes (m : Mask) (out : Fin 32 → Got) : Mask :=
  maskOf fun L => m.getLsbD L.val && match out L with | .bytes _ | .queued _ => true | .fault _ | .unfinished _ _ => false

/-- The value of the bytes a lane got. -/
def laneValue : Got → Nat
  | .bytes bs => leNat bs
  | .queued _ | .fault _ | .unfinished _ _ => 0

/-- The stores that the lanes of a mask queue, ascending. -/
def laneStores (m : Mask) (out : Fin 32 → Got) : List QueuedStore :=
  (ascending m).filterMap fun L =>
    match out L with | .queued q => some q | .bytes _ | .fault _ | .unfinished _ _ => none

/-- The faulting lanes of a mask, ascending, each with its cause, the capability register's number and its offset (Table 14.6). -/
def laneFaults (m : Mask) (out : Fin 32 → Got) (k : KReg) (off : Fin 32 → Nat) : List LaneFault :=
  (ascending m).filterMap fun L =>
    match out L with
    | .fault c => some ⟨L, c, L.val + k.val * 2 ^ 8, off L⟩
    | .bytes _ | .queued _ | .unfinished _ _ => none

/-- A lane is unfinished (R154). -/
def isLeft : Got → Bool
  | .unfinished _ _ => true
  | .bytes _ | .queued _ | .fault _ => false

/-- The unfinished lanes of a mask, with the page, cause and entry of the lowest of them (R154). -/
def lanesLeft (m : Mask) (out : Fin 32 → Got) (cap : Cap) (access : Nat) (off : Fin 32 → Nat) : Option Unfinished :=
  (ascending m).findSome? fun L =>
    match out L with
    | .unfinished c g => some ⟨maskOf fun K => m.getLsbD K.val && isLeft (out K), c, capObj cap,
        ((cap.extractLsb' 24 40).toNat + off L) / 65536, g, access⟩
    | .bytes _ | .queued _ | .fault _ => none

/-- An access made once per wave that is left unfinished (R154). -/
def onceLeft (x : Iss) (cap : Cap) (access off c g : Nat) : Option Unfinished :=
  some ⟨x.mask, c, capObj cap, ((cap.extractLsb' 24 40).toNat + off) / 65536, g, access⟩

/-- The state after `i` with the effect `y` where lanes of it fault or stay unfinished (R280, R288). -/
def settled (i : Instr) (x y : Iss) (faults : List LaneFault) (left : Option Unfinished) : State :=
  Iss.settle (infoOf i) (marks i x) y [] faults left

/-- A queued store holds a byte of committed memory for an address. -/
def Supplies (q : QueuedStore) (a : Nat) : Prop :=
  q.member = none ∧ remoteObj q.obj = false ∧ q.pa ≤ a ∧ a < q.pa + q.bytes.length

/-- The byte of the newest of some queued stores that holds one for an address. -/
def IsNewest (qs : List QueuedStore) (a : Nat) (v : Byte) : Prop :=
  ∃ (before after_ : List QueuedStore) (q : QueuedStore), qs = before ++ q :: after_ ∧ Supplies q a ∧
    q.bytes[a - q.pa]? = some v ∧ ∀ p ∈ after_, ¬ Supplies p a

/-- An access of `w` bytes at an offset of a capability passes the checks of R147 that the capability alone decides. -/
def Checked (cap : Cap) (right o w : Nat) : Prop :=
  cap.getLsbD 109 = true ∧ cap.getLsbD (104 + right) = true ∧ o + w ≤ (cap.extractLsb' 64 40).toNat ∧
  ((cap.extractLsb' 24 40).toNat + o) % w = 0 ∧ (w = 1 ∨ w = 2 ∨ w = 4 ∨ w = 8 ∨ w = 16)

/-- An access of `w` bytes at an offset of a capability that is not of another module passes its checks (R147), and the page table,
which the core has to walk, gives `pa` for the first of its bytes, at BASE + offset. -/
def Lands (x : Iss) (s : State) (cap : Cap) (right o w pa : Nat) (e : Entry) : Prop :=
  Checked cap right o w ∧ remoteObj (capObj cap) = false ∧ (s.core x.tm.die x.wv.core).otb = [] ∧
  (∃ l, s.walk x.tm.ctx (capObj cap) ((cap.extractLsb' 24 40).toNat + o) = .ok pa e l) ∧
  e.cgen = (cap.extractLsb' 112 16).toNat

/-- That of a capability without the tentative right. -/
def Reaches (x : Iss) (s : State) (cap : Cap) (right o w pa : Nat) (e : Entry) : Prop :=
  cap.getLsbD 108 = false ∧ Lands x s cap right o w pa e

/-- What an access through a capability of an object of another module comes to (R303, R304): BUS_ERROR without a path to that module,
else what R147 gives there. -/
def RemoteEnd (s : State) (ctx : Nat) (cap : Cap) (ok : Got → Prop) (g : Got) : Prop :=
  let m := bitsOf (cap.extractLsb' 0 24).toNat 10 13
  (s.joined = false ∨ m ∈ s.lost ∨ (∀ p ∈ (s.ctx ctx).peers, p.1 ≠ m) → g = .fault 0x29) ∧
  (ok g ∨ g = .fault 0x22 ∨ g = .unfinished 0x26 0 ∨ g = .unfinished 0x27 0 ∨ g = .fault 0x29 ∨ g = .fault 0x2A)

/-- A store of `w` bytes at an object's offset touches its stream block, and is not the store to HEAD of a stream no rod reads (R184). -/
def BlockBars (s : State) (ctx obj off w pa : Nat) : Prop :=
  obj ∈ (s.ctx ctx).streams ∧ off < 64 ∧ ¬ (off = 8 ∧ w = 8 ∧ bitsOf (word64 s (pa + 16)) 44 1 = 0)

/-- The issuing team is bound to a quorum as its member `i` (R265). -/
def BoundAs (x : Iss) (s : State) (h : W32) (i : Nat) (q : Quorum) : Prop :=
  x.tm.member = some (h, i) ∧ s.quorum x.tm.ctx h = some q ∧ q.isBound i x.tm.die x.tm.serial = true

/-- `w` bytes at an object's offset lie in the slot of a member (R262, R266). -/
def SlotHolds (q : Quorum) (i obj off w : Nat) : Prop :=
  let region := capOfBytes q.desc
  let base := (region.extractLsb' 24 40).toNat
  let stride := bytesNat q.desc 40 8 % 2 ^ 40
  obj = (region.extractLsb' 0 24).toNat ∧ base + i * stride ≤ off ∧ off + w ≤ base + (i + 1) * stride

/-- A member's first store to a sector passes its quota, or finds no free version tag (R136). -/
def NoVersion (s : State) (h : W32) (i : Nat) (q : Quorum) (pa : Nat) : Prop :=
  bytesNat q.desc 48 4 < s.quorumUsed h + 256 ∨ 1024 ≤ s.versionTags pa ∧ ∀ v ∈ s.versions pa, v.isFor h i pa = false

/-- No L1 holds anything, memory stands in canonical form, and the sector of a physical address, which holds no poison, has its home in the
LP6 tier or on a die whose L2 holds nothing. -/
def QuietHome (s : State) (pa : Nat) : Prop :=
  s.phys.wf = true ∧ (∀ c ∈ s.cores, c.l1 = []) ∧ pa / 256 * 256 ∉ s.badPhys ∧
    ∃ h : HomeAt, homeOf pa = some h ∧ ∀ d : Fin 4, h = .die d → s.dies[d].l2 = L2.empty

/-- A coherent reader finds `bs` at an address and up, and every other byte as before. -/
def Stored (s u : State) (pa : Nat) (bs : List Byte) : Prop :=
  (∀ (b : Nat) (hb : b < bs.length), u.peek (pa + b) = bs[b]) ∧
    ∀ a : Nat, (∀ b < bs.length, a ≠ pa + b) → u.peek a = s.peek a

/-- No record of a POST of the issuing wave waits to be written. -/
def NoneOwed (x : Iss) : Prop := x.owed = []

/-- No debugger is attached to the context of the issuing team. -/
def NoDebugger (x : Iss) (s : State) : Prop := (s.ctx x.tm.ctx).dbg.attach = false

/-- A register block's words beside each other: `n` registers from `d` in a lane. -/
def blockNat (x : Iss) (n : Nat) (d : VReg) (L : Fin 32) : Nat :=
  ((List.range n).map fun j => (x.v (Fin.ofNat 64 (d.val + j)) L).toNat * 2 ^ (32 * j)).sum

end Sys2Proof.Claims

/-- What the writes of registers do, for every register (R284, R85): in service mode a scalar is the bank's from s48 on and k15 the bank's
capability, and their writes leave the wave's own as they are; outside it the bank keeps its values;
m0 is never written and reads all ones; a vector register changes in the lanes written alone, and a block of registers word by
word. Every other register and all the rest of the machine is as it was. -/
def Obligations.RegisterWrites : Prop :=
  ∀ (x : Sys2Proof.Machine.Iss) (svc : Bool), x.inService = svc →
    (∀ n : Sys2Proof.SReg, x.s n =
      if svc = true ∧ 48 ≤ n.val then x.wv.bankS[Fin.ofNat 16 (n.val - 48)] else x.wv.s[n]) ∧
    (∀ n : Sys2Proof.KReg, x.k n = if svc = true ∧ n = 15 then x.wv.bankK else x.wv.k[n]) ∧
    (∀ (d n : Sys2Proof.SReg) (w : Sys2Proof.W64), (x.setS d w).s n = if n = d then w else x.s n) ∧
    (∀ (d : Sys2Proof.SReg) (w : Sys2Proof.W64),
      x.setS d w = { x with wv := { x.wv with s := (x.setS d w).wv.s, bankS := (x.setS d w).wv.bankS } } ∧
      (svc = true ∧ 48 ≤ d.val → (x.setS d w).wv.s = x.wv.s) ∧
      (¬ (svc = true ∧ 48 ≤ d.val) → (x.setS d w).wv.bankS = x.wv.bankS ∧
        ∀ n : Sys2Proof.SReg, (x.setS d w).wv.s[n] = if n = d then w else x.wv.s[n])) ∧
    (∀ (d n : Sys2Proof.MReg) (w : Sys2Proof.Mask),
      (x.setM d w).m n = if n = 0 then BitVec.allOnes 32 else if n = d then w else x.m n) ∧
    (∀ (d : Sys2Proof.MReg) (w : Sys2Proof.Mask), x.setM d w = { x with wv := { x.wv with m := (x.setM d w).wv.m } } ∧
      x.setM 0 w = x) ∧
    (∀ (d n : Sys2Proof.KReg) (c : Sys2Proof.Machine.Cap), (x.setK d c).k n = if n = d then c else x.k n) ∧
    (∀ (d : Sys2Proof.KReg) (c : Sys2Proof.Machine.Cap),
      x.setK d c = { x with wv := { x.wv with k := (x.setK d c).wv.k, bankK := (x.setK d c).wv.bankK } } ∧
      (svc = true ∧ d = 15 → (x.setK d c).wv.k = x.wv.k) ∧
      (¬ (svc = true ∧ d = 15) → (x.setK d c).wv.bankK = x.wv.bankK ∧
        ∀ n : Sys2Proof.KReg, (x.setK d c).wv.k[n] = if n = d then c else x.wv.k[n])) ∧
    (∀ (n d : Nat) (hd : d + n ≤ 64) (hn : 0 < n) (lanes : Sys2Proof.Mask) (f : Fin 32 → Nat),
      let y := x.setWords n ⟨d, by omega⟩ lanes f
      y = { x with wv := { x.wv with v := y.wv.v } } ∧
      ∀ (r : Sys2Proof.VReg) (L : Fin 32), y.v r L =
        if lanes.getLsbD L.val = true ∧ d ≤ r.val ∧ r.val < d + n then BitVec.ofNat 32 (f L / 2 ^ (32 * (r.val - d)))
        else x.v r L) ∧
    (∀ (wide : Bool) (d : Sys2Proof.VReg) (lanes : Sys2Proof.Mask) (f : Fin 32 → Nat),
      (wide = true → d.val < 63) → x.setLane wide d lanes f = x.setWords (if wide then 2 else 1) d lanes f)

/-- R369 and R118: LDS. Every active lane whose offset is in range and aligned gets the bytes of the scratchpad there; the others keep
their destination and fault, BOUNDS before ALIGN, with their offset. Nothing is stored. -/
def Obligations.ScratchpadLoad : Prop :=
  ∀ (off : Fin 128) (w : Sys2Proof.Width) (xs : Bool) (ix d : Sys2Proof.VReg) (mk : Bool) (s : Sys2Proof.Machine.State)
    (x : Sys2Proof.Machine.Iss), Sys2Proof.Claims.Issues (.lds off w xs ix d mk) s x →
    let offs := Sys2Proof.Claims.scratchOffset x off w.bytes xs ix
    let faults := Sys2Proof.Claims.scratchFaultsOf x w.bytes offs
    let y := x.setWords (Sys2Proof.Machine.wSpan w) d
      (Sys2Proof.Machine.maskOf fun L => Sys2Proof.Claims.scratchFits x w.bytes offs L)
      fun L => Sys2Proof.Claims.scratchNat x.scratch (offs L) w.bytes
    (faults = [] → Sys2Proof.Machine.exec (.lds off w xs ix d mk) s =
      .next (Sys2Proof.Claims.after (.lds off w xs ix d mk) y)) ∧
    (faults ≠ [] → Sys2Proof.Machine.exec (.lds off w xs ix d mk) s =
      .next (Sys2Proof.Machine.Iss.settle (Sys2Proof.Machine.infoOf (.lds off w xs ix d mk))
          (Sys2Proof.Claims.marks (.lds off w xs ix d mk) x) y [] faults none))

/-- R369 and R118: STS, in a scratchpad whose bytes stand in canonical form. The bytes at the offset of every active lane in range become the lane's, low register first, the
highest-numbered lane supplying a byte that several write; every other byte of the scratchpad keeps its value, the other lanes
fault, and beside going on nothing else changes. -/
def Obligations.ScratchpadStore : Prop :=
  ∀ (off : Fin 128) (w : Sys2Proof.Width) (xs : Bool) (ix d : Sys2Proof.VReg) (mk : Bool) (s : Sys2Proof.Machine.State)
    (x : Sys2Proof.Machine.Iss), Sys2Proof.Claims.Issues (.sts off w xs ix d mk) s x → x.scratch.wf = true →
    let offs := Sys2Proof.Claims.scratchOffset x off w.bytes xs ix
    let faults := Sys2Proof.Claims.scratchFaultsOf x w.bytes offs
    ∃ m : Sys2Proof.Machine.Memory,
      (faults = [] → Sys2Proof.Machine.exec (.sts off w xs ix d mk) s =
        .next (Sys2Proof.Claims.after (.sts off w xs ix d mk) (x.setScratch m))) ∧
      (faults ≠ [] → Sys2Proof.Machine.exec (.sts off w xs ix d mk) s =
        .next (Sys2Proof.Machine.Iss.settle (Sys2Proof.Machine.infoOf (.sts off w xs ix d mk))
          (Sys2Proof.Claims.marks (.sts off w xs ix d mk) x) (x.setScratch m) []
          faults none)) ∧
      m.wf = true ∧
      (∀ (L : Fin 32) (b : Nat), Sys2Proof.Claims.scratchFits x w.bytes offs L = true → b < w.bytes →
        (∀ K : Fin 32, L < K → Sys2Proof.Claims.scratchFits x w.bytes offs K = true →
          ∀ c < w.bytes, offs K + c ≠ offs L + b) →
        m.read (offs L + b) =
          BitVec.ofNat 8 (Sys2Proof.Claims.blockNat x (Sys2Proof.Machine.wSpan w) d L / 256 ^ b)) ∧
      ∀ a : Nat, (∀ (L : Fin 32), Sys2Proof.Claims.scratchFits x w.bytes offs L = true →
        ∀ b < w.bytes, offs L + b ≠ a) → m.read a = x.scratch.read a

/-- R326 with R323: ATOMS. The active lanes in range and aligned apply their operation in ascending order, each to what the one before
left, as one step, and each gets the old value it found; the others keep their destination and fault. -/
def Obligations.ScratchpadAtomic : Prop :=
  ∀ (wide : Bool) (op : Sys2Proof.AtomOp) (ix d : Sys2Proof.VReg) (mk : Bool) (s : Sys2Proof.Machine.State)
    (x : Sys2Proof.Machine.Iss), Sys2Proof.Instr.wellFormed (.atoms wide op ix d mk) = true →
    Sys2Proof.Claims.Issues (.atoms wide op ix d mk) s x → x.scratch.wf = true →
    let w := if wide then 8 else 4
    let offs := fun (L : Fin 32) => (x.v ix L).toNat
    let faults := Sys2Proof.Claims.scratchFaultsOf x w offs
    let fit := Sys2Proof.Machine.maskOf fun L => Sys2Proof.Claims.scratchFits x w offs L
    let opnd := fun (L : Fin 32) => Sys2Proof.Claims.blockNat x (if wide then 2 else 1)
      (if op = .cas then Fin.ofNat 64 (d.val + if wide then 2 else 1) else d) L
    ∃ (m : Sys2Proof.Machine.Memory) (old : Fin 32 → Nat),
      Sys2Proof.Claims.AtomChain op w offs opnd (Sys2Proof.Claims.blockNat x (if wide then 2 else 1) d) old
        (Sys2Proof.Claims.ascending fit) x.scratch m ∧
      (faults = [] → Sys2Proof.Machine.exec (.atoms wide op ix d mk) s =
        .next (Sys2Proof.Claims.after (.atoms wide op ix d mk)
          ((x.setScratch m).setWords (if wide then 2 else 1) d fit old))) ∧
      (faults ≠ [] → Sys2Proof.Machine.exec (.atoms wide op ix d mk) s =
        .next (Sys2Proof.Machine.Iss.settle (Sys2Proof.Machine.infoOf (.atoms wide op ix d mk))
          (Sys2Proof.Claims.marks (.atoms wide op ix d mk) x)
          ((x.setScratch m).setWords (if wide then 2 else 1) d fit old) [] faults none))

/-- R367: LDP. An unbound window traps PARAM_UNBOUND with its number; else the destination gets the bytes of the window, zero past its
size, and WSTAT.PFLAG is set where the access passes it. -/
def Obligations.ParameterLoad : Prop :=
  ∀ (off : BitVec 12) (w : Sys2Proof.ParamWidth) (scalar : Bool) (p : Fin 8) (d : Fin 64) (mk : Bool)
    (s : Sys2Proof.Machine.State) (x : Sys2Proof.Machine.Iss), Sys2Proof.Claims.Issues (.ldp off w scalar p d mk) s x →
    (x.tm.windows[p] = none →
      Sys2Proof.Machine.exec (.ldp off w scalar p d mk) s = .next (x.trapHere { cause := 0x25, info := p.val })) ∧
    (∀ win : List Sys2Proof.Byte, x.tm.windows[p] = some win →
      let e := ((List.range w.bytes).map fun b =>
        (if off.toNat + b < win.length then (win.getD (off.toNat + b) 0).toNat else 0) * 256 ^ b).sum
      let y : Sys2Proof.Machine.Iss :=
        { x with wv := { x.wv with pflag := x.wv.pflag || decide (win.length < off.toNat + w.bytes) } }
      Sys2Proof.Machine.exec (.ldp off w scalar p d mk) s = .next (Sys2Proof.Claims.after (.ldp off w scalar p d mk)
        (if scalar then y.setS d (BitVec.ofNat 64 e)
         else y.setWords (Sys2Proof.Machine.pSpan w) d x.mask fun _ => e)))

/-- R363 and R149: loads. The active lanes read in ascending order at v(X)[L] × (w or 1): a lane that gets bytes has them in D and its
partners, the others keep theirs and fault or stay unfinished (R280, R288). A scalar LD and CLOAD read once, CLOAD into k(KD) once its
image is valid; one that fails traps with its cause, the capability register's number and the offset, one left unfinished parks its lanes;
neither writes a register. R147, R153, R165: a read that passes its checks gives the bytes of memory at BASE + offset as the page table
places it, under those of the wave's own queued stores, the newest first. R137: through a tentative capability it gives the member's own
version of the sector once a store has reached it. R304: of another module, what its owner answers. No byte of memory changes.
No POST record of the wave waits.
The order of the checks beyond R147, what an owner answers, that a load after a POST waits for its records, and which of several pages is
told of are the model's reading (logs 17, 39, 42, 58). -/
def Obligations.MemoryLoads : Prop :=
  ∀ (sc : Sys2Proof.Scope) (o : Bool) (w : Sys2Proof.Width) (xs mk : Bool) (k : Sys2Proof.KReg)
    (s s' : Sys2Proof.Machine.State) (x : Sys2Proof.Machine.Iss), Sys2Proof.Claims.NoneOwed x →
    let step := fun (b : Bool) => if b then w.bytes else 1
    let y : Sys2Proof.Machine.Iss := { x with st := s' }
    (∀ (ix d : Sys2Proof.VReg) (out : Fin 32 → Sys2Proof.Machine.Got),
      let i := Sys2Proof.Instr.ld sc o w xs ix k d mk
      let off := fun (L : Fin 32) => (x.v ix L).toNat * step xs
      let faults := Sys2Proof.Claims.laneFaults x.mask out k off
      let left := Sys2Proof.Claims.lanesLeft x.mask out (x.k k) 0 off
      let z := y.setWords (Sys2Proof.Machine.wSpan w) d (Sys2Proof.Claims.doneLanes x.mask out) fun L =>
        Sys2Proof.Claims.laneValue (out L)
      Sys2Proof.Claims.Issues i s x →
      Sys2Proof.Claims.LaneRun (fun u L => x.load u (x.k k) L.val (off L) w.bytes) out (Sys2Proof.Claims.ascending x.mask)
        x.st s' → Sys2Proof.Claims.NoDebugger x s' →
      Sys2Proof.Machine.exec i s = .next (Sys2Proof.Claims.settled i x z faults left) ∧
      (faults = [] → left = none → Sys2Proof.Machine.exec i s = .next (Sys2Proof.Claims.after i z))) ∧
    (∀ ix d : Sys2Proof.SReg,
      let i := Sys2Proof.Instr.ldScalar sc o w xs ix k d mk
      let off := (x.s ix).toNat * step xs
      Sys2Proof.Claims.Issues i s x →
      (∀ bs : List Sys2Proof.Byte, x.load x.st (x.k k) 0 off w.bytes = (s', .bytes bs) → Sys2Proof.Claims.NoDebugger x s' →
        Sys2Proof.Machine.exec i s =
          .next (Sys2Proof.Claims.after i (y.setS d (BitVec.ofNat 64 (Sys2Proof.leNat bs))))) ∧
      (∀ c : Nat, x.load x.st (x.k k) 0 off w.bytes = (s', .fault c) → Sys2Proof.Machine.exec i s =
        .next (y.trapHere { cause := c, info := k.val * 2 ^ 8 + 2 ^ 14, addr := off })) ∧
      ∀ c g : Nat, x.load x.st (x.k k) 0 off w.bytes = (s', .unfinished c g) → Sys2Proof.Machine.exec i s =
        .next (Sys2Proof.Claims.settled i x y [] (Sys2Proof.Claims.onceLeft x (x.k k) 0 off c g))) ∧
    (∀ (a : Sys2Proof.SReg) (kd : Sys2Proof.KReg),
      let i := Sys2Proof.Instr.cload a k kd mk
      let off := (x.s a).toNat
      let fails := fun (c : Nat) => Sys2Proof.Machine.exec i s =
        .next (y.trapHere { cause := c, info := k.val * 2 ^ 8 + 2 ^ 14, addr := off })
      Sys2Proof.Claims.Issues i s x →
      (∀ bs : List Sys2Proof.Byte, x.load x.st (x.k k) 0 off 16 = (s', .bytes bs) → Sys2Proof.Claims.NoDebugger x s' →
        let cap := Sys2Proof.Machine.capOfBytes bs
        (s'.validateImage x.tm.ctx cap = none → Sys2Proof.Machine.exec i s = .next (Sys2Proof.Claims.after i (y.setK kd cap))) ∧
        ∀ c : Nat, s'.validateImage x.tm.ctx cap = some c → fails c) ∧
      (∀ c : Nat, x.load x.st (x.k k) 0 off 16 = (s', .fault c) → fails c) ∧
      ∀ c g : Nat, x.load x.st (x.k k) 0 off 16 = (s', .unfinished c g) → Sys2Proof.Machine.exec i s =
        .next (Sys2Proof.Claims.settled i x y [] (Sys2Proof.Claims.onceLeft x (x.k k) 0 off c g))) ∧
    ∀ (cap : Sys2Proof.Machine.Cap) (key off n pa : Nat) (e : Sys2Proof.Machine.Entry),
      (Sys2Proof.Claims.Reaches x s cap 0 off n pa e → Sys2Proof.Claims.QuietHome s pa →
        ∃ (u : Sys2Proof.Machine.State) (bs : List Sys2Proof.Byte), x.load s cap key off n = (u, .bytes bs) ∧ bs.length = n ∧
          (∀ b < n, (∀ v : Sys2Proof.Byte, Sys2Proof.Claims.IsNewest x.wv.stores (pa + b) v → bs.getD b 0 = v) ∧
            ((∀ q ∈ x.wv.stores, ¬ Sys2Proof.Claims.Supplies q (pa + b)) → bs.getD b 0 = s.peek (pa + b))) ∧
          (∀ a : Nat, u.peek a = s.peek a) ∧ u.teams = s.teams ∧ u.contexts = s.contexts) ∧
      (Sys2Proof.Claims.Lands x s cap 0 off n pa e → Sys2Proof.Claims.QuietHome s pa → cap.getLsbD 108 = true →
        x.wv.stores = [] →
        (∀ (h : Sys2Proof.W32) (i : Nat) (own : List Sys2Proof.Byte), x.tm.member = some (h, i) →
          s.versionWritten h i pa = true → s.versionOf h i pa = some own →
          ∃ u : Sys2Proof.Machine.State, { u with cores := s.cores } = s ∧ x.load s cap key off n = (u,
            if s.versionBad h i pa then .fault 0x2A else .bytes ((List.range n).map fun b => own.getD (pa % 256 + b) 0))) ∧
        ((∀ (h : Sys2Proof.W32) (i : Nat), x.tm.member = some (h, i) → s.versionWritten h i pa = false) →
          ∃ u : Sys2Proof.Machine.State, x.load s cap key off n = (u, .bytes ((List.range n).map fun b => s.peek (pa + b))) ∧
            (∀ a : Nat, u.peek a = s.peek a) ∧ u.teams = s.teams ∧ u.contexts = s.contexts)) ∧
      (Sys2Proof.Claims.Checked cap 0 off n → Sys2Proof.Machine.remoteObj (Sys2Proof.Machine.capObj cap) = true →
        ∃ g : Sys2Proof.Machine.Got, x.load s cap key off n = (s, g) ∧ Sys2Proof.Claims.RemoteEnd s x.tm.ctx cap
          (fun r => ∃ bs : List Sys2Proof.Byte, bs.length = n ∧ r = .bytes bs) g)

/-- R397, R399 and R149: stores. The active lanes' bytes, low register first, whose checks pass go behind those already in the wave's store
queue, in ascending lane order, those of a release marked with its scope; the other lanes fault or stay unfinished (R280, R288). A scalar
ST and CSTORE queue once; one that fails traps with its cause, the capability register's number and the offset, one left unfinished parks
its lanes. No register is written. R147, R153: a store that passes its checks queues its bytes for BASE + offset as the page table places
it, and changes no byte of memory. R184: one to a stream's block faults RIGHTS, but for an aligned b64 store to HEAD of a stream that no
rod reads. R136 and R266: one through a tentative capability faults RIGHTS outside its member's slot, TENT_QUOTA past the quota or without
a version tag, and else takes a version of the sector. R304: of another module, what its owner answers. R122: stores of one instruction
that write a sector whole join to one store of its 256 bytes, each the one of the last lane that writes it; fewer bytes stay as they are.
The order of the checks beyond R147, what an owner answers and which of several pages is told of are the model's reading (logs 17, 42,
58). -/
def Obligations.MemoryStores : Prop :=
  ∀ (sc : Sys2Proof.Scope) (o : Bool) (w : Sys2Proof.Width) (xs mk : Bool) (k : Sys2Proof.KReg)
    (s s' : Sys2Proof.Machine.State) (x : Sys2Proof.Machine.Iss),
    let step := fun (b : Bool) => if b then w.bytes else 1
    let rel := if o then some sc else none
    let access := if (x.k k).getLsbD 108 then 5 else 1
    let queued := fun (qs : List Sys2Proof.Machine.QueuedStore) =>
      ({ x with st := s', wv := { x.wv with stores := x.wv.stores ++ qs } } : Sys2Proof.Machine.Iss)
    (∀ (ix d : Sys2Proof.VReg) (out : Fin 32 → Sys2Proof.Machine.Got),
      let i := Sys2Proof.Instr.st sc o w xs ix k d mk
      let off := fun (L : Fin 32) => (x.v ix L).toNat * step xs
      let faults := Sys2Proof.Claims.laneFaults x.mask out k off
      let left := Sys2Proof.Claims.lanesLeft x.mask out (x.k k) access off
      let z := queued (Sys2Proof.Machine.joinStores (Sys2Proof.Claims.laneStores x.mask out))
      Sys2Proof.Claims.Issues i s x →
      Sys2Proof.Claims.LaneRun (fun u L => x.store u (x.k k) L.val (off L) w.bytes
          (Sys2Proof.leBytes w.bytes (Sys2Proof.Claims.blockNat x (Sys2Proof.Machine.wSpan w) d L)) rel) out
        (Sys2Proof.Claims.ascending x.mask) x.st s' → Sys2Proof.Claims.NoDebugger x s' →
      Sys2Proof.Machine.exec i s = .next (Sys2Proof.Claims.settled i x z faults left) ∧
      (faults = [] → left = none → Sys2Proof.Machine.exec i s = .next (Sys2Proof.Claims.after i z))) ∧
    (∀ (i : Sys2Proof.Instr) (off n : Nat) (bs : List Sys2Proof.Byte) (r : Option Sys2Proof.Scope),
      (∃ ix d : Sys2Proof.SReg, i = .stScalar sc o w xs ix k d mk ∧ off = (x.s ix).toNat * step xs ∧ n = w.bytes ∧
        bs = Sys2Proof.leBytes n (x.s d).toNat ∧ r = rel) ∨
      (∃ (a : Sys2Proof.SReg) (kd : Sys2Proof.KReg), i = .cstore a k kd mk ∧ off = (x.s a).toNat ∧ n = 16 ∧
        bs = Sys2Proof.leBytes n (x.k kd).toNat ∧ r = none) →
      Sys2Proof.Claims.Issues i s x →
      (∀ q : Sys2Proof.Machine.QueuedStore, x.store x.st (x.k k) 0 off n bs r = (s', .queued q) →
        Sys2Proof.Claims.NoDebugger x s' →
        Sys2Proof.Machine.exec i s = .next (Sys2Proof.Claims.after i (queued [q]))) ∧
      (∀ c : Nat, x.store x.st (x.k k) 0 off n bs r = (s', .fault c) → Sys2Proof.Machine.exec i s =
        .next (({ x with st := s' } : Sys2Proof.Machine.Iss).trapHere
          { cause := c, info := k.val * 2 ^ 8 + 2 ^ 14, addr := off })) ∧
      ∀ c g : Nat, x.store x.st (x.k k) 0 off n bs r = (s', .unfinished c g) → Sys2Proof.Machine.exec i s =
        .next (Sys2Proof.Claims.settled i x { x with st := s' } []
          (Sys2Proof.Claims.onceLeft x (x.k k) access off c g))) ∧
    (∀ (cap : Sys2Proof.Machine.Cap) (key off n pa : Nat) (e : Sys2Proof.Machine.Entry) (bs : List Sys2Proof.Byte)
      (rel : Option Sys2Proof.Scope),
      let at_ := (cap.extractLsb' 24 40).toNat + off
      let obj := Sys2Proof.Machine.capObj cap
      let entry := fun (p : Nat) (around : Bool) (m : Option (Sys2Proof.W32 × Nat)) =>
        ({ dom := if cap.getLsbD 110 = true then 0 else x.tm.ctx + 1, obj := (cap.extractLsb' 0 24).toNat
           gen := cap.extractLsb' 112 16, off := at_, pa := p, around := around
           member := m, bytes := bs, release := rel } : Sys2Proof.Machine.QueuedStore)
      let gives := fun (g : Sys2Proof.Machine.Got) => ∃ u : Sys2Proof.Machine.State,
        { u with cores := s.cores } = s ∧ x.store s cap key off n bs rel = (u, g) ∧ ∀ a : Nat, u.peek a = s.peek a
      let mine := fun (h : Sys2Proof.W32) (i : Nat) (q : Sys2Proof.Machine.Quorum) =>
        Sys2Proof.Claims.BoundAs x s h i q ∧ Sys2Proof.Claims.SlotHolds q i obj at_ n
      (Sys2Proof.Claims.Lands x s cap 1 off n pa e → (∀ c ∈ s.cores, c.l1 = []) →
        (Sys2Proof.Claims.BlockBars s x.tm.ctx obj at_ n pa → gives (.fault 0x21)) ∧
        (¬ Sys2Proof.Claims.BlockBars s x.tm.ctx obj at_ n pa →
          (cap.getLsbD 108 = false → gives (.queued (entry pa e.alias_ none))) ∧
          (cap.getLsbD 108 = true → (∀ h i q, ¬ mine h i q) → gives (.fault 0x21)) ∧
          ∀ h i q, cap.getLsbD 108 = true → mine h i q →
            ((s.versionOf h i pa).isSome = true → gives (.queued (entry pa true (some (h, i))))) ∧
            (s.versionOf h i pa = none → Sys2Proof.Claims.NoVersion s h i q pa → gives (.fault 0x28)) ∧
            (s.versionOf h i pa = none → ¬ Sys2Proof.Claims.NoVersion s h i q pa → Sys2Proof.Claims.QuietHome s pa →
              ∃ u : Sys2Proof.Machine.State,
                x.store s cap key off n bs rel = (u, .queued (entry pa true (some (h, i)))) ∧
                (u.versionOf h i pa).isSome = true ∧ (∀ a : Nat, u.peek a = s.peek a) ∧ u.teams = s.teams ∧
                u.contexts = s.contexts))) ∧
      (Sys2Proof.Claims.Checked cap 1 off n → Sys2Proof.Machine.remoteObj obj = true →
        (cap.getLsbD 108 = true → (∀ h i q, ¬ mine h i q) → x.store s cap key off n bs rel = (s, .fault 0x21)) ∧
        (cap.getLsbD 108 = false ∨ (∃ h i q, mine h i q) → ∃ g : Sys2Proof.Machine.Got,
          x.store s cap key off n bs rel = (s, g) ∧
          Sys2Proof.Claims.RemoteEnd s x.tm.ctx cap (fun r => r = .queued (entry 0 true none)) g))) ∧
    ∀ qs : List Sys2Proof.Machine.QueuedStore,
      ((qs.map fun p => p.bytes.length).sum < 256 → Sys2Proof.Machine.joinStores qs = qs) ∧
      ∀ q ∈ qs, 2 ≤ qs.length →
        (∀ p ∈ qs, q.sameSector p = true ∧ p.off % 256 + p.bytes.length ≤ 256) →
        (∀ i < 256, ∃ p ∈ qs, p.off % 256 ≤ i ∧ i < p.off % 256 + p.bytes.length) →
        ∃ j : Sys2Proof.Machine.QueuedStore, Sys2Proof.Machine.joinStores qs = [j] ∧ j.off = q.off / 256 * 256 ∧
          j.dom = q.dom ∧ j.obj = q.obj ∧ j.gen = q.gen ∧ j.member = none ∧ j.around = false ∧ j.bytes.length = 256 ∧
          ∀ (before after_ : List Sys2Proof.Machine.QueuedStore) (p : Sys2Proof.Machine.QueuedStore) (i : Nat),
            qs = before ++ p :: after_ → p.off % 256 ≤ i → i < p.off % 256 + p.bytes.length →
            (∀ l ∈ after_, i < l.off % 256 ∨ l.off % 256 + l.bytes.length ≤ i) →
            j.bytes.getD i 0 = p.bytes.getD (i - p.off % 256) 0

/-- R323, R165 and R170: ATOM and ATOM.AR. The wave's queued stores are performed first, no POST record of it waiting; then the active lanes
apply, one after another in ascending order: a lane that completes gets the old value, the others keep theirs and fault or stay unfinished
(R280, R288). R147, R153: an atomic that passes its checks, past the block of a stream, finds the old value at BASE + offset as the page
table places it and leaves the new one there, nothing where its compare fails, and no other byte of memory changes. R184: one that
touches a stream's block faults RIGHTS, but for a b64 cas on TAIL of a bitmap or sequenced stream, which writes nothing where the new
TAIL is below the old or past HEAD + 2^n. R304: of another module, what its owner answers.
That a store is visible to every party at once, that an atomic after a POST waits for its records, and what an owner answers are the
model's choice (logs 17, 39). -/
def Obligations.MemoryAtomics : Prop :=
  (∀ (sc : Sys2Proof.Scope) (wide mk : Bool) (op : Sys2Proof.AtomOp) (ix : Sys2Proof.VReg) (k : Sys2Proof.KReg)
    (d : Sys2Proof.VReg) (out : Fin 32 → Sys2Proof.Machine.Got) (s s' : Sys2Proof.Machine.State)
    (x : Sys2Proof.Machine.Iss) (i : Sys2Proof.Instr),
    i = .atom sc wide op ix k d mk ∨ i = .atomAr sc wide op ix k d mk → Sys2Proof.Instr.wellFormed i = true →
    Sys2Proof.Claims.Issues i s x → Sys2Proof.Claims.NoneOwed x →
    let y : Sys2Proof.Machine.Iss := { x with
      st := x.st.performAll x.tm.ctx x.tm.die x.wv.core x.tm.serial x.wv.stores
      wv := { x.wv with stores := [] } }
    let regs := if wide then 2 else 1
    let off := fun (L : Fin 32) => (x.v ix L).toNat
    let operand := Sys2Proof.Claims.blockNat x regs (if op = .cas then Fin.ofNat 64 (d.val + regs) else d)
    let faults := Sys2Proof.Claims.laneFaults x.mask out k off
    let left := Sys2Proof.Claims.lanesLeft x.mask out (x.k k) 2 off
    let z := ({ y with st := s' }).setWords regs d (Sys2Proof.Claims.doneLanes x.mask out) fun L =>
      Sys2Proof.Claims.laneValue (out L)
    Sys2Proof.Claims.LaneRun (fun u L => y.atom u (x.k k) sc op L.val (off L) (if wide then 8 else 4) (operand L)
        (Sys2Proof.Claims.blockNat x regs d L)) out (Sys2Proof.Claims.ascending x.mask) y.st s' →
    Sys2Proof.Claims.NoDebugger x s' →
    Sys2Proof.Machine.exec i s = .next (Sys2Proof.Claims.settled i x z faults left) ∧
    (faults = [] → left = none → Sys2Proof.Machine.exec i s = .next (Sys2Proof.Claims.after i z))) ∧
  ∀ (x : Sys2Proof.Machine.Iss) (s : Sys2Proof.Machine.State) (cap : Sys2Proof.Machine.Cap) (sc : Sys2Proof.Scope)
    (op : Sys2Proof.AtomOp) (key off n pa a b : Nat) (e : Sys2Proof.Machine.Entry),
    let at_ := (cap.extractLsb' 24 40).toNat + off
    let block := Sys2Proof.Machine.capObj cap ∈ (s.ctx x.tm.ctx).streams ∧ at_ < 64
    let cfg := Sys2Proof.Claims.word64 s (pa + 24)
    let onTail := at_ = 0 ∧ n = 8 ∧ op = .cas ∧ Sys2Proof.Claims.bitsOf cfg 41 2 ≠ 0
    let old := s.peekNat pa n
    let new := if block then
        if old = b ∧ old ≤ a ∧ a ≤ Sys2Proof.Claims.word64 s (pa + 8) + 2 ^ Sys2Proof.Claims.bitsOf cfg 36 5 then some a else none
      else Sys2Proof.Claims.atomRule op (8 * n) old a b
    (n = 4 ∨ n = 8 ∧ op ≠ .fadd) → a < 2 ^ (8 * n) → b < 2 ^ (8 * n) →
    (Sys2Proof.Claims.Reaches x s cap 2 off n pa e →
      (block → ¬ onTail → ∃ u : Sys2Proof.Machine.State, { u with cores := s.cores } = s ∧
        x.atom s cap sc op key off n a b = (u, .fault 0x21)) ∧
      (block ∧ onTail ∨ ¬ block → Sys2Proof.Claims.QuietHome s pa →
        ∃ u : Sys2Proof.Machine.State, x.atom s cap sc op key off n a b = (u, .bytes (Sys2Proof.leBytes n old)) ∧
          (∀ v : Nat, new = some v → Sys2Proof.Claims.Stored s u pa (Sys2Proof.leBytes n v)) ∧
          (new = none → ∀ adr : Nat, u.peek adr = s.peek adr) ∧
          u.teams = s.teams ∧ u.contexts = s.contexts)) ∧
    (Sys2Proof.Claims.Checked cap 2 off n → cap.getLsbD 108 = false →
      Sys2Proof.Machine.remoteObj (Sys2Proof.Machine.capObj cap) = true →
      ∃ g : Sys2Proof.Machine.Got, x.atom s cap sc op key off n a b = (s, g) ∧ Sys2Proof.Claims.RemoteEnd s x.tm.ctx cap
        (fun r => ∃ bs : List Sys2Proof.Byte, bs.length = n ∧ r = .bytes bs) g)

/-- R147 as far as the capability alone decides: a load, a store or an atomic of `w` bytes at a capability offset is refused, with
nothing changed, for a capability that is not valid, then for one without the right, then for a range that passes LEN, then for a
misaligned address, in that order; an atomic through a tentative capability lacks its right. -/
def Obligations.CapabilityChecks : Prop :=
  ∀ (x : Sys2Proof.Machine.Iss) (s : Sys2Proof.Machine.State) (cap : Sys2Proof.Machine.Cap) (key o w : Nat)
    (bs : List Sys2Proof.Byte) (rel : Option Sys2Proof.Scope) (sc : Sys2Proof.Scope) (op : Sys2Proof.AtomOp) (a b : Nat),
    let refused := fun (right : Nat) (ok : Bool) =>
      if cap.getLsbD 109 = false then some 0x23
      else if cap.getLsbD (104 + right) = false ∨ ok = false then some 0x21
      else if (cap.extractLsb' 64 40).toNat < o + w then some 0x20
      else if ((cap.extractLsb' 24 40).toNat + o) % w ≠ 0 then some 0x24
      else none
    (∀ c : Nat, refused 0 true = some c → x.load s cap key o w = (s, .fault c)) ∧
    (∀ c : Nat, refused 1 true = some c → x.store s cap key o w bs rel = (s, .fault c)) ∧
    (∀ c : Nat, refused 2 (!cap.getLsbD 108) = some c → x.atom s cap sc op key o w a b = (s, .fault c))

/-- R122, R123 and R397: performing a queued store of a wave of which no POST record waits, to a line that no L1 holds a sector of, by a
core whose L1 has room, at its home in the LP6 tier or on a die whose L2 holds nothing. A coherent reader then finds the stored bytes at the
store's own addresses, and every other byte of memory as it was.
R136 and R266: a tentative store performed at its home writes the bytes into its member's version of the sector, the first one over the
committed content as the wave's earlier stores have left it, and into nothing a coherent reader sees; one whose quorum is gone, or whose
team is no longer bound as that member, is discarded.
That a store is visible to every party at once is the model's choice (log 39). -/
def Obligations.StoreDrain : Prop :=
  (∀ (s : Sys2Proof.Machine.State) (team wave : Nat) (t : Sys2Proof.Machine.Team) (w : Sys2Proof.Machine.Wave)
      (q : Sys2Proof.Machine.QueuedStore) (qs : List Sys2Proof.Machine.QueuedStore) (h : Sys2Proof.Machine.HomeAt),
      s.waveAt ⟨team, wave, 0⟩ = some (t, w) → w.status = .running → w.stores = q :: qs → q.member = none →
      s.owed t.die t.serial w.number.val = [] →
      Sys2Proof.Machine.remoteObj q.obj = false → q.obj ∉ (s.ctx t.ctx).streams →
      s.phys.wf = true →
      (∀ c ∈ s.cores, ∀ y ∈ c.l1, y.pa / 1024 ≠ q.pa / 1024 ∧ q.names y = false) →
      (s.core t.die w.core).l1.length < 16 → Sys2Proof.Machine.homeOf q.pa = some h →
      (∀ d : Fin 4, h = .die d → s.dies[d].l2 = Sys2Proof.Machine.L2.empty) →
      0 < q.bytes.length → q.pa % 256 + q.bytes.length ≤ 256 → q.off % 256 = q.pa % 256 →
      ∃ u : Sys2Proof.Machine.State, Sys2Proof.Machine.exec (.storeQueueDrain team wave) s = .next u ∧
        (∀ (b : Nat) (hb : b < q.bytes.length), u.peek (q.pa + b) = q.bytes[b]) ∧
        (∀ a : Nat, (∀ b < q.bytes.length, a ≠ q.pa + b) → u.peek a = s.peek a) ∧
        u.waveAt ⟨team, wave, 0⟩ = some (t.setWave wave { w with stores := qs }, { w with stores := qs }) ∧
        u.contexts = s.contexts) ∧
  (∀ (s : Sys2Proof.Machine.State) (team wave : Nat) (t : Sys2Proof.Machine.Team) (w : Sys2Proof.Machine.Wave)
      (q : Sys2Proof.Machine.QueuedStore) (qs : List Sys2Proof.Machine.QueuedStore) (m : Sys2Proof.W32 × Nat),
      s.waveAt ⟨team, wave, 0⟩ = some (t, w) → w.status = .running → w.stores = q :: qs → q.member = some m →
      s.owed t.die t.serial w.number.val = [] → Sys2Proof.Machine.remoteObj q.obj = false →
      ∃ u : Sys2Proof.Machine.State, Sys2Proof.Machine.exec (.tentativeStore team wave) s = .next u ∧
        u.waveAt ⟨team, wave, 0⟩ = some (t.setWave wave { w with stores := qs }, { w with stores := qs }) ∧
        (∀ r : Sys2Proof.Machine.Quorum, s.quorum t.ctx m.1 = some r → r.isBound m.2 t.die t.serial = true →
          (∀ old : List Sys2Proof.Byte, s.versionOf m.1 m.2 q.pa = some old → s.versionWritten m.1 m.2 q.pa = true →
            u.versionOf m.1 m.2 q.pa = some (Sys2Proof.Machine.overlay old (q.pa % 256) q.bytes) ∧
            ∀ a : Nat, u.peek a = s.peek a) ∧
          ((s.versionOf m.1 m.2 q.pa).isSome = true → s.versionWritten m.1 m.2 q.pa = false →
            Sys2Proof.Machine.homeOf q.pa = some .lp6 → s.phys.wf = true → (∀ c ∈ s.cores, c.l1 = []) →
            u.versionOf m.1 m.2 q.pa =
              some (Sys2Proof.Machine.overlay (s.peekSector q.pa).1 (q.pa % 256) q.bytes) ∧
            ∀ a : Nat, u.peek a = s.peek a)) ∧
        ((∀ r : Sys2Proof.Machine.Quorum, s.quorum t.ctx m.1 = some r → r.isBound m.2 t.die t.serial = false) →
          (∀ a : Nat, u.peek a = s.peek a) ∧
          ∀ (h : Sys2Proof.W32) (i pa : Nat), u.versionOf h i pa = s.versionOf h i pa))

/-- R171 and R163: FENCE. The kinds `mem` and `all` first write the wave's POST records that still wait, and wait at the instruction where
one cannot be written; then they perform every queued store of the wave. `eng` and `all` wait at the instruction while an engine
command of the wave has not ended, and then clear cc.E. -/
def Obligations.FenceEntry : Prop :=
  ∀ (sc : Sys2Proof.Scope) (kind : Sys2Proof.FenceKind) (mk : Bool) (s : Sys2Proof.Machine.State)
    (x : Sys2Proof.Machine.Iss), Sys2Proof.Claims.Issues (.fence sc kind mk) s x →
    (Sys2Proof.Claims.NoneOwed x → x.flush = x) ∧
    (kind ≠ .eng → ¬ Sys2Proof.Claims.NoneOwed x.flush → Sys2Proof.Machine.exec (.fence sc kind mk) s =
      .next (Sys2Proof.Claims.waits (.fence sc kind mk) x.flush .records)) ∧
    ((kind = .eng ∨ Sys2Proof.Claims.NoneOwed x.flush) →
    let y : Sys2Proof.Machine.Iss :=
      if kind = .eng then x
      else { x.flush with
        st := x.flush.st.performAll x.tm.ctx x.tm.die x.wv.core x.tm.serial x.wv.stores
        wv := { x.wv with stores := [] } }
    let busy := ∃ c ∈ y.st.cores, ∃ e ∈ c.engines,
      e.die = x.tm.die ∧ e.team = x.tm.serial ∧ e.wave = x.wv.number.val
    (kind = .mem → Sys2Proof.Machine.exec (.fence sc kind mk) s =
      .next (Sys2Proof.Claims.after (.fence sc kind mk) y)) ∧
    (kind ≠ .mem → ¬ busy → Sys2Proof.Machine.exec (.fence sc kind mk) s =
      .next (Sys2Proof.Claims.after (.fence sc kind mk)
        { y with wv := { y.wv with cc := { y.wv.cc with e := false } } })) ∧
    (kind ≠ .mem → busy → Sys2Proof.Machine.exec (.fence sc kind mk) s =
      .next (Sys2Proof.Claims.waits (.fence sc kind mk) y .fence)))

/-- R419, R420 and R350: WAITA and EWAIT, each a kill point. WAITA goes on once the 64-bit word it reads meets its condition, and waits
else, keeping the capability, offset and value; a read that fails traps with its cause, one left unfinished parks its lanes. EWAIT traps TICKET for a value that is no ticket of
the wave, waits for its command, and once it has ended goes on, or traps with the command's cause behind itself; cc.E clears first where no
command of the wave is left. -/
def Obligations.WaitEntries : Prop :=
  ∀ (s : Sys2Proof.Machine.State) (x : Sys2Proof.Machine.Iss) (mk : Bool),
    (∀ (sc : Sys2Proof.Scope) (eq : Bool) (b a : Sys2Proof.SReg) (k : Sys2Proof.KReg),
      Sys2Proof.Claims.Issues (.waita sc eq b a k mk) s x →
      (x.wv.cc.k = true → Sys2Proof.Machine.exec (.waita sc eq b a k mk) s = .next (x.commit.stopWave x.st.cur)) ∧
      ∀ (cap : Sys2Proof.Machine.Cap) (off : Nat) (value : Sys2Proof.W64), x.wv.cc.k = false →
        (x.was = some (.waita cap off value) ∨
          (∀ (c : Sys2Proof.Machine.Cap) (n : Nat) (v : Sys2Proof.W64), x.was ≠ some (.waita c n v)) ∧
            Sys2Proof.Claims.NoneOwed x ∧ cap = x.k k ∧ off = (x.s a).toNat ∧ value = x.s b) →
        (∀ (bs : List Sys2Proof.Byte) (s' : Sys2Proof.Machine.State),
          x.load x.st cap 0 off 8 = (s', .bytes bs) → Sys2Proof.Claims.NoDebugger x s' →
          ((eq = true ↔ Sys2Proof.leNat bs = value.toNat) → Sys2Proof.Machine.exec (.waita sc eq b a k mk) s =
            .next (Sys2Proof.Claims.after (.waita sc eq b a k mk) { x with st := s' })) ∧
          (¬ (eq = true ↔ Sys2Proof.leNat bs = value.toNat) → Sys2Proof.Machine.exec (.waita sc eq b a k mk) s =
            .next (Sys2Proof.Claims.waits (.waita sc eq b a k mk) { x with st := s' } (.waita cap off value)))) ∧
        (∀ (c : Nat) (s' : Sys2Proof.Machine.State), x.load x.st cap 0 off 8 = (s', .fault c) →
          Sys2Proof.Machine.exec (.waita sc eq b a k mk) s = .next (({ x with st := s' } : Sys2Proof.Machine.Iss).trapHere
            { cause := c, info := k.val * 2 ^ 8 + 2 ^ 14, addr := off })) ∧
        ∀ (c g : Nat) (s' : Sys2Proof.Machine.State), x.load x.st cap 0 off 8 = (s', .unfinished c g) →
          Sys2Proof.Machine.exec (.waita sc eq b a k mk) s = .next (Sys2Proof.Claims.settled (.waita sc eq b a k mk) x
            { x with st := s' } [] (Sys2Proof.Claims.onceLeft x cap 0 off c g))) ∧
    (∀ t : Sys2Proof.SReg, Sys2Proof.Claims.Issues (.ewait t mk) s x →
      let mine := ∃ c ∈ x.st.cores, ∃ e ∈ c.engines,
        e.die = x.tm.die ∧ e.team = x.tm.serial ∧ e.wave = x.wv.number.val
      let first := ∀ v : Sys2Proof.W64, x.was ≠ some (.ewait v)
      let recent := x.wv.outcomes.drop (x.wv.outcomes.length - 256)
      let ticket := fun (v : Sys2Proof.W64) => v.getLsbD 63 = true ∧ v.extractLsb' 45 18 = 0 ∧
        (v.extractLsb' 40 5).toNat = x.wv.number.val ∧ v.extractLsb' 32 8 ≤ 3 ∧ v.extractLsb' 0 32 ≠ 0
      let named := fun (v : Sys2Proof.W64) (rs : List Sys2Proof.Machine.Outcome) =>
        rs.find? fun q => q.serial == (v.extractLsb' 0 32).toNat
      (x.wv.cc.k = true → Sys2Proof.Machine.exec (.ewait t mk) s = .next (x.commit.stopWave x.st.cur)) ∧
      (x.wv.cc.k = false → first → ¬ (ticket (x.s t) ∧ named (x.s t) recent ≠ none) →
        Sys2Proof.Machine.exec (.ewait t mk) s = .next (x.trapHere { cause := 0x68 })) ∧
      ∀ (v : Sys2Proof.W64) (r : Sys2Proof.Machine.Outcome), x.wv.cc.k = false →
        (x.was = some (.ewait v) ∧ named v x.wv.outcomes = some r ∨
          first ∧ v = x.s t ∧ ticket v ∧ named v recent = some r) →
        (r.ended = false → Sys2Proof.Machine.exec (.ewait t mk) s =
          .next (Sys2Proof.Claims.waits (.ewait t mk) x (.ewait v))) ∧
        ∀ y : Sys2Proof.Machine.Iss, r.ended = true →
          (mine ∧ y = x ∨ ¬ mine ∧ y = { x with wv := { x.wv with cc := { x.wv.cc with e := false } } }) →
          (r.cause = none → Sys2Proof.Machine.exec (.ewait t mk) s = .next (Sys2Proof.Claims.after (.ewait t mk) y)) ∧
          ∀ c : BitVec 8, r.cause = some c → x.inService = false →
            ∃ rec_ : Sys2Proof.Machine.FaultRec,
              Sys2Proof.Claims.IsTrapRecord x { cause := c.toNat, info := r.sub, addr := v.toNat } (x.sp.pc + 4) rec_ ∧
              (Sys2Proof.Claims.MayEnter x → x.wv.tvecObj ≠ 0 → Sys2Proof.Machine.exec (.ewait t mk) s =
                .next (Sys2Proof.Claims.putWave y (Sys2Proof.Claims.inServiceWith y rec_))))

/-- R149: CMAKE, CNARROW and CINFO, with the conditions under which they trap; an entry that cannot be read gives CMAKE the cause of its
read (R14, R140).
INFO and TADDR of CMAKE and CNARROW are the model's reading (log 47). -/
def Obligations.CapabilityEntries : Prop :=
  ∀ (s : Sys2Proof.Machine.State) (x : Sys2Proof.Machine.Iss) (mk : Bool),
    (∀ (b a : Sys2Proof.SReg) (kd : Sys2Proof.KReg), Sys2Proof.Claims.Issues (.cmake b a kd mk) s x →
      let obj := (x.s a).extractLsb' 0 24
      let rights := (x.s b).extractLsb' 0 5
      (∀ c : Nat, x.st.entryFault x.tm.ctx obj.toNat = some c → Sys2Proof.Machine.exec (.cmake b a kd mk) s =
        .next (x.trapHere { cause := c, info := 2 ^ 14, addr := 0 })) ∧
      (x.st.entryFault x.tm.ctx obj.toNat = none → x.st.entry x.tm.ctx obj.toNat = none →
        Sys2Proof.Machine.exec (.cmake b a kd mk) s =
          .next (x.trapHere { cause := 0x23, info := 2 ^ 14, addr := 0 })) ∧
      ∀ e : Sys2Proof.Machine.Entry, x.st.entry x.tm.ctx obj.toNat = some e →
        ((rights.getLsbD 4 = true → e.tent = true) ∧ (∀ n < 5, rights.getLsbD n = true → e.rights.testBit n = true) →
          Sys2Proof.Machine.exec (.cmake b a kd mk) s = .next (Sys2Proof.Claims.after (.cmake b a kd mk)
            (x.setK kd (BitVec.ofNat 16 e.cgen ++ 0#1 ++ BitVec.ofBool e.pub ++ 1#1 ++ rights ++ BitVec.ofNat 40 e.size ++
              0#40 ++ obj : BitVec 128)))) ∧
        (¬ ((rights.getLsbD 4 = true → e.tent = true) ∧
            (∀ n < 5, rights.getLsbD n = true → e.rights.testBit n = true)) →
          Sys2Proof.Machine.exec (.cmake b a kd mk) s =
            .next (x.trapHere { cause := 0x21, info := 2 ^ 14, addr := 0 }))) ∧
    (∀ (b a : Sys2Proof.SReg) (ks kd : Sys2Proof.KReg), Sys2Proof.Claims.Issues (.cnarrow b a ks kd mk) s x →
      let c := x.k ks
      let base := (x.s a).extractLsb' 0 40
      let len := (x.s b).extractLsb' 0 40
      (c.getLsbD 109 = false → Sys2Proof.Machine.exec (.cnarrow b a ks kd mk) s =
        .next (x.trapHere { cause := 0x23, info := ks.val * 2 ^ 8 + 2 ^ 14, addr := base.toNat })) ∧
      (c.getLsbD 109 = true → (c.extractLsb' 64 40).toNat < base.toNat + len.toNat →
        Sys2Proof.Machine.exec (.cnarrow b a ks kd mk) s =
          .next (x.trapHere { cause := 0x20, info := ks.val * 2 ^ 8 + 2 ^ 14, addr := base.toNat })) ∧
      (c.getLsbD 109 = true → base.toNat + len.toNat ≤ (c.extractLsb' 64 40).toNat →
        Sys2Proof.Machine.exec (.cnarrow b a ks kd mk) s = .next (Sys2Proof.Claims.after (.cnarrow b a ks kd mk)
          (x.setK kd (c.extractLsb' 109 19 ++ (c.extractLsb' 104 5 &&& (x.s b).extractLsb' 40 5) ++ len ++
            (c.extractLsb' 24 40 + base) ++ c.extractLsb' 0 24 : BitVec 128))))) ∧
    (∀ (sel : Sys2Proof.CapField) (a : Sys2Proof.SReg) (ks : Sys2Proof.KReg),
      Sys2Proof.Claims.Issues (.cinfo sel a ks mk) s x →
      Sys2Proof.Machine.exec (.cinfo sel a ks mk) s = .next (Sys2Proof.Claims.after (.cinfo sel a ks mk) (x.setS a (
        match sel with
        | .id => ((x.k ks).extractLsb' 0 24).setWidth 64
        | .base => ((x.k ks).extractLsb' 24 40).setWidth 64
        | .len => ((x.k ks).extractLsb' 64 40).setWidth 64
        | .rights => ((x.k ks).extractLsb' 104 5).setWidth 64
        | .flags => ((x.k ks).extractLsb' 109 3).setWidth 64
        | .gen => ((x.k ks).extractLsb' 112 16).setWidth 64))))
namespace Sys2Proof.Claims

open Sys2Proof.Machine

/-- The state after `i` has had the effect `y`, with registers beside those its fields name written too. -/
def afterWriting (i : Instr) (extra : List Reg) (y : Iss) : State :=
  ((y.markWrites (infoOf i) extra).advance (infoOf i) (marks i y)).commit

/-- `n` bits of a scratchpad, at most 16, from bit `b` of the byte string at an offset; bit k lies in byte k / 8. -/
def scratchBits (m : Memory) (o b n : Nat) : Nat := scratchNat m (o + b / 8) 3 / 2 ^ (b % 8) % 2 ^ n

/-- The order of CMPRS (R239): NaN above all, infinity above every finite value, finite values by size. -/
def Larger (f a b : Nat) : Prop :=
  (magnitude f b).1 < (magnitude f a).1 ∨ (magnitude f b).1 = (magnitude f a).1 ∧ (magnitude f b).2 < (magnitude f a).2

/-- The dense groups of a pattern (Table 11.2): kept and dense elements of a group and the width of an index. -/
def patternShape : SparsePat → Nat × Nat × Nat
  | .n2m4 => (2, 4, 2)
  | .n4m8 => (4, 8, 3)
  | .n6m24 => (6, 24, 5)
  | .n8m24 => (8, 24, 5)
  | .n12m24 => (12, 24, 5)

/-- The kept depth of an element format (R222). -/
def keptDepth (f : Nat) : Nat :=
  match f with
  | 2 | 3 => 128
  | 4 | 5 | 7 | 8 => 256
  | _ => 512

/-- The element bits of formats 2 to 9 (Table 5.1). -/
def elemBits (f : Nat) : Nat :=
  match f with
  | 2 | 3 => 16
  | 4 | 5 | 7 | 8 => 8
  | _ => 4

/-- Table 5.8 for MMA (0), MMAS (1) and MMAC (2), and R245 for MMAX (3): the format words that are valid. -/
def WordOk (op w : Nat) : Prop :=
  let af := w % 32
  let bf := w / 32 % 32
  let cf := w / 2 ^ 10 % 4
  let sca := w / 2 ^ 12 % 4
  let scb := w / 2 ^ 14 % 4
  let blk := w / 2 ^ 16 % 2
  let sp := w / 2 ^ 17 % 8
  let sl := w / 2 ^ 20 % 16
  let same := (af = 2 ∨ af = 3) ∧ (bf = 2 ∨ bf = 3) ∨
    (af = 4 ∨ af = 5 ∨ af = 7 ∨ af = 8) ∧ (bf = 4 ∨ bf = 5 ∨ bf = 7 ∨ bf = 8) ∨
    (af = 6 ∨ af = 9 ∨ af = 10) ∧ (bf = 6 ∨ bf = 9 ∨ bf = 10)
  let int := (af = 7 ∨ af = 8 ∨ af = 9) ∧ (bf = 7 ∨ bf = 8 ∨ bf = 9)
  w < 2 ^ 26 ∧
  if op = 3 then
    af ≤ 1 ∧ bf ≤ 1 ∧ cf ≤ 1 ∧ sca = 0 ∧ scb = 0 ∧ blk = 0 ∧ sp = 0 ∧ 1 ≤ sl ∧ sl ≤ (if cf = 0 then 5 else 10)
  else
    same ∧ sl = 0 ∧ (af = 2 ∨ af = 3 → sca = 0) ∧ (bf = 2 ∨ bf = 3 → scb = 0) ∧ sca ≠ 3 ∧ scb ≠ 3 ∧
    cf = (if int ∧ sca = 0 ∧ scb = 0 then 2 else 0) ∧ (sca = 0 → scb = 0 → blk = 0) ∧
    (if op = 1 then bf ≠ 10 ∧ 1 ≤ sp ∧ sp ≤ 5 else sp = 0)

/-- The four matrix instructions by X code and fields: AC, P, FW, SB, RG and AT. -/
def matrixForm : Instr → Option (Nat × Bool × Bool × VReg × SReg × Fin 8 × AReg)
  | .mma ac p fw sb rg t _ => some (0, ac, p, fw, sb, rg, t)
  | .mmas ac p fw sb rg t _ => some (1, ac, p, fw, sb, rg, t)
  | .mmac ac p fw sb rg t _ => some (2, ac, p, fw, sb, rg, t)
  | .mmax ac p fw sb rg t _ => some (3, ac, p, fw, sb, rg, t)
  | _ => none

/-- The matrix sequencer of the issuing core, and what comes to wait at its end. -/
def queueOf (x : Iss) : List SeqItem := (x.st.core x.tm.die x.wv.core).queue

/-- The issuing core's sequencer with other instructions. -/
def queueAs (x : Iss) (qs : List SeqItem) : Iss :=
  { x with st := x.st.setCore { x.st.core x.tm.die x.wv.core with queue := qs } }

/-- The issuing core's sequencer with an instruction put behind those it holds. -/
def queued (x : Iss) (q : SeqItem) : Iss := queueAs x (queueOf x ++ [q])

/-- The instruction `q` of a queue is this one. -/
def isItem (q r : SeqItem) : Bool := r.held && r.age == q.age && r.team == q.team

/-- The sequencer takes an instruction (R230, R253): at most four wait behind the one that runs, and no MMAX is held, by this core
or, on a follower, by a pass its leader runs on it. -/
def SequencerFree (x : Iss) : Prop :=
  (queueOf x).length < 5 ∧ (∀ q ∈ queueOf x, q.op ≠ 3) ∧
  (x.tm.follower = some x.wv.core → ∀ q ∈ (x.st.core x.tm.die x.tm.leader).queue,
    ¬ (q.op = 3 ∧ q.paired = true ∧ q.team = x.tm.serial))

/-- The slot a matrix instruction reads operand A from: none for MMAC, else a declared ring's slot below its count (R228). -/
def SlotIs (x : Iss) (op : Nat) (rg : Fin 8) (sl base bytes : Nat) : Prop :=
  if op = 2 then base = 0 ∧ bytes = 0
  else ∃ r : Ring, x.ring rg sl = some r ∧ base = r.offset + sl * r.bytes ∧ bytes = r.bytes

/-- The tiles a matrix instruction writes (R228). -/
def tilesOf (w t : Nat) : List Nat := if w / 2 ^ 10 % 4 = 1 then [t, t + 1] else [t]

/-- The tiles an MMAC reads as operand A (R232). -/
def sourcesOf (op w d : Nat) : List Nat :=
  if op = 2 then (List.range (keptDepth (w % 32) / 64)).map fun n => d / 2 ^ 56 % 16 + n else []

/-- Table 11.2 by SP: kept and dense elements of a group and the width of an index. -/
def sparseOf (sp : Nat) : Nat × Nat × Nat :=
  match sp with
  | 1 => patternShape .n2m4
  | 2 => patternShape .n4m8
  | 3 => patternShape .n6m24
  | 4 => patternShape .n8m24
  | _ => patternShape .n12m24

/-- The pattern of a format word. -/
def shapeOf (w : Nat) : Nat × Nat × Nat := sparseOf (w / 2 ^ 17 % 8)

/-- KD of a format word, which AF gives (R222). -/
def depthOf (w : Nat) : Nat := keptDepth (w % 32)

/-- Bytes of a metadata image, and the registers it takes (R231). -/
def imageBytes (w : Nat) (p : Bool) : Nat := 8 * depthOf w * (shapeOf w).2.2 * if p then 2 else 1
/-- The registers of a metadata image. -/
def imageRegs (w : Nat) (p : Bool) : Nat := depthOf w * (shapeOf w).2.2 / 16 * if p then 2 else 1

/-- The metadata image of an MMAS as one number, from the registers behind FW or from scratchpad (R231). -/
def ImageIs (x : Iss) (p : Bool) (fw : VReg) (w d image : Nat) : Prop :=
  image < 2 ^ (8 * imageBytes w p) ∧
  ∀ n < 8 * imageBytes w p, image.testBit n =
    if bitsOf d 32 1 = 1 then (x.scratch.read (256 * bitsOf d 40 16 + n / 8)).getLsbD (n % 8)
    else (x.v (Fin.ofNat 64 (fw.val + 1 + n / 1024)) (Fin.ofNat 32 (n % 1024 / 32))).getLsbD (n % 32)

/-- A group of a column of a metadata image has an index that is not below the group's dense size, or not above the one before it (R231). -/
def MetaBad (w image j g : Nat) : Prop :=
  let kept := (shapeOf w).1
  let size := (shapeOf w).2.1
  let idx := fun (e : Nat) => bitsOf image ((shapeOf w).2.2 * (depthOf w * j + e)) (shapeOf w).2.2
  ∃ e, kept * g ≤ e ∧ e < min (depthOf w) (kept * g + kept) ∧
    (min size (depthOf w * size / kept - size * g) ≤ idx e ∨ kept * g < e ∧ idx e ≤ idx (e - 1))

/-- The first column and group of a metadata image that fail (R231). -/
def MetaFails (w image columns c g : Nat) : Prop :=
  c < columns ∧ MetaBad w image c g ∧ (∀ h < g, ¬ MetaBad w image c h) ∧ ∀ j < c, ∀ h : Nat, ¬ MetaBad w image j h

/-- The dense depth Kd of a matrix instruction's pass (R224, R231, R246). -/
def denseOf (op w : Nat) : Nat :=
  if op = 3 then 256 else if op = 1 then depthOf w * (shapeOf w).2.1 / (shapeOf w).1 else depthOf w

/-- The bits of an element of operand A (R224, R246). -/
def bitsOfA (w : Nat) : Nat :=
  match w % 32 with
  | 0 => 64
  | 1 => 32
  | 10 => 2
  | f => elemBits f

/-- Some element of `m` rows of operand A, or one of their scales, lies past a slot of `slot` bytes (R224). -/
def PassesSlot (op w m slot : Nat) : Prop :=
  let kd := denseOf op w
  let size := bitsOfA w
  let pitch := (kd * size + 2047) / 2048 * 256
  let scales := kd / if bitsOf w 16 1 = 1 then 16 else 32
  (∃ i < m, ∃ k < kd, 8 * slot < (if bitsOf w 24 1 = 1 then (64 * k + i) * size else 8 * (i * pitch) + k * size) + size) ∨
  (bitsOf w 12 2 ≠ 0 ∧ ∃ i < m, slot < 64 * pitch + 256 * i + if bitsOf w 12 2 = 1 then scales else (scales + 2) / 3 * 4)

/-- MX_OPERAND (R228 item 3, R231, R232, R247) of a matrix instruction with X code `op`, format word `w` and descriptor `d`, whose operand
A has a slot of `slot` bytes. -/
def MxOperand (x : Iss) (op : Nat) (p : Bool) (fw : VReg) (rg : Fin 8) (t : AReg) (w d slot : Nat) : Prop :=
  let cf := bitsOf w 10 2
  let asrc := bitsOf d 56 4
  let msrc := bitsOf d 32 1
  let moff := bitsOf d 40 16
  let sources := fun (n : Nat) => asrc ≤ n ∧ n < asrc + denseOf 2 w / 64
  -- a reserved bit of s(SB), or a field where Table 11.1 gives 0
  bitsOf d 7 1 ≠ 0 ∨ bitsOf d 14 2 ≠ 0 ∨ bitsOf d 22 2 ≠ 0 ∨ bitsOf d 30 2 ≠ 0 ∨ bitsOf d 33 7 ≠ 0 ∨ bitsOf d 60 4 ≠ 0 ∨
  (op ≠ 2 ∧ asrc ≠ 0) ∨ (op ≠ 1 ∧ msrc ≠ 0) ∨ (¬ (op = 1 ∧ msrc = 1) ∧ moff ≠ 0) ∨
  64 < bitsOf d 16 6 + (bitsOf d 8 6 + 1) ∨ (bitsOf d 0 7 = 127 ∧ bitsOf w 14 2 ≠ 0) ∨
  (op ≠ 2 ∧ PassesSlot op w (bitsOf d 8 6 + 1) slot) ∨ (bitsOf w 24 1 = 1 ∧ w % 32 = 10) ∨ (cf = 1 ∧ t.val % 2 = 1) ∨
  (p = true ∧ (x.tm.follower = none ∨ x.wv.core ≠ x.tm.leader)) ∨
  -- MMAS: the metadata's extent (R231)
  (op = 1 ∧ msrc = 0 ∧ x.tm.vregs ≤ fw.val + imageRegs w p) ∨
  (op = 1 ∧ msrc = 1 ∧ x.tm.scru * 16384 < 256 * moff + imageBytes w p) ∨
  -- MMAC (R232)
  (op = 2 ∧ (w % 32 = 10 ∨ bitsOf w 24 1 = 1 ∨ bitsOf w 12 2 ≠ 0 ∨ rg ≠ 0 ∨ bitsOf d 24 6 ≠ 0 ∨
    16 < asrc + denseOf 2 w / 64 ∨ sources t.val ∨ cf = 1 ∧ sources (t.val + 1))) ∨
  -- MMAX (R247)
  (op = 3 ∧ 128 < bitsOf d 0 7 + if bitsOf w 5 5 = 0 then 8 else 4)

/-- The registers that the agreed word and s(SB) add to those the fields name (R428): those read. -/
def addedReads (op : Nat) (ac p : Bool) (fw : VReg) (t : AReg) (w d : Nat) : List Reg :=
  (if ac = true ∧ bitsOf w 10 2 = 1 then [.a (t.val + 1)] else []) ++
  (if op = 1 ∧ bitsOf d 32 1 = 0 then (List.range (imageRegs w p)).map fun n => .v (fw.val + 1 + n) else []) ++
  (sourcesOf op w d).map .a

/-- The second tile a matrix instruction writes (R428). -/
def secondTile (op w t : Nat) : List Reg := if op ≤ 3 ∧ bitsOf w 10 2 = 1 then [.a (t + 1)] else []

/-- The tiles whose reading traps ARRAY_CHECK where they are poisoned, each with its core (R234): the destination of a pass with AC = 1,
on both cores of a paired one, the sources of an MMAC, and the tiles of an AST. -/
def readTiles (x : Iss) (q : SeqItem) : List (Nat × Nat) :=
  let here := fun (ts : List Nat) => ts.map fun n => (x.wv.core, n)
  let there := if q.paired then x.tm.follower.toList else []
  let w := q.word.toNat
  if q.op = 6 then here (if q.fmt = 0 then [q.tile, q.tile + 1] else [q.tile])
  else if q.op ≤ 3 then
    (if q.accumulate then here (tilesOf w q.tile) ++ (there.map fun f => (tilesOf w q.tile).map fun n => (f, n)).flatten else []) ++
      here (sourcesOf q.op w q.desc.toNat)
  else []

/-- An instruction of the team that stands before `q` in the queue of its cores may poison a tile that `q` reads, or clear its poison. -/
def Undecided (x : Iss) (q : SeqItem) : Prop :=
  ∃ r ∈ readTiles x q, ∃ n ∈ x.tm.leader :: x.tm.follower.toList, ∃ p ∈ (x.st.core x.tm.die n).queue,
    p.team = x.tm.serial ∧ p.age < q.age ∧ (r.1 = n ∨ p.paired = true ∧ x.tm.follower = some r.1) ∧
    (p.op ≤ 3 ∧ bitsOf p.word.toNat 25 1 = 0 ∧ r.2 ∈ tilesOf p.word.toNat p.tile ∨ p.op = 4 ∧ p.tile = r.2)

/-- What follows once an instruction `q` of the sequencer has all its checks but the last ones (R231, R234): it waits while it is undecided;
else a poisoned tile that it reads traps with the PC recorded, then bad metadata of an MMAS with the first column and group that
fail; else it goes on. `y` is the machine that waits, `z` that of a trap, `on` the instruction gone on. -/
def LastChecks (i : Instr) (s : State) (x : Iss) (q : SeqItem) (y z on : Iss) : Prop :=
  let columns := if q.paired then 128 else 64
  (Undecided x q → exec i s = .next (waits i y (.tile q.age))) ∧
  (¬ Undecided x q →
    (∀ p : Poison, x.tm.poison = [p] → (p.core, p.tile) ∈ readTiles x q →
      exec i s = .next (z.trapHere { cause := 0x61, addr := p.pc.toNat })) ∧
    ((∀ p ∈ x.tm.poison, (p.core, p.tile) ∉ readTiles x q) →
      (∀ c g : Nat, q.op = 1 → MetaFails q.word.toNat q.image columns c g →
        exec i s = .next (z.trapHere { cause := 0x62, info := c, addr := g })) ∧
      ((q.op = 1 → ∀ c < columns, ∀ g : Nat, ¬ MetaBad q.word.toNat q.image c g) →
        exec i s = .next (afterWriting i (secondTile q.op q.word.toNat q.tile) on))))

/-- An instruction of the sequencer as it enters the queue: its team, wave, recorded PC, word, kind, tile and lanes, its age, and no
progress yet (R229, R234, R256, R320). -/
def freshItem (x : Iss) (i : Instr) (op tile : Nat) : SeqItem :=
  { team := x.tm.serial, wave := x.wv.number.val, pc := x.pc
    insn := match encode i with | some (_, w) => BitVec.ofNat 32 w | none => 0
    op := op, accumulate := false, paired := false, tile := tile, base := 0, rg := 0, fmt := 0, vreg := 0, mask := x.mask
    word := 0, desc := 0, image := 0, age := x.st.free, held := false, fixed := false, eexp := [], fexp := [], step := 0
    z := [] }

/-- A matrix pass as the sequencer holds it: what its fields, its format word and s(SB) say, with its metadata. -/
def passItem (x : Iss) (i : Instr) (op : Nat) (ac p : Bool) (t : AReg) (w : W32) (d : W64) (base image : Nat) : SeqItem :=
  { freshItem x i op t.val with
    accumulate := ac, paired := p, base := base, word := w, desc := d, image := image }

end Sys2Proof.Claims

/-- R239 and R339: CMPRS. Without an active lane it does nothing. A reserved bit, a format outside 2 to 9, overlap of the two
ranges, a register past the team's or D ≠ 0 without MREG trap MX_OPERAND; a range past the scratchpad traps BOUNDS. Else every
group of every column keeps its largest elements, ties going to the lower index, in ascending order: their values stand at O + 256j,
their indices at O + 16,384, where MREG asks for it in the active lanes of v(D) on too, and nothing else changes. -/
def Obligations.CompressEntry : Prop :=
  ∀ (pat : Sys2Proof.SparsePat) (b a : Sys2Proof.SReg) (d : Sys2Proof.VReg) (mk : Bool) (s : Sys2Proof.Machine.State)
    (x : Sys2Proof.Machine.Iss), Sys2Proof.Claims.Issues (.cmprs pat b a d mk) s x →
    let sa := (x.s a).toNat
    let sb := (x.s b).toNat
    let f := sa / 2 ^ 24 % 32
    let src := sa % 2 ^ 24
    let out := sb % 2 ^ 24
    let mreg := sb / 2 ^ 24 % 2 = 1
    let kept := (Sys2Proof.Claims.patternShape pat).1
    let size := (Sys2Proof.Claims.patternShape pat).2.1
    let ib := (Sys2Proof.Claims.patternShape pat).2.2
    let kd := Sys2Proof.Claims.keptDepth f
    let n := Sys2Proof.Claims.elemBits f
    let dense := kd * size / kept
    let regs := kd * ib / 16
    let inBytes := dense * 64 * n / 8
    let outBytes := 16384 + 8 * kd * ib
    let bad := 2 ^ 29 ≤ sa ∨ 2 ^ 25 ≤ sb ∨ f < 2 ∨ 9 < f ∨ (mreg ∧ x.tm.vregs < d.val + regs) ∨ (¬ mreg ∧ d ≠ 0) ∨
      (src < out + outBytes ∧ out < src + inBytes)
    let hazard := mreg ∧ ∃ r < regs, x.sp.pend.has (.v (d.val + r)) = true
    (x.mask = 0 → Sys2Proof.Machine.exec (.cmprs pat b a d mk) s =
      .next (Sys2Proof.Claims.after (.cmprs pat b a d mk) x)) ∧
    (x.mask ≠ 0 → ¬ hazard → bad → Sys2Proof.Machine.exec (.cmprs pat b a d mk) s =
      .next (x.trapHere { cause := 0x66 })) ∧
    (x.mask ≠ 0 → ¬ hazard → ¬ bad → x.tm.scru * 16384 < src + inBytes →
      Sys2Proof.Machine.exec (.cmprs pat b a d mk) s =
        .next (x.trapHere { cause := 0x20, info := 2 ^ 12 + 2 ^ 14, addr := src })) ∧
    (x.mask ≠ 0 → ¬ hazard → ¬ bad → src + inBytes ≤ x.tm.scru * 16384 → x.tm.scru * 16384 < out + outBytes →
      Sys2Proof.Machine.exec (.cmprs pat b a d mk) s =
        .next (x.trapHere { cause := 0x20, info := 2 ^ 12 + 2 ^ 14, addr := out })) ∧
    (x.mask ≠ 0 → ¬ hazard → ¬ bad → src + inBytes ≤ x.tm.scru * 16384 → out + outBytes ≤ x.tm.scru * 16384 →
      x.scratch.wf = true →
      ∃ (m : Sys2Proof.Machine.Memory) (vs : Vector (Vector Sys2Proof.W32 32) 64) (idx : Nat → Nat → Nat),
        Sys2Proof.Machine.exec (.cmprs pat b a d mk) s =
          .next (Sys2Proof.Claims.afterWriting (.cmprs pat b a d mk)
            (if sb / 2 ^ 24 % 2 = 1 then (List.range regs).map fun r => .v (d.val + r) else [])
            { x.setScratch m with wv := { x.wv with v := vs } }) ∧
        (∀ j < 64, ∀ e < kd,
          let g := e / kept
          let gsize := min size (dense - size * g)
          let elem := fun k => Sys2Proof.Claims.scratchBits x.scratch src ((64 * (size * g + k) + j) * n) n
          let taken := fun k => ∃ r, e / kept * kept ≤ r ∧ r < min kd (e / kept * kept + kept) ∧ idx j r = k
          idx j e < gsize ∧ (e + 1 < kd → (e + 1) / kept = g → idx j e < idx j (e + 1)) ∧
          (∀ k < gsize, ¬ taken k → ¬ Sys2Proof.Claims.Larger f (elem k) (elem (idx j e)) ∧
            (¬ Sys2Proof.Claims.Larger f (elem (idx j e)) (elem k) → idx j e < k)) ∧
          Sys2Proof.Claims.scratchBits m (out + 256 * j) (n * e) n = elem (idx j e) ∧
          Sys2Proof.Claims.scratchBits m (out + 16384) (ib * (kd * j + e)) ib = idx j e) ∧
        (∀ adr : Nat, adr < out ∨ out + outBytes ≤ adr → m.read adr = x.scratch.read adr) ∧
        ∀ (r : Sys2Proof.VReg) (L : Fin 32), vs[r][L] =
          if mreg ∧ x.mask.getLsbD L.val = true ∧ d.val ≤ r.val ∧ r.val < d.val + regs then
            BitVec.ofNat 32 (Sys2Proof.Claims.scratchNat m (out + 16384 + 128 * (r.val - d.val) + 4 * L.val) 4)
          else x.wv.v[r][L])

/-- R111, R228, R230 to R232, R234, R247, R377 and R428: MMA, MMAS, MMAC and MMAX. Without an active lane they do nothing; while the
sequencer is busy they do not issue, and nothing changes (R44). A lane whose word differs from the lowest lane's traps FORMAT_DIVERGE with
the mask of such lanes, a word outside Table 5.8 FORMAT_INVALID, a hazard on what the word and s(SB) add HAZARD_RAW or HAZARD_WAW. Then
come, in order, RING_STATE for an undeclared slot, the cases of MX_OPERAND, ACC_RANGE for a tile past ACCU, ARRAY_CHECK for a
poisoned tile with the recorded PC, and META_INVALID with the first column and group that fail. Past these the instruction completes: it
stands last in its core's sequencer, its tiles pending. One that stands in the queue while an earlier one decides whether a tile it reads is
poisoned waits, and has these last checks then.
The extent of operand A, and the place in the queue of one that waits so, are the model's reading (logs 25, 26). -/
def Obligations.MatrixIssue : Prop :=
  ∀ (i : Sys2Proof.Instr) (op : Nat) (ac p : Bool) (fw : Sys2Proof.VReg) (sb : Sys2Proof.SReg) (rg : Fin 8)
    (t : Sys2Proof.AReg) (s : Sys2Proof.Machine.State) (x : Sys2Proof.Machine.Iss),
    Sys2Proof.Claims.matrixForm i = some (op, ac, p, fw, sb, rg, t) → Sys2Proof.Claims.Issues i s x →
    (x.mask = 0 → Sys2Proof.Machine.exec i s = .next (Sys2Proof.Claims.after i x)) ∧
    (x.mask ≠ 0 → ∀ q : Sys2Proof.Machine.SeqItem, x.heldItem = some q →
      Sys2Proof.Claims.LastChecks i s x q x
        (Sys2Proof.Claims.queueAs x ((Sys2Proof.Claims.queueOf x).filter fun r => !Sys2Proof.Claims.isItem q r))
        (Sys2Proof.Claims.queueAs x ((Sys2Proof.Claims.queueOf x).map fun r =>
          if Sys2Proof.Claims.isItem q r then { r with held := false } else r))) ∧
    (x.mask ≠ 0 → x.heldItem = none → ¬ Sys2Proof.Claims.SequencerFree x → Sys2Proof.Machine.exec i s = .next s) ∧
    ∀ L0 : Fin 32, Sys2Proof.Claims.SequencerFree x → x.heldItem = none → x.mask.getLsbD L0.val = true →
      (∀ K : Fin 32, K < L0 → x.mask.getLsbD K.val = false) →
      let w := (x.v fw L0).toNat
      let d := (x.s sb).toNat
      let traps := fun (c : Nat) => Sys2Proof.Machine.exec i s = .next (x.trapHere { cause := c })
      (∀ diff : Sys2Proof.Mask, diff ≠ 0 →
        (∀ L : Fin 32, diff.getLsbD L.val = (x.mask.getLsbD L.val && x.v fw L != x.v fw L0)) →
        Sys2Proof.Machine.exec i s = .next (x.trapHere { cause := 0x60, info := diff.toNat, addr := w })) ∧
      ((∀ L : Fin 32, x.mask.getLsbD L.val = true → x.v fw L = x.v fw L0) →
        (¬ Sys2Proof.Claims.WordOk op w → traps 0x64) ∧
        (Sys2Proof.Claims.WordOk op w →
          let reads := Sys2Proof.Claims.addedReads op ac p fw t w d
          let writes := Sys2Proof.Claims.secondTile op w t.val
          let tiles := Sys2Proof.Claims.tilesOf w t.val ++ Sys2Proof.Claims.sourcesOf op w d
          ((∃ r ∈ reads, x.sp.pend.has r = true) → traps 0x05) ∧
          ((∀ r ∈ reads, x.sp.pend.has r = false) → (∃ r ∈ writes, x.sp.pend.has r = true) → traps 0x06) ∧
          ((∀ r ∈ reads ++ writes, x.sp.pend.has r = false) →
            (op ≠ 2 → x.ring rg (Sys2Proof.Claims.bitsOf d 24 6) = none → traps 0x65) ∧
            ∀ base bytes : Nat, Sys2Proof.Claims.SlotIs x op rg (Sys2Proof.Claims.bitsOf d 24 6) base bytes →
              let bad := Sys2Proof.Claims.MxOperand x op p fw rg t w d bytes
              (bad → traps 0x66) ∧
              (¬ bad → (∃ n ∈ tiles, x.tm.accu ≤ n) → traps 0x63) ∧
              (¬ bad → (∀ n ∈ tiles, n < x.tm.accu) → ∀ image : Nat,
                (op = 1 → Sys2Proof.Claims.ImageIs x p fw w d image) → (op ≠ 1 → image = 0) →
                let item := Sys2Proof.Claims.passItem x i op ac p t (x.v fw L0) (x.s sb) base image
                Sys2Proof.Claims.LastChecks i s x item (Sys2Proof.Claims.queued x { item with held := true }) x
                  (Sys2Proof.Claims.queued x item)))))

/-- R319 to R321 and R234: ACLR, ALD and AST at issue. While the sequencer is busy they do not issue, and nothing changes (R44). FMT 10 and an
odd FP64 pair trap MX_OPERAND, a tile at or past ACCU ACC_RANGE, a poisoned tile of an AST ARRAY_CHECK; else they complete and stand last in
the sequencer, an ALD with its registers as they stand. An AST behind an instruction that decides whether a tile it reads is poisoned
holds its place there and waits, and has its last check then, as it is tried again.
The place in the queue of one that waits so is the model's reading (log 25). -/
def Obligations.AccumulatorIssue : Prop :=
  ∀ (s : Sys2Proof.Machine.State) (x : Sys2Proof.Machine.Iss) (mk : Bool),
    let free := Sys2Proof.Claims.SequencerFree x
    (∀ t : Sys2Proof.AReg, Sys2Proof.Claims.Issues (.aclr t mk) s x → x.heldItem = none →
      (¬ free → Sys2Proof.Machine.exec (.aclr t mk) s = .next s) ∧
      (free → x.tm.accu ≤ t.val → Sys2Proof.Machine.exec (.aclr t mk) s = .next (x.trapHere { cause := 0x63 })) ∧
      (free → t.val < x.tm.accu → Sys2Proof.Machine.exec (.aclr t mk) s = .next (Sys2Proof.Claims.after (.aclr t mk)
        (Sys2Proof.Claims.queued x (Sys2Proof.Claims.freshItem x (.aclr t mk) 4 t.val))))) ∧
    ∀ (fmt : Sys2Proof.ElemFmt) (v : Sys2Proof.VReg) (rg : Fin 8) (t : Sys2Proof.AReg) (i : Sys2Proof.Instr),
      i = .ald fmt v rg t mk ∨ i = .ast fmt v rg t mk → Sys2Proof.Claims.Issues i s x →
      let odd := fmt = .cb2 ∨ fmt = .fp64 ∧ t.val % 2 = 1
      let top := if fmt = .fp64 then t.val + 1 else t.val
      (∀ q : Sys2Proof.Machine.SeqItem, i = .ast fmt v rg t mk → x.heldItem = some q → q.op = 6 →
        Sys2Proof.Claims.LastChecks i s x q x
          (Sys2Proof.Claims.queueAs x ((Sys2Proof.Claims.queueOf x).filter fun r => !Sys2Proof.Claims.isItem q r))
          (Sys2Proof.Claims.queueAs x ((Sys2Proof.Claims.queueOf x).map fun r =>
            if Sys2Proof.Claims.isItem q r then { r with held := false } else r))) ∧
      (x.heldItem = none →
        (¬ free → Sys2Proof.Machine.exec i s = .next s) ∧
        (free → odd → Sys2Proof.Machine.exec i s = .next (x.trapHere { cause := 0x66 })) ∧
        (free → ¬ odd → x.tm.accu ≤ top → Sys2Proof.Machine.exec i s = .next (x.trapHere { cause := 0x63 })) ∧
        (free → ¬ odd → top < x.tm.accu →
          (i = .ald fmt v rg t mk → Sys2Proof.Machine.exec i s =
            .next (Sys2Proof.Claims.after i (Sys2Proof.Claims.queued x { Sys2Proof.Claims.freshItem x i 5 t.val with
              rg := rg.val, fmt := fmt.code, vreg := v.val
              image := x.regImage v (Sys2Proof.Machine.rowGroupRegs fmt.code) }))) ∧
          (i = .ast fmt v rg t mk →
            let item : Sys2Proof.Machine.SeqItem :=
              { Sys2Proof.Claims.freshItem x i 6 t.val with rg := rg.val, fmt := fmt.code, vreg := v.val }
            Sys2Proof.Claims.LastChecks i s x item (Sys2Proof.Claims.queued x { item with held := true }) x
              (Sys2Proof.Claims.queued x item))))
namespace Sys2Proof.Claims

open Sys2Proof.Machine

/-- The engine commands: SUB, the scalars of the parameter block, T, P, KS and KD. -/
def engineForm : Instr → Option (Nat × Nat × SReg × SReg × KReg × KReg)
  | .cpy t p ks kd _ => some (0, 3, t, p, ks, kd)
  | .gath t p ks _ => some (1, 4, t, p, ks, 0)
  | .bld t p ks _ => some (2, 3, t, p, ks, 0)
  | .coll t p ks kd _ => some (3, 5, t, p, ks, kd)
  | _ => none

/-- The source bytes of a BLD from its first to its last (R237). -/
def bldBytes (q : Nat → Nat) : Nat := bitsOf (q 0) 16 6 * q 2 + 256 * (bitsOf (q 0) 24 7 + 1)

/-- A parameter block that traps ENG_PARAM (R333): of CPY by R346, GATH by R238 and R358, BLD by R237 and R334, COLL by R341. -/
def BlockBad (scru sub : Nat) (ks : KReg) (q : Nat → Nat) : Prop :=
  match sub with
  | 0 => 2 ^ 40 ≤ q 0 ∨ 2 ^ 40 ≤ q 1 ∨ 2 ^ 40 ≤ q 2 ∨ ks = 0 ∧ q 0 ≠ 0
  | 1 =>
    let n := bitsOf (q 0) 24 7 + 1
    let dp := bitsOf (q 0) 32 16
    let rb := bitsOf (q 0) 48 16
    bitsOf (q 0) 31 1 ≠ 0 ∨ 2 ^ 40 ≤ q 1 ∨ 2 ^ 40 ≤ q 2 ∨ 2 ^ 40 ≤ q 3 ∨ 64 < n ∨ rb < 16 ∨ 4096 < rb ∨ rb % 16 ≠ 0 ∨
      dp < 16 ∨ 4096 < dp ∨ dp % 16 ≠ 0 ∨ dp < rb ∨ q 3 % 4 ≠ 0 ∨ scru * 16384 < bitsOf (q 0) 0 24 + n * dp ∨
      2 ^ 40 < q 3 + 4 * n
  | 2 =>
    let scr := bitsOf (q 0) 32 1 = 1
    bitsOf (q 0) 7 1 ≠ 0 ∨ bitsOf (q 0) 14 2 ≠ 0 ∨ bitsOf (q 0) 22 2 ≠ 0 ∨ bitsOf (q 0) 31 1 ≠ 0 ∨ 2 ^ 33 ≤ q 0 ∨
      64 < bitsOf (q 0) 8 6 + bitsOf (q 0) 16 6 + 1 ∨ 128 < bitsOf (q 0) 0 7 + bitsOf (q 0) 24 7 + 1 ∨
      2 ^ 40 ≤ q 1 ∨ 2 ^ 40 ≤ q 2 ∨ scr ∧ (ks ≠ 0 ∨ 2 ^ 24 ≤ q 1 ∨ scru * 16384 < q 1 + bldBytes q)
  | _ =>
    ks = 0 ∨ 2 ^ 36 ≤ q 0 ∨ 6 < bitsOf (q 0) 32 4 ∨ bitsOf (q 0) 29 3 ≠ 0 ∨ bitsOf (q 0) 13 3 ≠ 0 ∨
      bitsOf (q 0) 0 13 < bitsOf (q 0) 16 13 ∨ q 1 % 256 ≠ 0 ∨ q 1 < 256 ∨ 2 ^ 20 < q 1 ∨ 2 ^ 40 ≤ q 2 ∨ 2 ^ 40 ≤ q 3 ∨
      2 ^ 48 ≤ q 4

/-- The ranges that an engine command's capabilities must cover: the register, the right (0 read, 1 write), offset and bytes. -/
def engineRanges (sub : Nat) (ks kd : KReg) (q : Nat → Nat) : List (KReg × Nat × Nat × Nat) :=
  match sub with
  | 0 => (kd, 1, q 1, q 2) :: if ks = 0 then [] else [(ks, 0, q 0, q 2)]
  | 1 => [(ks, 0, q 3, 4 * (bitsOf (q 0) 24 7 + 1))]
  | 2 => if bitsOf (q 0) 32 1 = 1 then [] else [(ks, 0, q 1, bldBytes q)]
  | _ => [(kd, 1, q 3, q 1), (ks, 0, q 2, q 1)]

/-- The check of a whole range (R333): valid, the right and the engine right and no tentative right, within LEN. -/
def rangeCause (c : Cap) (right o n : Nat) : Option Nat :=
  if c.getLsbD 109 = false then some 0x23
  else if c.getLsbD (104 + right) = false ∨ c.getLsbD 107 = false ∨ c.getLsbD 108 = true then some 0x21
  else if (c.extractLsb' 64 40).toNat < o + n then some 0x20
  else none

/-- The engine commands of a core, and those of them that the issuing wave has outstanding. -/
def engineCount (x : Iss) : Nat × Nat :=
  let es := (x.st.core x.tm.die x.wv.core).engines
  (es.length, (es.filter fun e => e.die == x.tm.die && e.team == x.tm.serial && e.wave == x.wv.number.val).length)

/-- The issuing wave with its queued stores performed. -/
def drained (x : Iss) : Iss :=
  { x with
    st := x.st.performAll x.tm.ctx x.tm.die x.wv.core x.tm.serial x.wv.stores
    wv := { x.wv with stores := [] } }

/-- The outcomes a wave keeps: the 256 newest, and before them those of older commands that a split of it waits for (R348, R350). -/
def outcomesKept (w : Wave) (os : List Outcome) : List Outcome :=
  let awaited := fun (o : Outcome) => w.splits.toList.any fun sp =>
    match sp with
    | some q => (match q.status with
      | .waiting (.ewait v) => v.toNat % 2 ^ 32 == o.serial
      | _ => false)
    | none => false
  (os.take (os.length - 256)).filter awaited ++ os.drop (os.length - 256)

/-- The serial of the wave's next command (R348). -/
def serialOf (x : Iss) : Nat := if x.wv.serial = 2 ^ 32 - 1 then 1 else x.wv.serial + 1

/-- The state after an engine command has been admitted: `st` is what its admission leaves of the machine, `ended` and `cause` how the
command stands. s(T) holds its ticket, cc.E is set, the wave keeps the outcome. -/
def admitted (i : Instr) (x : Iss) (t : SReg) (sub : Nat) (st : State) (ended : Bool) (cause : Option (BitVec 8)) : State :=
  let w := (drained x).wv
  let z : Iss := { drained x with
    st := st
    wv := { w with
      serial := serialOf x
      outcomes := outcomesKept w (w.outcomes ++ [⟨serialOf x, sub, ended, cause⟩])
      cc := { w.cc with e := true } } }
  after i (z.setS t (BitVec.ofNat 64 (2 ^ 63 + x.wv.number.val * 2 ^ 40 + sub * 2 ^ 32 + serialOf x)))

/-- A command put behind those of the issuing core. -/
def withCommand (x : Iss) (st : State) (e : EngineCmd) : State :=
  let c := st.core x.tm.die x.wv.core
  st.setCore { c with engines := c.engines ++ [e] }

/-- The pins in L1 that other commands of the issuing core hold leave no room for the lines a command writes (R139), or an earlier command
has still to write what it reads at its admission (R173). -/
def admissionBarred (x : Iss) (e : EngineCmd) : Bool :=
  pinsFull x.st.allPins (x.st.linesOf x.tm.ctx e.writes) ||
    pinsFullL1 (x.st.core x.tm.die x.wv.core).l1Pinned (linesL1 x.tm.ctx e.writes) || x.readsLate e

/-- The WID that the wave of a command has now; the one it was issued with where the wave is gone. -/
def widNow (s : State) (die : Fin 4) (e : EngineCmd) : Nat :=
  match (s.findTeam die e.team).bind fun q => q.2.waves.find? fun w => w.number.val == e.wave with
  | some w => widOf die w
  | none => e.wid

/-- A command is gone from its core, and its wave, where the team is still there, knows how it ended. -/
def Ended (u : State) (die : Fin 4) (core : Nat) (e : EngineCmd) (cause : Option (BitVec 8)) : Prop :=
  (∀ a ∈ (u.core die core).engines, ¬ (a.die = e.die ∧ a.team = e.team ∧ a.wave = e.wave ∧ a.serial = e.serial)) ∧
  ∀ t ∈ u.teams, t.die = e.die → t.serial = e.team → (∀ t' ∈ u.teams, t'.die = e.die → t'.serial = e.team → t' = t) →
    ∀ w ∈ t.waves, w.number.val = e.wave → ∀ o ∈ w.outcomes, o.serial = e.serial → o.ended = true ∧ o.cause = cause

end Sys2Proof.Claims

/-- R333 and R348: CPY, GATH, BLD and COLL. A block outside its limits traps ENG_PARAM; a capability that fails traps with its cause, its
register's number and the range's offset; past 16 commands of the wave or 64 of the core, or blocked by pins, the wave waits at footprint
admission. Else the wave's stores are performed, s(T) gets the ticket of the next serial, cc.E is set, the wave keeps the command among its
256 most recent, and the command joins its core's, with its block and capabilities as they stand. A CPY of no bytes is over at once. A GATH
has its indices read at admission (R238, R359): one whose rows do not fit ends with BOUNDS, a fault of the read ends it, and a page that is
not there makes it wait. A BLD from scratchpad has its source read at admission (R334).
What the pins of one command come to is the model's reading (log 23), and so is what a stalled index read covers (log 49). -/
def Obligations.EngineAdmissions : Prop :=
  ∀ (i : Sys2Proof.Instr) (sub n : Nat) (t p : Sys2Proof.SReg) (ks kd : Sys2Proof.KReg) (s : Sys2Proof.Machine.State)
    (x : Sys2Proof.Machine.Iss), Sys2Proof.Claims.engineForm i = some (sub, n, t, p, ks, kd) →
    Sys2Proof.Claims.Issues i s x →
    let q := fun (j : Nat) => (x.s (Fin.ofNat 64 (p.val + j))).toNat
    let ranges := Sys2Proof.Claims.engineRanges sub ks kd q
    let fails := fun (r : Sys2Proof.KReg × Nat × Nat × Nat) =>
      Sys2Proof.Claims.rangeCause (x.k r.1) r.2.1 r.2.2.1 r.2.2.2
    let e0 := x.engineCmd sub p n ks kd
    let barred := Sys2Proof.Claims.admissionBarred x e0
    (Sys2Proof.Claims.BlockBad x.tm.scru sub ks q → Sys2Proof.Machine.exec i s = .next (x.trapHere { cause := 0x67 })) ∧
    (¬ Sys2Proof.Claims.BlockBad x.tm.scru sub ks q →
      (∀ r ∈ ranges, ∀ c : Nat, fails r = some c → (∀ r' ∈ ranges, r' ≠ r → fails r' = none) →
        Sys2Proof.Machine.exec i s =
          .next (x.trapHere { cause := c, info := r.1.val * 2 ^ 8 + 2 ^ 14, addr := r.2.2.1 })) ∧
      ((∀ r ∈ ranges, fails r = none) →
        (64 ≤ (Sys2Proof.Claims.engineCount x).1 ∨ 16 ≤ (Sys2Proof.Claims.engineCount x).2 ∨ barred = true →
          Sys2Proof.Machine.exec i s = .next (Sys2Proof.Claims.waits i x .admission)) ∧
        ((Sys2Proof.Claims.engineCount x).1 < 64 → (Sys2Proof.Claims.engineCount x).2 < 16 → barred = false →
          Sys2Proof.Claims.NoneOwed x →
          ∃ (pins : List Nat) (pins1 : List (Nat × Nat × Nat)),
            let y := (Sys2Proof.Claims.drained x).st
            let e := { e0 with serial := Sys2Proof.Claims.serialOf x, pins := pins, pins1 := pins1 }
            let rows := Sys2Proof.Claims.bitsOf (q 0) 24 7 + 1
            let indices := fun (bs : List Sys2Proof.Byte) =>
              (List.range rows).map fun j => Sys2Proof.Machine.bytesNat bs (4 * j) 4
            let fits := fun (r : Nat) => r = 2 ^ 32 - 1 ∨
              q 1 + r * q 2 + Sys2Proof.Claims.bitsOf (q 0) 48 16 ≤ ((x.k ks).extractLsb' 64 40).toNat
            let read := y.engineRead x.tm.die x.wv.core x.tm.ctx e.serial [] (x.k ks) 3 (q 3) (4 * rows)
            (∀ a ∈ pins, a ∈ x.st.linesOf x.tm.ctx e0.writes) ∧
            (∀ a ∈ pins1, a ∈ Sys2Proof.Machine.linesL1 x.tm.ctx e0.writes) ∧
            (sub = 0 → q 2 = 0 → Sys2Proof.Machine.exec i s = .next (Sys2Proof.Claims.admitted i x t sub
              (y.count x.tm.die x.wv.core 11 (some x.tm.ctx) 1) true none)) ∧
            (sub = 0 → q 2 ≠ 0 → Sys2Proof.Machine.exec i s = .next (Sys2Proof.Claims.admitted i x t sub
              (Sys2Proof.Claims.withCommand x y e) false none)) ∧
            (sub = 2 → Sys2Proof.Machine.exec i s = .next (Sys2Proof.Claims.admitted i x t sub
              (Sys2Proof.Claims.withCommand x y
                (if Sys2Proof.Claims.bitsOf (q 0) 32 1 = 1 then
                  { e with data := some (x.scratch.readBytes (q 1) (Sys2Proof.Claims.bldBytes q)) }
                else e)) false none)) ∧
            (sub = 3 → Sys2Proof.Machine.exec i s = .next (Sys2Proof.Claims.admitted i x t sub
              (Sys2Proof.Claims.withCommand x y e) false none)) ∧
            (sub = 1 → ∀ u : Sys2Proof.Machine.State,
              (∀ bs : List Sys2Proof.Byte, read = (u, .ok bs) →
                ((∀ r ∈ indices bs, fits r) → Sys2Proof.Machine.exec i s = .next (Sys2Proof.Claims.admitted i x t sub
                  (Sys2Proof.Claims.withCommand x u { e with indices := some (indices bs) }) false none)) ∧
                ((∃ r ∈ indices bs, ¬ fits r) → Sys2Proof.Machine.exec i s =
                  .next (Sys2Proof.Claims.admitted i x t sub u true (some 0x20)))) ∧
              (∀ c : Nat, read = (u, .error (.fault c)) → Sys2Proof.Machine.exec i s =
                .next (Sys2Proof.Claims.admitted i x t sub u true (some (BitVec.ofNat 8 c)))) ∧
              ∀ c g o p a : Nat, read = (u, .error (.stall c g o p a)) → Sys2Proof.Machine.exec i s =
                .next (Sys2Proof.Claims.admitted i x t sub
                  ((Sys2Proof.Claims.withCommand x u { e with waiting := some o }).postTranslation x.tm.die x.wv.core
                    x.wv.number.val x.tm.ctx (Sys2Proof.Machine.widOf x.tm.die x.wv) x.tm.serial c o p g a)
                  false none)))))

/-- R173, R347, R360, R237, R156, R342 and R343: the steps of admitted engine commands. A waiting admission is tried again as the instruction
itself, but not while its wave serves a split (R282). A command that may run (it waits for no page, and no earlier command or pass it is ordered behind is left) completes: a CPY with
its source's bytes, or zeros, at its destination's places; a GATH with its rows; a BLD from scratchpad with its blocks in the slices and
nothing else of them changed. One that meets a fault ends with the cause kept, one whose page is not there waits for its object.
A contribution opens its collective; a result at its destination completes its COLL.
That a command reads and writes in its completion step, and the order in which its faults are sought, are the model's choices
(logs 24, 49). -/
def Obligations.EngineSteps : Prop :=
  ∀ (s t : Sys2Proof.Machine.State) (die : Fin 4) (core index : Nat) (e : Sys2Proof.Machine.EngineCmd),
    (∀ (team wave : Nat) (slot : Fin 4) (i : Sys2Proof.Instr), (Sys2Proof.Claims.engineForm i).isSome = true →
      s.fetchAt ⟨team, wave, slot⟩ = some (t, i) →
      (s.serving ⟨team, wave, slot⟩ = false →
        ∃ u, Sys2Proof.Machine.exec i t = .next u ∧ Sys2Proof.Machine.exec (.engineAdmission team wave slot) s = .next u) ∧
      (s.serving ⟨team, wave, slot⟩ = true → Sys2Proof.Machine.exec (.engineAdmission team wave slot) s = .next s)) ∧
    ((s.core die core).engines[index]? = some e → s.mayRun die core e = true →
      (e.sub = 0 → ∀ (data : List Sys2Proof.Byte) (ps : List (Nat × List Sys2Proof.Byte)) (u : Sys2Proof.Machine.State),
        (if e.zero then (s, .ok (List.replicate e.len 0))
          else s.engineRead die core e.ctx e.serial e.kept e.src (e.len / 256 + 2) e.soff e.len) = (t, .ok data) →
        t.enginePlaces die core e.ctx e.serial e.kept e.dst (e.len / 256 + 2) e.doff data = (u, .ok ps) →
        Sys2Proof.Machine.exec (.engineCompletion die core index) s =
          .next ((u.performPieces (Sys2Proof.Machine.domainOf e.ctx e.dst) ps).endEngine die core e none)) ∧
      (e.sub = 1 → ∀ (f : Sys2Proof.Machine.EngineCmd) (u : Sys2Proof.Machine.State),
        s.gathIndices die core e = (t, .ok f) → (∀ j ∈ f.indices.getD [], f.rowFits j = true) →
        (t.setEngine die core f).gathRows die core f 0 (f.indices.getD []) = (u, none) →
        Sys2Proof.Machine.exec (.engineCompletion die core index) s = .next (u.endEngine die core e none)) ∧
      (e.sub = 2 → e.fromScratch = true → ∀ data : List Sys2Proof.Byte, e.data = some data →
        data.length = e.bldSpread → (s.core die core).slices.wf = true → (s.findTeam die e.team).isSome = true →
        ∃ u : Sys2Proof.Machine.State, Sys2Proof.Machine.exec (.engineCompletion die core index) s = .next u ∧
          Sys2Proof.Claims.Ended u die core e none ∧
          (∀ c < e.colCount, ∀ b < e.blockCount, ∀ k < 256, e.col0 + e.colCount ≤ 64 → e.block0 + e.blockCount ≤ 128 →
            (u.core die core).slices.read (32768 * (e.col0 + c) + 256 * (e.block0 + b) + k) =
              data.getD (c * e.p 2 + 256 * b + k) 0) ∧
          ∀ a : Nat, (∀ c < e.colCount, ∀ b < e.blockCount, ∀ k < 256,
              a ≠ 32768 * (e.col0 + c) + 256 * (e.block0 + b) + k) →
            (u.core die core).slices.read a = (s.core die core).slices.read a) ∧
      (∀ c : Nat, s.runEngine die core e = (t, some (.fault c)) → e.sub ≠ 3 →
        Sys2Proof.Machine.exec (.engineFaultEnd die core index) s =
          .next ((t.deliver core e).endEngine die core e (some c))) ∧
      (∀ c g o p a : Nat, s.runEngine die core e = (t, some (.stall c g o p a)) → ∀ f : Sys2Proof.Machine.EngineCmd,
        (t.core die core).engines[index]? = some f →
        Sys2Proof.Machine.exec (.engineFaultEnd die core index) s = .next
          ((t.setEngine die core { f with waiting := some o }).postTranslation die core f.wave f.ctx
            (Sys2Proof.Claims.widNow t die f) f.team c o p g a)) ∧
      (∀ (data : List Sys2Proof.Byte) (u : Sys2Proof.Machine.State), e.sub = 3 → s.homeLost e = false → s.collEnds core e = none →
        s.collBytes core e = some data → s.engineWrite die core e data = (u, none) →
        Sys2Proof.Machine.exec (.collResultDelivery die core index) s =
          .next ((u.deliver core e).endEngine die core e none)) ∧
      (∀ data : List Sys2Proof.Byte, e.sub = 3 → e.sent = false → s.homeLost e = false →
        s.engineRead die core e.ctx e.serial e.kept e.src (e.len / 256 + 2) e.soff e.len = (t, .ok data) →
        e.homeModule ≠ t.module.toNat →
        Sys2Proof.Machine.exec (.collContribution (.own die core index)) s =
          .next (t.setEngine die core { e with sent := true }))) ∧
    (∀ (u : Sys2Proof.Machine.State) (cause : Option Nat), u = t.endEngine die core e cause →
      Sys2Proof.Claims.Ended u die core e (cause.map (BitVec.ofNat 8))) ∧
    ∀ (ctx : Nat) (group : Sys2Proof.W32) (np op len rank : Nat) (data : List Sys2Proof.Byte),
      (∀ c ∈ s.dies[die].collectives, ¬ (c.ctx = ctx ∧ c.group = group)) →
      (∀ c ∈ s.dies[die].collectives, c.result = none) → s.dies[die].collectives.length < 256 →
      s.dies[die].waitingParts = [] → 2 ≤ np → s.phase = .running → s.joined = true →
      Sys2Proof.Machine.exec (.collContribution (.pod ctx die group false np op len rank data)) s =
        .next (s.setDie die { s.dies[die] with collectives := s.dies[die].collectives ++
          [⟨ctx, group, false, np, op, len, [⟨rank, data, none, true⟩], none⟩] })
namespace Sys2Proof.Claims

open Sys2Proof.Machine

/-- The issuing wave waits at its instruction, or stops there where it has been killed, a kill point (R270). -/
def killOrWait (i : Instr) (y : Iss) (w : Wait) : State :=
  if y.wv.cc.k then y.commit.stopWave y.st.cur else waits i y w

/-- A phase with one arrival more (R329): the first arrival sets the count. -/
def joined (x : Iss) (b : Barrier) (count : Nat) : Barrier :=
  { b with
    expected := if b.arrivals = [] ∧ b.gone = 0 then count else b.expected
    arrivals := b.arrivals ++ [(x.tm.die.val, x.tm.serial.toNat, x.wv.number.val)] }

/-- The arrivals that complete a phase (R329): the expected count, or where that is zero the live waves and those gone. -/
def needed (s : State) (b : Barrier) : Nat := if b.expected = 0 then s.barrierLive b + b.gone else b.expected

/-- The wave with its arrival at a barrier recorded, once its earlier stores are performed. -/
def arrivedAt (x : Iss) (b after_ : Barrier) : Iss :=
  let y := drained x
  { y with
    st := y.st.setBarrier after_
    wv := { y.wv with
      arrivals := y.wv.arrivals.filter (fun a => !(a.id == b.id && a.sc == b.sc)) ++ [⟨b.id, b.sc, b.phase⟩] } }

/-- No matrix or accumulator instruction of the wave is left in a sequencer. -/
def NoPasses (x : Iss) : Prop :=
  ∀ c ∈ x.st.cores, c.die = x.tm.die → ∀ q ∈ c.queue, ¬ (q.team = x.tm.serial ∧ q.wave = x.wv.number.val)

/-- No engine command of the wave is left. -/
def NoCommands (x : Iss) : Prop :=
  ∀ c ∈ x.st.cores, ∀ e ∈ c.engines, ¬ (e.die = x.tm.die ∧ e.team = x.tm.serial ∧ e.wave = x.wv.number.val)

/-- A stream instruction passes the check of its capability (R185, R422), and its block stands at `pa` once the wave's stores are performed
and it is reached. -/
def BlockAt (x : Iss) (k : KReg) (right : Nat) (s' : State) (pa : Nat) : Prop :=
  let c := x.k k
  c.getLsbD 109 = true ∧ c.getLsbD (104 + right) = true ∧ 64 ≤ (c.extractLsb' 64 40).toNat ∧
  (c.extractLsb' 24 40).toNat % 16 = 0 ∧
  ∃ r : Reach, (drained x).st.reach x.tm.die x.wv.core x.tm.ctx c (c.extractLsb' 24 40).toNat = (s', r) ∧
    (r.physical (c.extractLsb' 24 40).toNat).map Prod.fst = some pa ∧ (s'.peekSector pa).2 = false

/-- LOGN of a stream's CONFIG. -/
def logn (s : State) (pa : Nat) : Nat := bitsOf (word64 s (pa + 24)) 36 5

/-- The block names a stream that the capability covers whole from offset 0, and it is valid (R185). -/
def StreamOk (s : State) (c : Cap) (pa : Nat) : Prop :=
  c.extractLsb' 24 40 = 0 ∧ 64 + 64 * 2 ^ logn s pa ≤ (c.extractLsb' 64 40).toNat ∧ bitsOf (word64 s (pa + 24)) 63 1 = 1

/-- `m` holds the `g` lowest lanes of A. -/
def IsLowest (m A : Mask) (g : Nat) : Prop :=
  ∀ L : Fin 32, m.getLsbD L.val = true ↔ A.getLsbD L.val = true ∧
    ((List.finRange 32).filter fun K => A.getLsbD K.val && decide (K < L)).length < g

end Sys2Proof.Claims

/-- R330 and R331: BAR, BARA and BARW. A wave with an uncompleted arrival at the instance waits for its phase, BARW without one going
on; a BAR or BARW that waited for a phase goes on once that is complete, whatever a sibling split has arrived at since. An arrival waits
for the wave's matrix work, performs its stores and adds the wave to the
phase, which completes at its count and begins the next one empty; BARA goes on, and so does a BAR that completes it, any other waits. -/
def Obligations.BarrierEntries : Prop :=
  ∀ (sc : Sys2Proof.Scope) (id : Fin 32) (mk : Bool) (s : Sys2Proof.Machine.State) (x : Sys2Proof.Machine.Iss),
    let b := x.barrier id sc
    let here := (x.tm.die.val, x.tm.serial.toNat, x.wv.number.val) ∈ b.arrivals
    let waited := ∃ p, x.was = some (.bar p) ∧ p < b.phase
    (Sys2Proof.Claims.Issues (.barw sc id mk) s x →
      (here → ¬ waited → Sys2Proof.Machine.exec (.barw sc id mk) s =
        .next (Sys2Proof.Claims.killOrWait (.barw sc id mk) x (.bar b.phase))) ∧
      (¬ here ∨ waited → Sys2Proof.Machine.exec (.barw sc id mk) s =
        .next (Sys2Proof.Claims.after (.barw sc id mk) x))) ∧
    ∀ (cnt : Sys2Proof.SReg) (i : Sys2Proof.Instr), i = .bar cnt sc id mk ∨ i = .bara cnt sc id mk →
      Sys2Proof.Claims.Issues i s x →
      let stays := i = .bar cnt sc id mk
      let b1 := Sys2Proof.Claims.joined x b ((x.s cnt).toNat % 2 ^ 32)
      let full := Sys2Proof.Claims.needed (Sys2Proof.Claims.drained x).st b1 ≤ b1.arrivals.length + b1.gone
      let b2 : Sys2Proof.Machine.Barrier :=
        if full then { b1 with phase := b1.phase + 1, expected := 0, arrivals := [], gone := 0 } else b1
      let y := Sys2Proof.Claims.arrivedAt x b b2
      (stays → waited → Sys2Proof.Machine.exec i s = .next (Sys2Proof.Claims.after i x)) ∧
      (¬ (stays ∧ waited) →
        (here → Sys2Proof.Machine.exec i s = .next (Sys2Proof.Claims.killOrWait i x (.bar b.phase))) ∧
        (¬ here → Sys2Proof.Claims.NoneOwed x → ¬ Sys2Proof.Claims.NoPasses x →
          Sys2Proof.Machine.exec i s = .next (Sys2Proof.Claims.killOrWait i x .arrive)) ∧
        (¬ here → Sys2Proof.Claims.NoneOwed x → Sys2Proof.Claims.NoPasses x →
          (¬ stays ∨ full → Sys2Proof.Machine.exec i s = .next (Sys2Proof.Claims.after i y)) ∧
          (stays → ¬ full → Sys2Proof.Machine.exec i s = .next (Sys2Proof.Claims.killOrWait i y (.bar b.phase)))))

/-- R241: STGA and STGW. An undeclared ring or slot traps RING_STATE. STGA goes on in phase PH and waits in the other. STGW waits while matrix
work or an engine command of the wave is left or another wave's earlier STGW to the slot waits, keeping its place among them; then its stores
are performed, and in phase PH the slot's phase bit flips, and no other, while in the other phase it traps RING_STATE. -/
def Obligations.StagingEntries : Prop :=
  ∀ (ph : Bool) (sl : Fin 64) (rg : Fin 8) (mk : Bool) (s : Sys2Proof.Machine.State) (x : Sys2Proof.Machine.Iss),
    let key := 64 * rg.val + sl.val
    (Sys2Proof.Claims.Issues (.stga ph sl rg mk) s x →
      (x.ring rg sl.val = none → Sys2Proof.Machine.exec (.stga ph sl rg mk) s = .next (x.trapHere { cause := 0x65 })) ∧
      (x.ring rg sl.val ≠ none → x.phase rg sl = ph →
        Sys2Proof.Machine.exec (.stga ph sl rg mk) s = .next (Sys2Proof.Claims.after (.stga ph sl rg mk) x)) ∧
      (x.ring rg sl.val ≠ none → x.phase rg sl ≠ ph →
        Sys2Proof.Machine.exec (.stga ph sl rg mk) s = .next (Sys2Proof.Claims.waits (.stga ph sl rg mk) x .stga))) ∧
    (Sys2Proof.Claims.Issues (.stgw ph sl rg mk) s x →
      let turn := x.queuedAt key = [] ∨ ∃ n, x.was = some (.stgw key n) ∧ ∀ m ∈ x.queuedAt key, n ≤ m
      let waits := fun (n : Nat) => Sys2Proof.Machine.exec (.stgw ph sl rg mk) s =
        .next (Sys2Proof.Claims.waits (.stgw ph sl rg mk) x (.stgw key n))
      (x.ring rg sl.val = none → Sys2Proof.Machine.exec (.stgw ph sl rg mk) s = .next (x.trapHere { cause := 0x65 })) ∧
      (x.ring rg sl.val ≠ none → Sys2Proof.Claims.NoneOwed x → ¬ (Sys2Proof.Claims.NoPasses x ∧ Sys2Proof.Claims.NoCommands x) →
        (∀ k n : Nat, x.was = some (.stgw k n) → waits n) ∧
        ((∀ k n : Nat, x.was ≠ some (.stgw k n)) → ∃ n, waits n ∧ ∀ m ∈ x.queuedAt key, m < n)) ∧
      (x.ring rg sl.val ≠ none → Sys2Proof.Claims.NoneOwed x → Sys2Proof.Claims.NoPasses x → Sys2Proof.Claims.NoCommands x →
        (∀ (k n : Nat), x.was = some (.stgw k n) → (∃ m ∈ x.queuedAt key, m < n) → waits n) ∧
        ((∀ k n : Nat, x.was ≠ some (.stgw k n)) → x.queuedAt key ≠ [] →
          ∃ n, waits n ∧ ∀ m ∈ x.queuedAt key, m < n)) ∧
      (x.ring rg sl.val ≠ none → Sys2Proof.Claims.NoneOwed x → Sys2Proof.Claims.NoPasses x → Sys2Proof.Claims.NoCommands x → turn →
        (x.phase rg sl ≠ ph → Sys2Proof.Machine.exec (.stgw ph sl rg mk) s =
          .next ((Sys2Proof.Claims.drained x).trapHere { cause := 0x65 })) ∧
        (x.phase rg sl = ph → (∃ c ∈ x.tm.cores, c.core = x.wv.core) → (∀ c ∈ x.tm.cores, c.phases.Nodup) →
          ∃ cs : List Sys2Proof.Machine.TeamCore,
            let y : Sys2Proof.Machine.Iss :=
              { Sys2Proof.Claims.drained x with tm := { x.tm with cores := cs } }
            Sys2Proof.Machine.exec (.stgw ph sl rg mk) s =
              .next (Sys2Proof.Claims.after (.stgw ph sl rg mk) y) ∧
            (∀ (r : Fin 8) (l : Fin 64), y.phase r l = if r = rg ∧ l = sl then !ph else x.phase r l) ∧
            cs.map (fun c => (c.core, c.scratch, c.tiles)) = x.tm.cores.map (fun c => (c.core, c.scratch, c.tiles)))))

/-- R185 to R188: POST, RESV and PUBL on a stream whose block is reached. A stream that is not valid, too large for its capability or of
a kind that forbids the instruction traps STREAM_INVALID. RESV answers FULL or reserves its positions in one step. POST checks its depth
and kinds, reserves for as many lanes as its mode takes, lowest first, and hands their records over; PUBL sets the COMMIT bits of its
reserved slots, lanes that name none faulting BOUNDS. Each performs the wave's stores first and reads the block behind them, so that it
finds a HEAD that the wave itself has stored (R163, R174). That a tentative capability makes no difference, and what a record that
cannot be written does, are the model's choices (logs 60, 77). -/
def Obligations.StreamEntries : Prop :=
  ∀ (k : Sys2Proof.KReg) (mk : Bool) (pa : Nat) (s s' : Sys2Proof.Machine.State) (x : Sys2Proof.Machine.Iss),
    Sys2Proof.Claims.NoneOwed x →
    let y : Sys2Proof.Machine.Iss := { Sys2Proof.Claims.drained x with st := s' }
    let cap := x.k k
    let dom := if cap.getLsbD 110 = true then 0 else x.tm.ctx + 1
    let size := 2 ^ Sys2Proof.Claims.logn s' pa
    let tail := Sys2Proof.Claims.word64 s' pa
    let head := Sys2Proof.Claims.word64 s' (pa + 8)
    let cfg := Sys2Proof.Claims.word64 s' (pa + 24)
    let kind := Sys2Proof.Claims.bitsOf cfg 41 2
    let ok := Sys2Proof.Claims.StreamOk s' cap pa
    (∀ d v : Sys2Proof.SReg, Sys2Proof.Claims.Issues (.resv d v k mk) s x → Sys2Proof.Claims.BlockAt x k 2 s' pa →
      let c := (x.s v).toNat
      let bad := ¬ ok ∨ kind = 0 ∨ c = 0 ∨ size < c
      (bad → Sys2Proof.Machine.exec (.resv d v k mk) s = .next (y.trapHere { cause := 0x85 })) ∧
      (¬ bad → head + size < tail + c → Sys2Proof.Machine.exec (.resv d v k mk) s =
        .next (Sys2Proof.Claims.after (.resv d v k mk) ((y.setS d 0xFFFFFFFFFFFFFFFF).setZ true))) ∧
      (¬ bad → tail + c ≤ head + size → Sys2Proof.Machine.exec (.resv d v k mk) s =
        .next (Sys2Proof.Claims.after (.resv d v k mk)
          ((({ y with st := s'.pokeNat pa dom 8 (tail + c) }).setS d (BitVec.ofNat 64 tail)).setZ false)))) ∧
    (∀ (mode : Sys2Proof.PostMode) (d : Sys2Proof.SReg) (v : Sys2Proof.VReg),
      Sys2Proof.Claims.Issues (.post mode d v k mk) s x → Sys2Proof.Claims.BlockAt x k 1 s' pa →
      let n := (Sys2Proof.Claims.ascending x.mask).length
      let free := size - (tail - head)
      let bad := ¬ ok ∨ Sys2Proof.Claims.bitsOf cfg 43 1 = 1 ∨ Sys2Proof.Claims.bitsOf cfg 35 1 = 1
      let deep := x.mask ≠ 0 ∧ Sys2Proof.Claims.bitsOf cfg 45 3 < x.tm.depth + 1
      let kinds := ∃ L : Fin 32, x.mask.getLsbD L.val = true ∧ 0xE0 ≤ (x.v v L).toNat % 256
      (bad → Sys2Proof.Machine.exec (.post mode d v k mk) s = .next (y.trapHere { cause := 0x85 })) ∧
      (¬ bad → deep → Sys2Proof.Machine.exec (.post mode d v k mk) s = .next (y.trapHere { cause := 0x81 })) ∧
      (¬ bad → ¬ deep → kinds → Sys2Proof.Machine.exec (.post mode d v k mk) s = .next (y.trapHere { cause := 0x85 })) ∧
      (¬ bad → ¬ deep → ¬ kinds → free < n → mode = .trap →
        Sys2Proof.Machine.exec (.post mode d v k mk) s = .next (y.trapHere { cause := 0x80 })) ∧
      ∀ (g : Nat) (posted : Sys2Proof.Mask), ¬ bad → ¬ deep → ¬ kinds →
        (n ≤ free ∧ g = n ∨ free < n ∧ mode = .all ∧ g = 0 ∨ free < n ∧ mode = .part ∧ g = free) →
        Sys2Proof.Claims.IsLowest posted x.mask g →
        let st := if g = 0 then s' else s'.pokeNat pa dom 8 (tail + g)
        let handed := y.postAll (cap.extractLsb' 0 24).toNat (Sys2Proof.Claims.logn s' pa) v st.nextOrder
          ((Sys2Proof.Claims.ascending x.mask).take g) tail st
        Sys2Proof.Machine.exec (.post mode d v k mk) s = .next (Sys2Proof.Claims.after (.post mode d v k mk)
          ((({ y with st := handed }).setS d (posted.setWidth 64)).setZ (decide (posted ≠ x.mask))))) ∧
    ∀ v : Sys2Proof.VReg, Sys2Proof.Claims.Issues (.publ v k mk) s x → Sys2Proof.Claims.BlockAt x k 1 s' pa →
      let ingest := Sys2Proof.Claims.word64 s' (pa + 16)
      let names := fun (L : Fin 32) =>
        (x.v v L).toNat < size ∧ ∃ p, ingest ≤ p ∧ p < ingest + size ∧ p < tail ∧ p % size = (x.v v L).toNat
      (¬ (ok ∧ kind = 1) → Sys2Proof.Machine.exec (.publ v k mk) s = .next (y.trapHere { cause := 0x85 })) ∧
      (ok → kind = 1 → ∃ (fit : Sys2Proof.Mask) (faults : List Sys2Proof.Machine.LaneFault),
        (∀ L : Fin 32, fit.getLsbD L.val = true ↔ x.mask.getLsbD L.val = true ∧ names L) ∧
        (∀ f : Sys2Proof.Machine.LaneFault, f ∈ faults ↔ x.mask.getLsbD f.lane.val = true ∧ ¬ names f.lane ∧
          f = ⟨f.lane, 0x20, f.lane.val + k.val * 2 ^ 8, 64 + 64 * (x.v v f.lane).toNat⟩) ∧
        let w : Sys2Proof.Machine.Iss := { y with
          st := s'.commitSlots pa dom ((Sys2Proof.Claims.ascending fit).map fun L => (x.v v L).toNat) }
        (faults = [] → Sys2Proof.Machine.exec (.publ v k mk) s =
          .next (Sys2Proof.Claims.after (.publ v k mk) w)) ∧
        (faults ≠ [] → Sys2Proof.Machine.exec (.publ v k mk) s = .next
          (Sys2Proof.Machine.Iss.settle (Sys2Proof.Machine.infoOf (.publ v k mk))
          (Sys2Proof.Claims.marks (.publ v k mk) x) w [] faults none)))
namespace Sys2Proof.Claims

open Sys2Proof.Machine

/-- A structure of `n` bytes at offset 0 of a capability passes its check (R422) and its bytes, read once the wave's earlier stores are
performed, are `bs`; no POST record of the wave waits. -/
def StructIs (x : Iss) (k : KReg) (n : Nat) (s' : State) (bs : List Byte) : Prop :=
  let c := x.k k
  c.getLsbD 109 = true ∧ c.getLsbD 104 = true ∧ n ≤ (c.extractLsb' 64 40).toNat ∧
  (c.extractLsb' 24 40).toNat % 16 = 0 ∧ NoneOwed x ∧
  (drained x).st.readRange x.tm.die x.wv.core x.tm.ctx c (n / 256 + 2) 0 n = (s', .ok bs)

/-- A handle names a loaded rod of the context. -/
def RodIs (x : Iss) (h : W64) (d : Fin 4) (r : Rod) : Prop := x.st.rodOf x.tm.ctx h = some (d, r)

/-- Only the named rod of a die's Frame changes, by `f`. -/
def rodsWith (s : State) (d : Fin 4) (r : Rod) (f : Rod → Rod) : State :=
  s.setDie d { s.dies[d] with rods := s.dies[d].rods.map fun q =>
    if q.ctx = r.ctx ∧ q.number = r.number then f q else q }

/-- Four slot bits. -/
def fourBits (p : Fin 4 → Bool) : BitVec 4 :=
  BitVec.ofBool (p 3) ++ BitVec.ofBool (p 2) ++ BitVec.ofBool (p 1) ++ BitVec.ofBool (p 0)

/-- The split in a slot of the issuing wave. -/
def slotOf (x : Iss) (j : Fin 4) : Option Split := if j = x.slot then some x.sp else x.wv.splits[j]

/-- The system registers as MFSR reads them (Table 17.11 and the tables it names), reserved bits zero. -/
def sysValue (x : Iss) (n : SysReg) : W64 :=
  let w := x.wv
  let r := x.sp.record
  match n with
  | .wstat => (0#51 ++ BitVec.ofBool x.tm.follower.isSome ++ BitVec.ofBool (w.svc == some x.slot) ++ w.prio ++ 0#6 ++
      BitVec.ofBool w.jmis ++ BitVec.ofBool w.pflag : BitVec 64)
  | .wid => (0#43 ++ BitVec.ofNat 2 x.tm.die.val ++ BitVec.ofNat 8 w.core ++ BitVec.ofNat 4 w.wslot.val ++
      BitVec.ofNat 2 w.quarter.val ++ BitVec.ofNat 5 w.number.val : BitVec 64)
  | .tid => (0#23 ++ BitVec.ofNat 3 x.tm.depth ++ BitVec.ofNat 6 x.tm.ctx ++ x.tm.serial : BitVec 64)
  | .ltile => (0#61 ++ BitVec.ofNat 3 w.tile.code : BitVec 64)
  | .fpmode => (0#51 ++ w.enables ++ 0#6 ++ w.rm : BitVec 64)
  | .fpflags => (0#58 ++ w.flags : BitVec 64)
  | .repc => (0#47 ++ BitVec.ofBool x.sp.repActive ++ 0#2 ++ x.sp.repNext ++ 0#2 ++ x.sp.repCount : BitVec 64)
  | .splits => (0#50 ++ BitVec.ofNat 2 x.slot.val ++
      fourBits (fun j => (slotOf x j).any fun sp => sp.status == .atJoin) ++
      fourBits (fun j => (slotOf x j).any fun sp => sp.status == .parked) ++
      fourBits (fun j => (slotOf x j).isSome) : BitVec 64)
  | .poolw => (0#40 ++ BitVec.ofNat 8 x.tm.accu ++ BitVec.ofNat 8 x.tm.scru ++ 0#1 ++ BitVec.ofNat 7 x.tm.vregs : BitVec 64)
  | .role => (0#62 ++ w.role : BitVec 64)
  | .pdead => (0#32 ++ w.pdead : BitVec 64)
  | .prq => if w.cc.p = true then (0#31 ++ 1#1 ++ w.left : BitVec 64) else 0
  | .tvec => (w.tvecObj ++ w.tvecEntry ++ 0#6 : BitVec 64)
  | .tcause => (0#54 ++ BitVec.ofBool r.noslot ++ BitVec.ofBool r.lane ++ r.cause : BitVec 64)
  | .trec => (r.info ++ r.fmask : BitVec 64)
  | .tsib => (r.siblanes ++ 0#26 ++ r.slot ++ r.sibs : BitVec 64)
  | .tpar => (x.tm.serial ++ 0#11 ++ BitVec.ofNat 2 x.tm.die.val ++ BitVec.ofNat 8 w.core ++ BitVec.ofNat 4 w.wslot.val ++
      BitVec.ofNat 2 w.quarter.val ++ BitVec.ofNat 5 w.number.val : BitVec 64)
  | .tepc => (0#16 ++ r.epc : BitVec 64)
  | .taddr => r.addr
  | .dumpobj => w.dumpobj
  | .traceobj => w.traceobj
  | .cntsel j =>
    let c := (x.st.core x.tm.die w.core).cntsel[j]
    (0#40 ++ BitVec.ofBool c.en ++ c.ctx ++ BitVec.ofBool c.own ++ 0#8 ++ c.src : BitVec 64)

/-- What MTSR does to each system register (R374): the fields that may be written; none where the value traps ILLEGAL_FIELD. -/
def sysWritten (x : Iss) (n : SysReg) (v : W64) : Option Iss :=
  let w := x.wv
  let r := x.sp.record
  match n with
  | .wstat => some { x with wv := { w with
      prio := v.extractLsb' 8 3, jmis := w.jmis && !v.getLsbD 1, pflag := w.pflag && !v.getLsbD 0 } }
  | .ltile =>
    match (v.extractLsb' 0 3).toNat with
    | 1 => some { x with wv := { w with tile := .l2 } }
    | 2 => some { x with wv := { w with tile := .l4 } }
    | 3 => some { x with wv := { w with tile := .l8 } }
    | 4 => some { x with wv := { w with tile := .l16 } }
    | 5 => some { x with wv := { w with tile := .l32 } }
    | _ => none
  | .fpmode => some { x with wv := { w with rm := v.extractLsb' 0 2, enables := v.extractLsb' 8 5 } }
  | .fpflags => some { x with wv := { w with flags := w.flags &&& ~~~(v.extractLsb' 0 6) } }
  | .repc => some { x with sp := { x.sp with repActive := v.getLsbD 16, repNext := v.extractLsb' 8 6 } }
  | .pdead => some { x with wv := { w with pdead := v.extractLsb' 0 32 } }
  | .tvec => some { x with wv := { w with tvecObj := v.extractLsb' 40 24, tvecEntry := v.extractLsb' 6 34 } }
  | .trec => some { x with sp := { x.sp with record := { r with fmask := v.extractLsb' 0 32 } } }
  | .tepc => some { x with sp := { x.sp with record := { r with epc := (v.extractLsb' 1 47 ++ 0#1 : BitVec 48) } } }
  | .cntsel j =>
    if (v.extractLsb' 0 8).toNat ≤ 15 then
      let c := x.st.core x.tm.die w.core
      let sel : CntSel := ⟨v.getLsbD 23, BitVec.ofNat 6 x.tm.ctx, true, v.extractLsb' 0 8⟩
      some { x with st := x.st.setCore { c with cntsel := c.cntsel.set j sel } }
    else none
  | .wid | .tid | .splits | .poolw | .role | .prq | .tcause | .tsib | .tpar | .taddr | .dumpobj | .traceobj => some x

end Sys2Proof.Claims

/-- R214 to R217: AUTLD, AUTCTL and AUTQ. AUTLD of a read image that fails its checks traps AUT_IMAGE at the offset, into a full Frame
AUT_FULL; else a rod is there, enabled as s(B)[0] says, without beads, under the context's next serial, and s(A) is its handle. A handle
of no loaded rod traps AUT_ARG; AUTCTL enables, disables, re-quotas or unloads its rod alone, and AUTQ reads it, its beads as its latest
offer left them. The place of the new rod among those of its Frame, the count of beads, the offset for unused words and what a block
that cannot be read gives are the model's (logs 19, 20, 79, 80). -/
def Obligations.AutomatonEntries : Prop :=
  ∀ (a b : Sys2Proof.SReg) (mk : Bool) (s : Sys2Proof.Machine.State) (x : Sys2Proof.Machine.Iss),
    (∀ (k : Sys2Proof.KReg) (s' : Sys2Proof.Machine.State) (img : List Sys2Proof.Byte),
      Sys2Proof.Claims.Issues (.autld b a k mk) s x → Sys2Proof.Claims.StructIs x k 1472 s' img →
      let y : Sys2Proof.Machine.Iss := { Sys2Proof.Claims.drained x with st := s' }
      let d := s'.imageHome x.tm.ctx img
      (∀ off : Nat, s'.imageFault x.tm.ctx img = some off → Sys2Proof.Machine.exec (.autld b a k mk) s =
        .next (y.trapHere { cause := 0x82, addr := off })) ∧
      (s'.imageFault x.tm.ctx img = none → 512 ≤ s'.dies[d].rods.length →
        Sys2Proof.Machine.exec (.autld b a k mk) s = .next (y.trapHere { cause := 0x83 })) ∧
      (s'.imageFault x.tm.ctx img = none → s'.dies[d].rods.length < 512 → x.tm.ctx < 64 →
        ∃ (u : Sys2Proof.Machine.State) (r : Sys2Proof.Machine.Rod),
          Sys2Proof.Machine.exec (.autld b a k mk) s = .next (Sys2Proof.Claims.after (.autld b a k mk)
            (({ y with st := u }).setS a (BitVec.ofNat 64 ((r.number + r.serial * 2 ^ 11) % 2 ^ 32)))) ∧
          u.dies[d].rods = s'.dies[d].rods ++ [r] ∧ (∀ e : Fin 4, e ≠ d → u.dies[e].rods = s'.dies[e].rods) ∧
          r.ctx = x.tm.ctx ∧ r.image = img ∧ r.enabled = (y.s b).getLsbD 0 ∧ r.beads = [] ∧ r.offered = 0 ∧ r.drops = 0 ∧ r.expired = 0 ∧
          r.quota = Sys2Proof.Machine.imgQuota img ∧ r.ovf = Sys2Proof.Machine.imgOvf img ∧
          r.serial = (if (s'.ctx x.tm.ctx).rodSerial = 0x1FFFFF then 1 else (s'.ctx x.tm.ctx).rodSerial + 1) ∧
          (u.ctx x.tm.ctx).rodSerial = r.serial ∧
          (∀ (e : Fin 4), ∀ q ∈ s'.dies[e].rods, q.ctx = x.tm.ctx → q.number ≠ r.number) ∧
          ∀ n < r.number, ∃ (e : Fin 4), ∃ q ∈ s'.dies[e].rods, q.ctx = x.tm.ctx ∧ q.number = n)) ∧
    (∀ op : Sys2Proof.AutCtlOp, Sys2Proof.Claims.Issues (.autctl op b a mk) s x →
      let goes := fun (t : Sys2Proof.Machine.State) => Sys2Proof.Machine.exec (.autctl op b a mk) s =
        .next (Sys2Proof.Claims.after (.autctl op b a mk) { x with st := t })
      let quota := ((x.s b).extractLsb' 0 17).toNat
      let ovf := ((x.s b).extractLsb' 17 2).toNat
      (x.st.rodOf x.tm.ctx (x.s a) = none →
        Sys2Proof.Machine.exec (.autctl op b a mk) s = .next (x.trapHere { cause := 0x86 })) ∧
      ∀ (d : Fin 4) (r : Sys2Proof.Machine.Rod), Sys2Proof.Claims.RodIs x (x.s a) d r →
        (op = .dis → goes (Sys2Proof.Claims.rodsWith x.st d r fun q => { q with enabled := false })) ∧
        (op = .en → goes (Sys2Proof.Claims.rodsWith x.st d r fun q =>
          if q.enabled then q else { q with enabled := true, back := some (x.st.dies[d].ticks : Int) })) ∧
        (op = .quota → (quota = 0 ∨ 65536 < quota ∨ ovf = 3) →
          Sys2Proof.Machine.exec (.autctl op b a mk) s = .next (x.trapHere { cause := 0x86 })) ∧
        (op = .quota → ¬ (quota = 0 ∨ 65536 < quota ∨ ovf = 3) →
          goes (Sys2Proof.Claims.rodsWith x.st d r fun q => { q with quota := quota, ovf := ovf })) ∧
        (op = .unload → ∃ t, goes t ∧
          t.dies[d].rods = x.st.dies[d].rods.filter (fun q => !(q.ctx == r.ctx && q.number == r.number)) ∧
          t.dies[d].accepted = x.st.dies[d].accepted ∧ ∀ e : Fin 4, e ≠ d → t.dies[e].rods = x.st.dies[e].rods)) ∧
    (∀ q : Sys2Proof.AutQuery, Sys2Proof.Claims.Issues (.autq q b a mk) s x →
      (x.st.rodOf x.tm.ctx (x.s a) = none →
        Sys2Proof.Machine.exec (.autq q b a mk) s = .next (x.trapHere { cause := 0x86 })) ∧
      ∀ (d : Fin 4) (r : Sys2Proof.Machine.Rod), Sys2Proof.Claims.RodIs x (x.s a) d r →
        Sys2Proof.Machine.exec (.autq q b a mk) s = .next (Sys2Proof.Claims.after (.autq q b a mk) (x.setS b (
          match q with
          | .state => (0#61 ++ BitVec.ofNat 2 d.val ++ BitVec.ofBool r.enabled : BitVec 64)
          | .beads => BitVec.ofNat 64 r.offered
          | .drops => r.drops.setWidth 64
          | .exp => r.expired.setWidth 64))))

/-- R264, R267, R274 and R275: QOPEN, QARR, QSTAT and QSCALE. QOPEN of a descriptor that was read traps at its first failing field, for a
depth that RSTREAM refuses, past the context's allowance and without a FREE register, in that order, and else opens the lowest FREE
register of the wave's die. QARR of no quorum, or of one the team is no member of, traps QUORUM_STATE; it performs the wave's stores and
waits for its answer, and goes on behind itself once it is ACCEPTED. QSTAT and QSCALE read a live quorum, and trap QUORUM_STATE for a stale handle. -/
def Obligations.QuorumEntries : Prop :=
  ∀ (a b : Sys2Proof.SReg) (mk : Bool) (s : Sys2Proof.Machine.State) (x : Sys2Proof.Machine.Iss),
    (∀ (k : Sys2Proof.KReg) (s' : Sys2Proof.Machine.State) (desc : List Sys2Proof.Byte),
      Sys2Proof.Claims.Issues (.qopen a k mk) s x → Sys2Proof.Claims.StructIs x k 320 s' desc →
      let y : Sys2Proof.Machine.Iss := { Sys2Proof.Claims.drained x with st := s' }
      let fault := Sys2Proof.Machine.firstFailure (s'.descChecks x.tm.ctx desc)
      let qs := s'.dies[x.tm.die].quorums
      (∀ off : Nat, fault = some off → Sys2Proof.Machine.exec (.qopen a k mk) s =
        .next (y.trapHere { cause := 0x88, addr := off })) ∧
      ∀ bl : Sys2Proof.Machine.Block, fault = none → s'.postable x.tm.ctx (Sys2Proof.Machine.descStream desc) = some bl →
        (7 < x.tm.depth + 1 ∨ bl.maxd < x.tm.depth + 1 →
          Sys2Proof.Machine.exec (.qopen a k mk) s = .next (y.trapHere { cause := 0x81 })) ∧
        (x.tm.depth + 1 ≤ 7 → x.tm.depth + 1 ≤ bl.maxd →
          ((s'.ctx x.tm.ctx).allowT < Sys2Proof.Machine.descQuota desc + s'.quotas x.tm.ctx →
            Sys2Proof.Machine.exec (.qopen a k mk) s = .next (y.trapHere { cause := 0x89 })) ∧
          (Sys2Proof.Machine.descQuota desc + s'.quotas x.tm.ctx ≤ (s'.ctx x.tm.ctx).allowT →
            (1024 ≤ qs.length → Sys2Proof.Machine.exec (.qopen a k mk) s = .next (y.trapHere { cause := 0x87 })) ∧
            (qs.length < 1024 → ∃ q : Sys2Proof.Machine.Quorum,
              Sys2Proof.Machine.exec (.qopen a k mk) s = .next (Sys2Proof.Claims.after (.qopen a k mk)
                (({ y with st := s'.setDie x.tm.die { s'.dies[x.tm.die] with quorums := qs ++ [q] } }).setS a
                  (BitVec.ofNat 64 (2 ^ 31 + q.serial.toNat * 2 ^ 18 + x.tm.die.val * 2 ^ 16 + q.num % 1024 * 2 ^ 6)))) ∧
              (∀ p ∈ qs, p.num ≠ q.num) ∧ (∀ n < q.num, ∃ p ∈ qs, p.num = n) ∧ q.state = .opened ∧ q.ctx = x.tm.ctx ∧
              q.desc = desc ∧ q.depth = x.tm.depth ∧ q.arrived = 0 ∧ q.departed = 0 ∧ q.bound = [] ∧ q.late = 0 ∧
              q.mark = (s'.dies[x.tm.die].ticks / 2 ^ Sys2Proof.Machine.descUnit desc : Nat))))) ∧
    (Sys2Proof.Claims.Issues (.qarr b a mk) s x →
      let h := (x.s a).setWidth 32
      let i := ((x.s b).extractLsb' 0 6).toNat
      (x.st.quorum x.tm.ctx h = none →
        Sys2Proof.Machine.exec (.qarr b a mk) s = .next (x.trapHere { cause := 0x84 })) ∧
      ∀ q : Sys2Proof.Machine.Quorum, x.st.quorum x.tm.ctx h = some q →
        let bound := x.tm.member = some (h, i) ∧ (i, x.tm.die.val, x.tm.serial) ∈ q.bound
        let first := ∀ late : Bool, x.was ≠ some (.quorumAnswer late)
        let arrived := q.arrived ||| BitVec.ofNat 64 (2 ^ i)
        (¬ bound → Sys2Proof.Machine.exec (.qarr b a mk) s = .next (x.trapHere { cause := 0x84 })) ∧
        (bound → x.wv.cc.k = true →
          Sys2Proof.Machine.exec (.qarr b a mk) s = .next (x.commit.stopWave x.st.cur)) ∧
        (∀ late : Bool, bound → x.wv.cc.k = false → x.was = some (.quorumAnswer late) →
          Sys2Proof.Machine.exec (.qarr b a mk) s =
            .next (Sys2Proof.Claims.waits (.qarr b a mk) x (.quorumAnswer late))) ∧
        (bound → x.wv.cc.k = false → first → Sys2Proof.Claims.NoneOwed x → Sys2Proof.Machine.exec (.qarr b a mk) s =
          .next (Sys2Proof.Claims.waits (.qarr b a mk) (Sys2Proof.Claims.drained x) (.quorumAnswer false))) ∧
        (bound → x.wv.cc.k = false → first → Sys2Proof.Claims.NoneOwed x → x.wv.stores = [] → q.state = .opened →
          (x.st.ctx x.tm.ctx).clocks = none →
          (x.st.dies[Sys2Proof.Machine.handleDie h].ticks : Int) < q.due →
          arrived.cpop.toNat ≠ Sys2Proof.Machine.descKreq q.desc →
          ∃ (t u : Sys2Proof.Machine.State) (q' : Sys2Proof.Machine.Quorum) (tm : Sys2Proof.Machine.Team)
            (w : Sys2Proof.Machine.Wave), Sys2Proof.Machine.exec (.qarr b a mk) s = .next t ∧
            Sys2Proof.Machine.exec (.quorumArrival x.st.cur.team x.st.cur.wave x.slot) t = .next u ∧
            u.quorum x.tm.ctx h = some q' ∧ q'.arrived = arrived ∧ u.waveAt x.st.cur = some (tm, w) ∧
            w.splits = x.wv.splits.set x.slot (some { x.sp with pc := x.sp.pc + 4, only := none, status := .ready }))) ∧
    ∀ i : Sys2Proof.Instr, i = .qstat b a mk ∨ i = .qscale b a mk → Sys2Proof.Claims.Issues i s x →
      (x.st.quorum x.tm.ctx ((x.s a).setWidth 32) = none →
        Sys2Proof.Machine.exec i s = .next (x.trapHere { cause := 0x84 })) ∧
      ∀ q : Sys2Proof.Machine.Quorum, x.st.quorum x.tm.ctx ((x.s a).setWidth 32) = some q →
        (i = .qstat b a mk → q.status < 256 → q.late < 256 → q.killing.length < 256 →
          Sys2Proof.Machine.exec i s = .next (Sys2Proof.Claims.after i (x.setS b
            (0#32 ++ BitVec.ofNat 8 q.killing.length ++ BitVec.ofNat 8 q.late ++ q.arrived.cpop.setWidth 8 ++
              (if q.state = .opened then 0 else BitVec.ofNat 8 q.status) : BitVec 64)))) ∧
        (i = .qscale b a mk → Sys2Proof.Machine.exec i s =
          .next (Sys2Proof.Claims.after i (x.setS b (BitVec.ofNat 64 q.scale))))

/-- R374, R375, R306, R307, R157 and R158: MFSR reads the fields of Table 17.11, fpflags only once the wave's passes have ended; MTSR writes
the fields that may be written and nothing else, LTILE 0, 6 and 7 and an unassigned counter source trapping ILLEGAL_FIELD; CNTRD reads a
counter of the reader's own context, else 0; OINV of an invalid entry traps INVALID_CAP, of a valid one asks for a shoot-down and waits,
and goes on with the new generations once it is acknowledged.
ILLEGAL_FIELD for an L2 sum, and INFO of OINV, are the model's reading (logs 18, 47). -/
def Obligations.SystemRegisterEntries : Prop :=
  ∀ (d : Sys2Proof.SReg) (mk : Bool) (s : Sys2Proof.Machine.State) (x : Sys2Proof.Machine.Iss),
    (∀ n : Sys2Proof.SysReg, Sys2Proof.Claims.Issues (.mfsr n d mk) s x →
      (n = .fpflags → ¬ Sys2Proof.Claims.NoPasses x → Sys2Proof.Machine.exec (.mfsr n d mk) s =
        .next (Sys2Proof.Claims.waits (.mfsr n d mk) x .fpflags)) ∧
      (n ≠ .fpflags ∨ Sys2Proof.Claims.NoPasses x → Sys2Proof.Machine.exec (.mfsr n d mk) s =
        .next (Sys2Proof.Claims.after (.mfsr n d mk) (x.setS d (Sys2Proof.Claims.sysValue x n))))) ∧
    (∀ n : Sys2Proof.SysReg, Sys2Proof.Claims.Issues (.mtsr n d mk) s x →
      (∀ y : Sys2Proof.Machine.Iss, Sys2Proof.Claims.sysWritten x n (x.s d) = some y →
        Sys2Proof.Machine.exec (.mtsr n d mk) s = .next (Sys2Proof.Claims.after (.mtsr n d mk) y)) ∧
      (Sys2Proof.Claims.sysWritten x n (x.s d) = none →
        Sys2Proof.Machine.exec (.mtsr n d mk) s = .next (x.trapHere { cause := 0x01 }))) ∧
    (∀ n : Fin 8, Sys2Proof.Claims.Issues (.cntrd n d mk) s x →
      let c := x.st.core x.tm.die x.wv.core
      Sys2Proof.Machine.exec (.cntrd n d mk) s = .next (Sys2Proof.Claims.after (.cntrd n d mk) (x.setS d
        (if c.cntsel[n].own = true ∧ c.cntsel[n].ctx.toNat = x.tm.ctx then (c.counters[n]).setWidth 64 else 0)))) ∧
    (Sys2Proof.Claims.Issues (.oinv d mk) s x →
      let c := x.st.ctx x.tm.ctx
      let me := some (x.tm.die, x.tm.serial, x.wv.number.val, x.slot)
      let obj := ((x.s d).extractLsb' 0 24).toNat
      ((∀ e ∈ c.shoot, e.asker ≠ me) →
        (x.st.entry x.tm.ctx obj = none → Sys2Proof.Machine.exec (.oinv d mk) s =
          .next (x.trapHere { cause := 0x23, info := 2 ^ 14, addr := 0 })) ∧
        (x.st.entry x.tm.ctx obj ≠ none → Sys2Proof.Machine.exec (.oinv d mk) s =
          .next (Sys2Proof.Claims.waits (.oinv d mk)
            { x with st := x.st.askShoot x.tm.ctx ⟨obj, (x.s d).getLsbD 24, me, false, none⟩ } .oinv))) ∧
      ∀ e : Sys2Proof.Machine.ShootDown, e ∈ c.shoot → e.asker = me → (∀ f ∈ c.shoot, f.asker = me → f = e) →
        (e.result = none → Sys2Proof.Machine.exec (.oinv d mk) s = .next (Sys2Proof.Claims.waits (.oinv d mk) x .oinv)) ∧
        ∀ r : Sys2Proof.W64, e.result = some r →
          let left := { c with shoot := c.shoot.filter fun f => decide (f.asker ≠ me) }
          Sys2Proof.Machine.exec (.oinv d mk) s = .next (Sys2Proof.Claims.after (.oinv d mk)
            (({ x with st := x.st.setCtx x.tm.ctx left }).setS d r)))
namespace Sys2Proof.Claims

open Sys2Proof.Machine

/-! ### The module -/

/-- Why an image does not bring the module up, by the codes of Table 1.6; 0 where it does. -/
def bootCode (minver : Nat) (o : Option FlashImage) : Nat :=
  match o with
  | none => 1
  | some f =>
    if f.signed = false then 2
    else if f.version < minver then 3
    else if flashFits f = false then 4
    else if f.trains = false then 5
    else 0

/-- Slot `j` comes first in the order of R25, step 3, as R27 completes it: the higher version that could be read, slot 0 of equals and
where neither could. -/
def ComesFirst (flash : Vector (Option FlashImage) 2) (j : Fin 2) : Prop :=
  (∃ f, flash[j] = some f ∧ f.signed = true ∧ ∀ (k : Fin 2) (g : FlashImage), k ≠ j → flash[k] = some g →
    g.signed = true → g.version < f.version ∨ (g.version = f.version ∧ j = 0)) ∨
  (j = 0 ∧ ∀ (k : Fin 2) (g : FlashImage), flash[k] = some g → g.signed = false)

/-- R25 and R27: a module reset applies the image that comes first of those that pass, and raises MINVER to its version; where none
passes the module stays in reset, PHASE 3, with the reason of the slot that comes first. -/
def ResetBoots : Prop :=
  ∀ (s : State) (j : Fin 2),
    (∀ f : FlashImage, s.flash[j] = some f → bootCode s.minver.toNat (some f) = 0 → f.version < 2 ^ 16 →
      (∀ (k : Fin 2) (g : FlashImage), k ≠ j → s.flash[k] = some g → bootCode s.minver.toNat (some g) = 0 →
        g.version < f.version ∨ (g.version = f.version ∧ j = 0)) →
      exec .moduleReset s = .next { State.reset with
        phase := .running, cfgver := BitVec.ofNat 16 f.version, minver := BitVec.ofNat 16 f.version, flash := s.flash
        config := some f, moves := s.moves, free := s.free }) ∧
    (ComesFirst s.flash j → (∀ k : Fin 2, bootCode s.minver.toNat s.flash[k] ≠ 0) →
      exec .moduleReset s = .next { State.reset with
        phase := .failed, fail := BitVec.ofNat 8 (bootCode s.minver.toNat s.flash[j]), minver := s.minver
        flash := s.flash, moves := s.moves, free := s.free })

/-- R26: an image written to flash changes its slot and nothing else. R27: host traffic before PHASE 2 has no effect. R300: the link
trains to x1, x2, x4, x8 or x16 at a PCIe rate from 1 to 7. -/
def FlashAndLink : Prop :=
  ∀ (s : State) (slot : Fin 2) (image : Option FlashImage) (width rate : Nat),
    exec (.moduleFlashWrite slot image) s = .next { s with flash := s.flash.set slot image } ∧
    exec .hostTrafficBeforeRun s = .next s ∧
    (width = 1 ∨ width = 2 ∨ width = 4 ∨ width = 8 ∨ width = 16 → 1 ≤ rate → rate ≤ 7 →
      exec (.hostLinkTraining width rate) s = .next { s with link := some (width, rate) })

/-- R302 and R303: at a pod join the module takes its number and the context its peers, at most one per module; a module that is not
configured joins nothing (R25). R304: a module that has left
is lost from then on, and a command that waits for one of its pages waits no longer; no other context or command changes. -/
def PodSteps : Prop :=
  ∀ (s : State) (module : BitVec 13) (ctx : Nat) (peers : List (Nat × Nat)) (gone : Nat),
    (s.phase ≠ .running → exec (.podJoin module ctx peers) s = .next s) ∧
    (s.phase = .running → ctx < 64 → (peers.map Prod.fst).Nodup → ∃ u : State, exec (.podJoin module ctx peers) s = .next u ∧
      u = { s with module := module, joined := true, lost := u.lost, contexts := u.contexts } ∧
      (∀ m, m ∈ u.lost ↔ m ∈ s.lost ∧ m ∉ peers.map Prod.fst) ∧
      u.ctx ctx = { s.ctx ctx with peers := peers } ∧ ∀ c, c ≠ ctx → u.ctx c = s.ctx c) ∧
    ∃ u : State, exec (.podModuleLoss gone) s = .next u ∧ u = { s with lost := u.lost, cores := u.cores } ∧
      (∀ m, m ∈ u.lost ↔ m = gone ∨ m ∈ s.lost) ∧
      ∀ (i : Nat) (c : Core), s.cores[i]? = some c → ∃ c' : Core, u.cores[i]? = some c' ∧
        c' = { c with engines := c'.engines } ∧ c'.engines.length = c.engines.length ∧
        ∀ (k : Nat) (e : EngineCmd), c.engines[k]? = some e →
          (∀ o, e.waiting = some o → 2 ^ 23 ≤ o → o / 2 ^ 10 % 2 ^ 13 = gone →
            c'.engines[k]? = some { e with waiting := none }) ∧
          ((∀ o, e.waiting = some o → o < 2 ^ 23 ∨ o / 2 ^ 10 % 2 ^ 13 ≠ gone) → c'.engines[k]? = some e)

/-- R305: a droop stretches the clock of the quad's cores, its end stretches it no longer; counters apart, nothing else of the machine
changes. -/
def DroopSteps : Prop :=
  ∀ (s : State) (f : FlashImage) (die : Fin 4) (quad : Nat) (i : Instr) (on : Bool),
    s.config = some f → (i = .droopEvent die quad ∧ on = true ∨ i = .droopRecovery die quad ∧ on = false) →
    ∃ u : State, exec i s = .next u ∧ { u with cores := s.cores } = s ∧
      ∀ (d : Fin 4) (n : Nat),
        (d = die ∧ n ∈ quadCores f die quad →
          u.core d n = { s.core d n with stretched := on, counters := (u.core d n).counters }) ∧
        (¬ (d = die ∧ n ∈ quadCores f die quad) → u.core d n = s.core d n)

/-! ### The memory system -/

/-- R122: a sector a context reads, held nowhere, is filled from its home into the core's L1, and no byte of memory changes. R153 and
R158: a walker fill puts the leaf as it stands first in the core's buffer; one that read an older MGEN is discarded and walks again. -/
def Fills : Prop :=
  ∀ (s : State) (die : Fin 4) (core ctx off pa : Nat) (cap : Cap) (e : Entry) (l : Leaf),
    (cap.getLsbD 109 = true → cap.getLsbD 104 = true → off < (cap.extractLsb' 64 40).toNat → remoteObj (capObj cap) = false →
      capTent cap = false → (s.core die core).otb = [] → s.walk ctx (capObj cap) (capBase cap + off) = .ok pa e l →
      e.cgen = capGen cap → e.alias_ = false → QuietHome s pa →
      ∃ u : State, exec (.sectorFill die core ctx cap off) s = .next u ∧
        (u.core die core).l1 = [⟨domainOf ctx cap, capObj cap, (capBase cap + off) / 256 * 256, BitVec.ofNat 16 (capGen cap),
          pa / 256 * 256, s.peekBytes (pa / 256 * 256) 256, false⟩] ∧
        (∀ a : Nat, u.peek a = s.peek a) ∧ u.teams = s.teams ∧ u.contexts = s.contexts) ∧
    ∀ (obj : Nat) (mgen : BitVec 16),
      ((∀ (p : Nat) (f : Entry) (m : Leaf), s.walk ctx obj off ≠ .ok p f m) →
        exec (.walkerFill die core ctx obj off mgen) s = .next s) ∧
      (s.walk ctx obj off = .ok pa e l → ∃ (u : State) (rest : List OtbEntry),
        exec (.walkerFill die core ctx obj off mgen) s = .next u ∧ { u with cores := s.cores } = s ∧
        u.core die core = { s.core die core with
          otb := ⟨if e.pub then 0 else ctx + 1, obj, BitVec.ofNat 16 e.mgen, BitVec.ofNat 16 e.cgen, if e.alias_ then 1 else 0, l.opage, l.run,
            l.ppage⟩ :: rest } ∧
        (∀ x ∈ rest, x ∈ (s.core die core).otb) ∧ rest.length ≤ 511 ∧
        ∀ (d : Fin 4) (n : Nat), ¬ (d = die ∧ n = core) → u.core d n = s.core d n)

/-- R122 and R131: the writeback of a dirty sector puts its 256 bytes at its home, and the sector stays clean or leaves L1; no other
sector's home content and no other core's L1 changes. -/
def Writeback : Prop :=
  ∀ (s : State) (die : Fin 4) (core index : Nat) (evict : Bool) (x : L1Sector) (h : HomeAt),
    (s.core die core).l1[index]? = some x → x.dirty = true → x.pa % 256 = 0 → x.data.length = 256 → s.phys.wf = true →
    homeOf x.pa = some h → (∀ d : Fin 4, h = .die d → s.dies[d].l2 = L2.empty) →
    ∃ u : State, exec (.sectorWriteback die core index evict) s = .next u ∧ u.homeSector x.pa = (x.data, false) ∧
      (∀ a : Nat, a / 256 ≠ x.pa / 256 → u.homeSector a = s.homeSector a) ∧
      (u.core die core).l1 = (if evict then (s.core die core).l1.eraseIdx index
        else (s.core die core).l1.set index { x with dirty := false }) ∧
      ∀ (d : Fin 4) (n : Nat), ¬ (d = die ∧ n = core) → u.core d n = s.core d n

/-- R133, R23 and R301: a partial write, and a store of the host or a companion core within 64 aligned bytes of no stream's block, put
their bytes at their home and change no other; a load changes none; an atomic writes what its operation gives. Before PHASE 2 an access
has no effect (R25, R27). R143: where a companion core's access writes a leaf that says its page moves, no line of the run is left in an
L1 or an L2, nor a version of one; the other clauses are of accesses that write no such leaf. -/
def BusWrites : Prop :=
  ∀ (s : State) (pa dom : Nat) (bs : List Byte), QuietHome s pa →
    (s.phase ≠ .running → exec (.partialWrite pa dom bs) s = .next s) ∧
    (s.phase = .running → bs ≠ [] → pa % 256 + bs.length ≤ 256 →
      ∃ u : State, exec (.partialWrite pa dom bs) s = .next u ∧ Stored s u pa bs) ∧
    (∀ (op : BusOp) (l : Leaf), s.phase = .running → busSpan op ≠ 0 →
      l ∈ s.movingAt pa (busSpan op) ++ (s.busAccess pa op).movingAt pa (busSpan op) →
      ∃ u : State, exec (.companionMemAccess pa op) s = .next u ∧
        let moves := fun (a : Nat) => l.ppage ≤ a / 65536 ∧ a / 65536 ≤ l.ppage + l.run
        (∀ c ∈ u.cores, ∀ x ∈ c.l1, ¬ moves x.pa) ∧ (∀ v ∈ u.lp6, ¬ moves v.line) ∧
        ∀ d : Fin 4, (∀ t ∈ u.dies[d].l2.tags, ¬ moves (d.val * 0x3000000000 + 1024 * t.line)) ∧
          ∀ v ∈ u.dies[d].l2.versions, ¬ moves v.line) ∧
    ∀ (op : BusOp) (i : Instr), (i = .hostMemAccess pa op ∨ i = .companionMemAccess pa op ∧
        s.movingAt pa (busSpan op) = [] ∧ (s.busAccess pa op).movingAt pa (busSpan op) = []) →
      (s.phase ≠ .running → exec i s = .next s) ∧
      (s.phase = .running → (∀ c : Nat, (s.ctx c).streams = []) →
        (op = .store bs → bs ≠ [] → pa % 64 + bs.length ≤ 64 → ∃ u : State, exec i s = .next u ∧ Stored s u pa bs) ∧
        (∀ n : Nat, op = .load n → 0 < n → pa % 256 + n ≤ 256 →
          ∃ u : State, exec i s = .next u ∧ ∀ a : Nat, u.peek a = s.peek a) ∧
        ∀ (o : AtomOp) (wide : Bool) (x y : Nat), op = .atomic o wide x y → pa % (if wide then 8 else 4) = 0 →
          ∃ u : State, exec i s = .next u ∧
            (∀ v : Nat, atomNew o (8 * if wide then 8 else 4) (s.peekNat pa (if wide then 8 else 4)) x y = some v →
              Stored s u pa (leBytes (if wide then 8 else 4) v)) ∧
            (atomNew o (8 * if wide then 8 else 4) (s.peekNat pa (if wide then 8 else 4)) x y = none →
              ∀ a : Nat, u.peek a = s.peek a))

/-- R184: a host's or companion core's store to the HEAD of a stream that no rod reads moves it up to the value, never back and never past
TAIL; an attached stream keeps its HEAD. A CAS on the TAIL of a plain stream is refused; any other takes effect where it compares
equal and reserves forward within the ring. -/
def StreamBus : Prop :=
  ∀ (s : State) (block : Nat) (value compare : W64), s.phase = .running → s.blockAt block = some block → block % 64 = 0 →
    QuietHome s block →
    let cfg := s.peekNat (block + 24) 8
    let tail := s.peekNat block 8
    let head := s.peekNat (block + 8) 8
    (bitsOf cfg 44 1 = 1 → exec (.hostHeadStore block value) s = .next s) ∧
    (bitsOf cfg 44 1 = 0 → ∃ u : State, exec (.hostHeadStore block value) s = .next u ∧
      Stored s u (block + 8) (leBytes 8 (max head (min value.toNat tail)))) ∧
    (bitsOf cfg 41 2 = 0 → exec (.hostTailCas block compare value) s = .next s) ∧
    (bitsOf cfg 41 2 ≠ 0 →
      let fits := tail = compare.toNat ∧ tail ≤ value.toNat ∧ value.toNat ≤ head + 2 ^ bitsOf cfg 36 5
      (¬ fits → exec (.hostTailCas block compare value) s = .next s) ∧
      (fits → ∃ u : State, exec (.hostTailCas block compare value) s = .next u ∧
        Stored s u block (leBytes 8 value.toNat)))

/-- R303 and R304: a request of another module is translated here; one with a stale generation changes nothing, and so does a validation;
a store whose generation is the entry's puts its bytes where the object has them. -/
def RemoteRequests : Prop :=
  ∀ (s : State) (ctx obj off gen pa : Nat) (op : BusOp) (bs : List Byte) (e : Entry) (l : Leaf),
    exec (.walaroRemoteRequest ctx obj off gen none) s = .next s ∧
    (s.phase = .running → s.joined = true → s.walk ctx (obj % 1024) off = .ok pa e l →
      (e.cgen ≠ gen → exec (.walaroRemoteRequest ctx obj off gen (some op)) s = .next s) ∧
      (e.cgen = gen → obj % 1024 ∉ (s.ctx ctx).streams → QuietHome s pa → bs ≠ [] → pa % 256 + bs.length ≤ 256 →
        ∃ u : State, exec (.walaroRemoteRequest ctx obj off gen (some (.store bs))) s = .next u ∧ Stored s u pa bs))

/-- R134 and R138: where the reserve of a slice is short, lines leave the L2 until it is whole or no line of the slice that holds data may
leave; no pinned line leaves, no tag is made, and nothing outside the die's L2 and memory changes. -/
def Evictions : Prop :=
  ∀ (s : State) (die : Fin 4) (slice : Nat),
    (s.reserveLow die slice = false → exec (.l2Eviction die slice) s = .next s) ∧
    (s.reserveLow die slice = true → (∀ t ∈ s.dies[die].l2.tags, t.line < 2 ^ 28) →
      ∃ u : State, exec (.l2Eviction die slice) s = .next u ∧ { u with phys := s.phys, badPhys := s.badPhys, dies := s.dies } = s ∧
        (∀ d : Fin 4, d ≠ die → u.dies[d] = s.dies[d]) ∧
        { u.dies[die] with l2 := s.dies[die].l2 } = s.dies[die] ∧
        (∀ t ∈ u.dies[die].l2.tags, t ∈ s.dies[die].l2.tags) ∧
        (∀ t ∈ s.dies[die].l2.tags, t.line ∈ s.pinnedLines die → t ∈ u.dies[die].l2.tags) ∧
        (u.reserveLow die slice = true → ∀ t ∈ u.dies[die].l2.tags, t.line % 24 = slice → t.hasData = true →
          t.line ∈ s.pinnedLines die))

/-- R140: an uncorrectable error poisons its data entry, and with it every sector that points there; it is logged once, and no byte
changes. Number 16,384 stands for a slice's ZERO entry, those above it for the entries of its versions, and slice 24 of die 0 for the hub's
(log 61). -/
def SoftErrors : Prop :=
  ∀ (s : State) (die : Fin 4) (slice num : Nat),
    let logged := s.errors ++ [(die.val * 25 + slice) * 2 ^ 20 + num]
    (slice < 24 → ∀ p : SectorPtr, (num < 16384 ∧ p = .data num ∨ num = 16384 ∧ p = .zero) → ∀ (data : List Byte) (poison : Bool),
      s.dies[die].l2.content slice p = some (data, poison) →
      (poison = true → exec (.softError die slice num) s = .next s) ∧
      (poison = false → ∃ u : State, exec (.softError die slice num) s = .next u ∧
        u = { s with dies := u.dies, errors := logged } ∧ (∀ d : Fin 4, d ≠ die → u.dies[d] = s.dies[d]) ∧
        ∀ pa : Nat, homeOf pa = some (.die die) → sliceOf (lineOf pa) = slice →
          (s.dies[die].l2.pointer (lineOf pa) (sectorOf pa) = p → u.homeSector pa = (data, true)) ∧
          (s.dies[die].l2.pointer (lineOf pa) (sectorOf pa) ≠ p → u.homeSector pa = s.homeSector pa))) ∧
    (slice = 24 → die = 0 → ∀ (h : W32) (i pa : Nat), homeOf pa = some .lp6 → s.lp6.length = 1 →
      (s.versionOf h i pa).isSome = true → (∀ v ∈ s.lp6, ∀ k : Fin 4, v.data[k] ≠ none → k = sectorOf pa) → num = 0 →
      (s.versionBad h i pa = true → exec (.softError die slice num) s = .next s) ∧
      (s.versionBad h i pa = false → ∃ u : State, exec (.softError die slice num) s = .next u ∧
        u = { s with lp6 := u.lp6, errors := logged } ∧ u.versionOf h i pa = s.versionOf h i pa ∧
        u.versionBad h i pa = true))

end Sys2Proof.Claims

/-- R25 to R27, R300 and R302 to R305: the steps of the module as its firmware sees it.
What a reset clears and what happens only as a move are the model's choices (logs 3, 36, 52). -/
def Obligations.ModuleSteps : Prop :=
  Sys2Proof.Claims.ResetBoots ∧ Sys2Proof.Claims.FlashAndLink ∧ Sys2Proof.Claims.PodSteps ∧ Sys2Proof.Claims.DroopSteps

/-- R23, R122, R131, R133, R134, R138, R140, R153, R158, R184 and R301 to R304: the steps of the memory system, and what parties outside
the compute cores do to it.
Errors and accesses of other parties come only as moves; the domain of host accesses, and what a poisoned entry does to the directory, are
the model's reading (logs 17, 36, 43, 50, 59). -/
def Obligations.MemorySteps : Prop :=
  Sys2Proof.Claims.Fills ∧ Sys2Proof.Claims.Writeback ∧ Sys2Proof.Claims.BusWrites ∧ Sys2Proof.Claims.StreamBus ∧
    Sys2Proof.Claims.RemoteRequests ∧ Sys2Proof.Claims.Evictions ∧ Sys2Proof.Claims.SoftErrors

namespace Sys2Proof.Claims

open Sys2Proof.Machine

/-! ### Waves -/

/-- No matrix or accumulator instruction of a wave of a team is left in a sequencer of its die. -/
def WaveWritten (s : State) (t : Team) (w : Wave) : Prop :=
  ∀ c ∈ s.cores, c.die = t.die → ∀ q ∈ c.queue, ¬ (q.team = t.serial ∧ q.wave = w.number.val)

/-- R50 and R51: a marker wait ends once every result of the wave is written, and clears every pending-write bit. -/
def MarkerEnds : Prop :=
  ∀ (s : State) (team wave : Nat) (t : Team) (w : Wave), s.waveAt ⟨team, wave, 0⟩ = some (t, w) → w.status = .running →
    (w.marker = true → WaveWritten s t w →
      exec (.markerWaitComplete team wave) s = .next (s.setWaveAt ⟨team, wave, 0⟩ { noPending w with marker := false })) ∧
    (w.marker = false ∨ ¬ WaveWritten s t w → exec (.markerWaitComplete team wave) s = .next s)

/-- R281, R283 and R289: with the wave's results written and a handler named, the lowest trapped split enters service mode; where none has
trapped, the lowest parked one does once every other live split is parked or stands at a JOIN. -/
def ServiceEntries : Prop :=
  ∀ (s : State) (team wave : Nat) (t : Team) (w : Wave) (j : Fin 4) (sp : Split),
    s.waveAt ⟨team, wave, 0⟩ = some (t, w) → w.status = .running → w.svc = none → w.park = none → w.yielded = false →
    w.cc.p = false → WaveWritten s t w → w.tvecObj ≠ 0 → w.splits[j] = some sp →
    (sp.status = .trapped ∧ (∀ (k : Fin 4) (o : Split), k < j → w.splits[k] = some o → o.status ≠ .trapped) ∨
      sp.status = .parked ∧ (∀ (k : Fin 4) (o : Split), k < j → w.splits[k] = some o → o.status ≠ .parked) ∧
        ∀ (k : Fin 4) (o : Split), w.splits[k] = some o → o.status = .parked ∨ o.status = .atJoin) →
    exec (.serviceEntry team wave) s = .next (s.setWaveAt ⟨team, wave, j⟩ { noPending w with
      marker := false, svc := some j, svcPc := BitVec.ofNat 48 (w.tvecEntry.toNat * 64), svcWait := none })

/-- A wave that may retire: no live split, no queued store, no engine command and no matrix work left (R47). -/
def Finished (s : State) (t : Team) (w : Wave) : Prop :=
  w.status = .running ∧ w.splits = Vector.replicate 4 none ∧ w.stores = [] ∧ WaveWritten s t w ∧
    ∀ c ∈ s.cores, c.die = t.die → ∀ e ∈ c.engines, ¬ (e.die = t.die ∧ e.team = t.serial ∧ e.wave = w.number.val)

/-- R47: a finished wave retires while another of its team runs or has stores to perform. R48 and R427: with the last one the team is gone, and where its record
names a completion stream, its completion event is given to the home of that stream, to come after every publication before it. -/
def Retirement : Prop :=
  ∀ (s : State) (team wave : Nat) (t : Team) (w : Wave), s.waveAt ⟨team, wave, 0⟩ = some (t, w) → Finished s t w →
    s.findTeam t.die t.serial = some (team, t) → s.barriers = [] →
    ((∃ (k : Nat) (o : Wave), k ≠ wave ∧ t.waves[k]? = some o ∧ (o.status = .running ∨ o.stores ≠ [])) →
      exec (.waveRetire team wave) s = .next (s.setWaveAt ⟨team, wave, 0⟩ { w with status := .retired })) ∧
    ((∀ (k : Nat) (o : Wave), k ≠ wave → t.waves[k]? = some o → o.status ≠ .running ∧ o.stores = []) →
      t.member = none → t.held = [] → t.halt = .none → t.killed = false →
      (∀ o ∈ t.waves, o.traceobj.getLsbD 31 = false) →
      let gone : State := { s with teams := s.teams.eraseIdx team }
      let done := bytesNat t.record 24 3
      let home := gone.homeDie t.ctx done
      (done = 0 → exec (.waveRetire team wave) s = .next gone) ∧
      ∀ ev : EventRec, done ≠ 0 → t.events[(0 : Fin 4)] = some ev →
        exec (.waveRetire team wave) s = .next (gone.setDie home { gone.dies[home] with
          records := gone.dies[home].records ++ [{
            ctx := t.ctx, obj := done, pos := none, slot := 0
            bytes := eventBytes (bytesNat t.record 27 1) (ev.head.toNat / 2 ^ 11 % 32) t.depth
              (srcOf t.die w.core w.number.val) (ev.head.toNat / 2 ^ 32 % 2 ^ 32)
              (leBytes 4 t.serial.toNat ++ leBytes 4 t.rod.toNat)
            wid := widOf t.die w, team := t.serial, posted := false, told := none, order := some gone.nextOrder }] }))

/-- Of a team, the waves parked on an object issue again, and nothing else changes. -/
def ReplayedTeam (obj : Nat) (t t' : Team) : Prop :=
  { t' with waves := t.waves } = t ∧ t'.waves.length = t.waves.length ∧
    ∀ (j : Nat) (w : Wave), t.waves[j]? = some w →
      ((∃ (slot : Fin 4) (lanes : Mask), w.park = some (.replayable slot lanes obj)) →
        t'.waves[j]? = some { w with park := none }) ∧
      ((∀ (slot : Fin 4) (lanes : Mask), w.park ≠ some (.replayable slot lanes obj)) → t'.waves[j]? = some w)

/-- The same of a team off its cores, with its engine commands that wait on the object. -/
def ReplayedSaved (obj : Nat) (x x' : SavedTeam) : Prop :=
  { x' with team := x.team, engines := x.engines } = x ∧ ReplayedTeam obj x.team x'.team ∧
    x'.engines = x.engines.map fun e => (e.1, if e.2.waiting = some obj then { e.2 with waiting := none } else e.2)

/-- The same of the queued launches that place a team of a context again. -/
def ReplayedQueue (ctx obj : Nat) (ls ls' : List Launch) : Prop :=
  ls'.length = ls.length ∧ ∀ (k : Nat) (l : Launch), ls[k]? = some l → ∃ l' : Launch, ls'[k]? = some l' ∧
    { l' with restored := l.restored } = l ∧ (l.ctx ≠ ctx ∨ l.restored = none → l' = l) ∧
    ∀ x : SavedTeam, l.ctx = ctx → l.restored = some x → ∃ x' : SavedTeam, l'.restored = some x' ∧ ReplayedSaved obj x x'

/-- R159 and R298: REPLAY lets every wave of the context parked on the object issue again, and its commands that wait for it go on, on their
cores or off them; nothing else changes, and nothing at all while the context is saved or on its way back. -/
def Replays : Prop :=
  ∀ (s : State) (ctx : Nat) (obj : BitVec 24),
    ((s.ctx ctx).state = .saved ∨ (s.ctx ctx).state = .restoring → exec (.replay ctx obj) s = .next s) ∧
    (s.phase = .running → (s.ctx ctx).state ≠ .saved → (s.ctx ctx).state ≠ .restoring → ∃ u : State, exec (.replay ctx obj) s = .next u ∧
      { u with teams := s.teams, cores := s.cores, dies := s.dies, contexts := s.contexts } = s ∧
      (∀ c : Nat, c ≠ ctx → u.ctx c = s.ctx c) ∧ { u.ctx ctx with dbg := (s.ctx ctx).dbg } = s.ctx ctx ∧
      { (u.ctx ctx).dbg with swapped := (s.ctx ctx).dbg.swapped } = (s.ctx ctx).dbg ∧
      ((s.ctx ctx).dbg.swapped = none → (u.ctx ctx).dbg.swapped = none) ∧
      (∀ x : SavedTeam, (s.ctx ctx).dbg.swapped = some x →
        ∃ x' : SavedTeam, (u.ctx ctx).dbg.swapped = some x' ∧ ReplayedSaved obj.toNat x x') ∧
      (∀ d : Fin 4, { u.dies[d] with queue := s.dies[d].queue, overflow := s.dies[d].overflow } = s.dies[d] ∧
        ReplayedQueue ctx obj.toNat s.dies[d].queue u.dies[d].queue ∧
        ReplayedQueue ctx obj.toNat s.dies[d].overflow u.dies[d].overflow) ∧
      (∀ (i : Nat) (t : Team), s.teams[i]? = some t → ∃ t' : Team, u.teams[i]? = some t' ∧
        (t.ctx = ctx → ReplayedTeam obj.toNat t t') ∧ (t.ctx ≠ ctx → t' = t)) ∧
      ∀ (i : Nat) (c : Core), s.cores[i]? = some c → ∃ c' : Core, u.cores[i]? = some c' ∧
        { c' with engines := c.engines } = c ∧ c'.engines.length = c.engines.length ∧
        ∀ (j : Nat) (e : EngineCmd), c.engines[j]? = some e →
          (e.ctx = ctx → e.waiting = some obj.toNat → c'.engines[j]? = some { e with waiting := none }) ∧
          (¬ (e.ctx = ctx ∧ e.waiting = some obj.toNat) → c'.engines[j]? = some e))

/-- A team as a kill request that stops none of its waves leaves it (R270): cc.K set in every wave. -/
def killedTeam (t : Team) : Team :=
  { t with killed := true, waves := t.waves.map fun w => { w with cc := { w.cc with k := true } } }

/-- R270, R271 and R292: a kill request, of a released quorum or of the register TEAMKILL, sets cc.K in every wave of a resident team, of
which none stands at a kill point; a queued team of the context is never placed, and of one that was to be placed again the engine
commands go on; one of another context is left as it is. A quorum asks a team once, also one that waits for its cores again (R277). -/
def Kills : Prop :=
  ∀ (s : State) (ctx : Nat) (die : Fin 4) (team : W32),
    (∀ (i : Nat) (t : Team), s.findTeam die team = some (i, t) → (∀ w ∈ t.waves, w.stopsNow = false) →
      ((∃ (d : Fin 4) (q : Quorum) (m : Nat), q ∈ s.dies[d].quorums ∧ q.ctx = ctx ∧ (m, die.val, team) ∈ q.killing) →
        t.killed = false → (∀ o ∈ s.awayTeams, ¬ (o.die = die ∧ o.serial = team)) →
        exec (.killRequest ctx die team) s = .next (s.setTeam i (killedTeam t))) ∧
      (s.phase = .running → t.ctx = ctx → exec (.teamkill ctx die team) s = .next (s.setTeam i (killedTeam t)))) ∧
    (∀ l : Launch, s.findTeam die team = none → s.dies[die].launchOf team = some l → s.phase = .running → l.ctx = ctx →
      l.member = none → l.held = [] → s.swapper die team = none →
      let gone := s.setDie die { s.dies[die] with
        queue := s.dies[die].queue.filter fun m => decide (m.serial ≠ some team)
        overflow := s.dies[die].overflow.filter fun m => decide (m.serial ≠ some team) }
      (l.restored = none → exec (.teamkill ctx die team) s = .next gone) ∧
      ∀ (x : SavedTeam) (n : Nat) (e : EngineCmd), l.restored = some x → x.engines = [(n, e)] → s.barriers = [] →
        exec (.teamkill ctx die team) s = .next (gone.setCore { gone.core x.team.die n with
          engines := (gone.core x.team.die n).engines ++ [{ e with waiting := none }] })) ∧
    (∀ o ∈ s.awayTeams, o.die = die → o.serial = team → o.killed = true → exec (.killRequest ctx die team) s = .next s) ∧
    ((∀ p, s.findTeam die team = some p → p.2.ctx ≠ ctx) → (∀ l, s.dies[die].launchOf team = some l → l.ctx ≠ ctx) →
      exec (.teamkill ctx die team) s = .next s)

/-! ### Contexts -/

/-- What a state gives, whatever writes leave in the sectors of some addresses. -/
def SteadyIn {α : Type} (s : State) (area : Nat → Prop) (f : State → α) (v : α) : Prop :=
  ∀ s' : State, s'.contexts = s.contexts → s'.free = s.free →
    (∀ a : Nat, (∀ b : Nat, area b → a / 256 ≠ b / 256) → s'.peekSector a = s.peekSector a) → f s' = v

/-- The first `n` bytes of an object lie in the LP6 tier, no two of its sectors in one, whatever is written into them: where each does. -/
def Backed (s : State) (ctx obj n : Nat) (at_ : Nat → Nat) : Prop :=
  ∀ o < n, SteadyIn s (fun a => ∃ b < n, a = at_ b) (fun s' => s'.objectPa ctx obj o) (some (at_ o)) ∧
    homeOf (at_ o) = some .lp6 ∧ at_ o % 256 = o % 256 ∧ ∀ b < n, at_ b / 256 = at_ o / 256 ↔ b / 256 = o / 256


/-- R299: CTXCMD.CMD = 1 starts the save of a running context whose IMGOBJ takes the image, whatever its size is; a smaller one sets
FAIL. Its quorum clocks stop there (R294). R293 and R294: the request reaches every running wave of a saved context on a core, and no other. -/
def SaveBegins : Prop :=
  ∀ (s : State) (ctx : Nat) (die : Fin 4) (core : Nat), ctx < 64 →
    let n := Config.imageSize s.free
    (s.phase = .running → (s.ctx ctx).state = .running →
      (64 + n ≤ s.objectSize ctx (s.ctx ctx).imgObj.toNat → exec (.contextSave ctx) s =
        .next (s.setCtx ctx { s.ctx ctx with
          state := .saving, imgLen := n, fail := 0, clocks := some (s.dies.map fun d => d.ticks) })) ∧
      (s.objectSize ctx (s.ctx ctx).imgObj.toNat < 64 + n → exec (.contextSave ctx) s =
        .next (s.setCtx ctx { s.ctx ctx with fail := 0xA4 }))) ∧
    ((s.ctx ctx).state = .saving → ∃ u : State, exec (.preemptRequest ctx die core) s = .next u ∧
      { u with teams := s.teams } = s ∧
      ∀ (i : Nat) (t : Team), s.teams[i]? = some t → ∃ t' : Team, u.teams[i]? = some t' ∧
        { t' with waves := t.waves } = t ∧ t'.waves.length = t.waves.length ∧
        ∀ (j : Nat) (w : Wave), t.waves[j]? = some w →
          let due := t.ctx = ctx ∧ t.die = die ∧ w.core = core ∧ w.status = .running ∧ w.cc.p = false
          (due → t'.waves[j]? = some { w with cc := { w.cc with p := true }, left := w.pdead }) ∧
          (¬ due → t'.waves[j]? = some w))

/-- A split of a wave, or the handler that serves it, waits for something. -/
def WaitsFor (w : Wave) (j : Fin 4) (k : Wait) : Prop :=
  if w.svc = some j then w.svcWait = some k else ∃ sp : Split, w.splits[j] = some sp ∧ sp.status = .waiting k

/-- R294: a wave whose time is up before it yields, in service mode or with a ready split and no trapped one, that waits for no answer of a
Frame, no shoot-down and no place in a sequencer (R386, R380), and with no pass of its team left but an MMAX, stops at its next boundary
with every vector register live. -/
def ForcedSaves : Prop :=
  ∀ (s : State) (team wave : Nat) (t : Team) (w : Wave), s.waveAt ⟨team, wave, 0⟩ = some (t, w) →
    (s.ctx t.ctx).state = .saving → w.status = .running → w.cc.p = true → w.left = 0 → w.yielded = false → w.park = none →
    (w.svc = none → (∃ (j : Fin 4) (sp : Split), w.splits[j] = some sp ∧ sp.status = .ready) ∧
      ∀ (j : Fin 4) (sp : Split), w.splits[j] = some sp → sp.status ≠ .trapped) →
    (∀ (j : Fin 4) (k : Wait), WaitsFor w j k → k ≠ .oinv ∧ (∀ b : Bool, k ≠ .quorumAnswer b) ∧ ∀ n : Nat, k ≠ .tile n) →
    (∀ c ∈ s.cores, c.die = t.die → ∀ q ∈ c.queue, q.team = t.serial → q.op = 3) →
    exec (.forcedSave team wave) s =
      .next (s.setWaveAt ⟨team, wave, 0⟩ { w with yielded := true, forced := true, live := BitVec.allOnes 64 })

/-- R296 and R299: once every wave of the context is settled, the image is written from offset 0 of IMGOBJ, its header as in Table 14.9 and
then its body, encrypted, and the context is SAVED with SAVECTR advanced, and its teams, rods and queued launches are gone from the module while its quorum
registers stay; where the page is not there, the save ends with SAVE_FAULT and the waves go on, and the quorum clocks from where they
stopped (R277, R294). -/
def SaveEnds : Prop :=
  ∀ (s : State) (ctx : Nat), ctx < 64 → s.saveReady ctx = true →
    let c := s.ctx ctx
    (s.objectPa ctx c.imgObj.toNat 0 = none → ∃ u : State, exec (.saveImageWrite ctx) s = .next u ∧
      u = { s with
        teams := u.teams, dies := u.dies
        contexts := s.contexts.set! ctx { c with state := .running, fail := 0xA4, clocks := none } } ∧
      (∀ d : Fin 4, { u.dies[d] with quorums := s.dies[d].quorums } = s.dies[d] ∧
        u.dies[d].quorums = s.dies[d].quorums.map fun q =>
          let units := fun (ticks : Nat) => ((ticks / 2 ^ descUnit q.desc : Nat) : Int)
          let stopped := match c.clocks with | some v => v[d] | none => s.dies[d].ticks
          if q.ctx = ctx then { q with mark := q.mark + units s.dies[d].ticks - units stopped } else q) ∧
      ∀ (i : Nat) (t : Team), s.teams[i]? = some t → ∃ t' : Team, u.teams[i]? = some t' ∧
        { t' with waves := t.waves } = t ∧ t'.waves.length = t.waves.length ∧
        ∀ (j : Nat) (w : Wave), t.waves[j]? = some w →
          t'.waves[j]? = some (if t.ctx = ctx then
            { w with cc := { w.cc with p := false }, left := 0, yielded := false, forced := false } else w)) ∧
    ∀ at_ : Nat → Nat,
      (c.imgLen ≤ 192 ∧ s.objectPa ctx c.imgObj.toNat 0 = some (at_ 0) ∧ at_ 0 % 256 = 0 ∧ QuietHome s (at_ 0) ∧
          (∀ o < 256, at_ o = at_ 0 + o) ∨
        Backed s ctx c.imgObj.toNat (64 + c.imgLen) at_ ∧ s.phys.wf = true ∧ ∀ k ∈ s.cores, k.l1 = []) →
      (∀ d : Fin 4, ∀ q ∈ s.dies[d].quorums, q.ctx = ctx → q.killing = []) →
      ∃ u : State, exec (.saveImageWrite ctx) s = .next u ∧
        u.ctx ctx = { c with
          state := .saved, saveCtr := c.saveCtr + 1, forcedW := BitVec.ofNat 32 (s.forcedWaves ctx), fail := 0
          saved := (u.ctx ctx).saved, clocks := none } ∧
        (u.ctx ctx).saved ≠ none ∧ (∀ e : Nat, e ≠ ctx → u.ctx e = s.ctx e) ∧
        u.teams = s.teams.filter (fun t => decide (t.ctx ≠ ctx)) ∧
        (∀ d : Fin 4, u.dies[d].rods = s.dies[d].rods.filter (fun r => decide (r.ctx ≠ ctx)) ∧
          u.dies[d].queue = s.dies[d].queue.filter (fun l => decide (l.ctx ≠ ctx)) ∧
          u.dies[d].quorums = s.dies[d].quorums) ∧
        (List.range 32).map (fun b => u.peek (at_ b)) = leBytes 4 0x43475843 ++ leBytes 2 1 ++ leBytes 1 ctx ++
          leBytes 1 ((if s.savedTeams ctx = 0 then 1 else 0) + if s.forcedWaves ctx = 0 then 0 else 2) ++
          leBytes 8 (c.saveCtr.toNat + 1) ++ leBytes 8 c.imgLen ++ leBytes 4 (s.savedTeams ctx) ++
          leBytes 4 (s.forcedWaves ctx) ∧
        ∃ plain : List Byte, ∀ b < c.imgLen, u.peek (at_ (64 + b)) = Config.sealedByte s.free plain b

/-- The header of an image answers for a context (R299): its magic, its version, the context, the counter of the last save and a length
that IMGOBJ holds. -/
def HeaderFits (s : State) (ctx : Nat) (h : List Byte) : Prop :=
  bytesNat h 0 4 = 0x43475843 ∧ bytesNat h 4 2 = 1 ∧ bytesNat h 6 1 = ctx ∧ bytesNat h 8 8 = (s.ctx ctx).saveCtr.toNat ∧
    64 + bytesNat h 16 8 ≤ s.objectSize ctx (s.ctx ctx).imgObj.toNat

/-- A context comes back from an image (R299). -/
def Restored (s : State) (ctx : Nat) (image : SavedImage) : Prop :=
  ∃ u : State, exec (.contextRestore ctx) s = .next u ∧
      (u.ctx ctx).state = .running ∧ (u.ctx ctx).fail = 0 ∧ (u.ctx ctx).saved = none ∧ (u.ctx ctx).clocks = none ∧
      u.teams = s.teams ∧
      (∀ p ∈ image.rods, ∃ r ∈ u.dies[s.homeAgain ctx (imgStream p.2.image 0) p.1].rods,
        r.ctx = p.2.ctx ∧ r.number = p.2.number ∧ r.serial = p.2.serial ∧ r.image = p.2.image ∧ r.enabled = p.2.enabled ∧
        r.quota = p.2.quota ∧ r.drops = p.2.drops ∧ r.beads.length = p.2.beads.length) ∧
      ∀ x ∈ image.teams, ∃ l ∈ u.dies[x.team.die].queue ++ u.dies[x.team.die].overflow, ∃ y : SavedTeam,
        l.restored = some y ∧ l.serial = some x.team.serial ∧ y.team.waves = x.team.waves ∧ y.team.cores = x.team.cores ∧
        y.slices = x.slices ∧ y.items = x.items ∧ y.engines = x.engines

/-- R299: a restore refuses a header that does not fit with RESTORE_STALE, then an image whose tag does not hold with RESTORE_TAG; else
the context runs again, its rods stand in the Frames of their images' homes and each of its teams waits for the cores of its die. Where
the Frames have no room for the rods, beads and held events of the image (R20), it stays in STATE 4 until they have (log 69). -/
def Restores : Prop :=
  ∀ (s : State) (ctx : Nat) (image : SavedImage), ctx < 64 → s.phase = .running → (s.ctx ctx).saved = some image →
    (∀ h : List Byte, (s.ctx ctx).state = .saved → s.readObject ctx (s.ctx ctx).imgObj.toNat 1 0 64 = some h →
    (¬ HeaderFits s ctx h → exec (.contextRestore ctx) s = .next (s.setCtx ctx { s.ctx ctx with fail := 0xA2 })) ∧
    (HeaderFits s ctx h → s.tagHolds ctx image = false →
      exec (.contextRestore ctx) s = .next (s.setCtx ctx { s.ctx ctx with fail := 0xA3 })) ∧
    (HeaderFits s ctx h → s.tagHolds ctx image = true → s.restoreFits ctx image = false → exec (.contextRestore ctx) s =
      .next (s.setCtx ctx { s.ctx ctx with state := .restoring, fail := 0 })) ∧
    (HeaderFits s ctx h → s.tagHolds ctx image = true → s.restoreFits ctx image = true → Restored s ctx image)) ∧
    ((s.ctx ctx).state = .restoring →
      (s.restoreFits ctx image = false → exec (.contextRestore ctx) s =
        .next (s.setCtx ctx { s.ctx ctx with state := .restoring, fail := 0 })) ∧
      (s.restoreFits ctx image = true → Restored s ctx image))

/-- R299 and R130: tear down leaves no team, no rod, no queued launch, no version and no quorum register of the context, and discards its
hash key. R42, R130, R155, R264 and R293: a context that does not exist is created running, of weight 1, with 1 MiB of allowance and 65,536
cycles of PDEAD where it is not told otherwise, and with its fault stream, of 2^12 slots by default, as identity 1; no other context
changes. R303: a table of 2^23 entries is not made. -/
def ContextLife : Prop :=
  ∀ (s : State) (ctx : Nat), ctx < 64 → s.phase = .running →
    ((s.ctx ctx).state ≠ .none → ∃ u : State, exec (.contextTearDown ctx) s = .next u ∧
      (u.ctx ctx).state = .none ∧ (u.ctx ctx).keyDraw = 0 ∧
      (∀ t ∈ u.teams, t.ctx ≠ ctx) ∧ (∀ b ∈ u.barriers, b.ctx ≠ ctx) ∧
      ∀ d : Fin 4, (∀ r ∈ u.dies[d].rods, r.ctx ≠ ctx) ∧ (∀ l ∈ u.dies[d].queue ++ u.dies[d].overflow, l.ctx ≠ ctx) ∧
        (∀ q ∈ u.dies[d].quorums, q.ctx ≠ ctx) ∧ ∀ c ∈ u.dies[d].collectives, c.ctx ≠ ctx) ∧
    ∀ x : CtxSpec, (s.ctx ctx).state = .none →
      (2 ^ 23 ≤ x.tableLen → exec (.contextCreation ctx x) s = .next s) ∧
      (6 ≤ x.logn.getD 12 → x.logn.getD 12 ≤ 20 → 2 ≤ x.tableLen → x.tableLen < 2 ^ 23 → ∃ u : State, exec (.contextCreation ctx x) s = .next u ∧ (u.ctx ctx).state = .running ∧ (u.ctx ctx).weight = 1 ∧
        (u.ctx ctx).streams = [1] ∧ (u.ctx ctx).tableBase = x.tableBase ∧ (u.ctx ctx).tableLen = x.tableLen ∧
        (u.ctx ctx).keyDraw = s.free + 1 ∧ (u.ctx ctx).allowT = x.allowT.getD 0x100000 ∧ (u.ctx ctx).pdead = x.pdead.getD 65536 ∧
        (u.ctx ctx).service = x.service ∧ (u.ctx ctx).saveCtr = (s.ctx ctx).saveCtr ∧ u.teams = s.teams ∧
        ∀ e : Nat, e ≠ ctx → u.ctx e = s.ctx e)

/-- Free identities of a context from 2 up, the lowest first (R426). -/
def FreeIds (s : State) (ctx : Nat) (ids : List Nat) : Prop :=
  ids.Pairwise (fun i j => i < j) ∧ (∀ i ∈ ids, 2 ≤ i ∧ i < (s.ctx ctx).tableLen ∧ s.entry ctx i = none) ∧
  ∀ n : Nat, 2 ≤ n → s.entry ctx n = none → (∃ i ∈ ids, n < i) → n ∈ ids

/-- A declared object and its stream keep to Tables 7.4 and 9.3 and to R181 and R183, and it lies in the memory its tier and home name. -/
def DeclFits (o : ObjDecl) : Prop :=
  (∀ t : StreamDecl, o.stream = some t → 64 + 64 * 2 ^ t.logn ≤ o.size ∧ t.kind ≤ 2 ∧ 1 ≤ t.logn ∧
    t.logn ≤ (if t.kind = 1 then 8 else 20) ∧ ¬ (t.kind = 0 ∧ t.stamped = true) ∧ t.events.length ≤ 2 ^ t.logn) ∧
  ∀ a : Nat, a = o.page * 65536 ∨ a = o.page * 65536 + (o.size - 1) →
    homeOf a = some (if o.lp6 = true then .lp6 else .die o.home)

/-- `a` is no byte of an object's content or leaves (R426, Table 7.5). -/
def ApartFrom (a page size leafPa : Nat) : Prop :=
  (a < page * 65536 ∨ page * 65536 + size ≤ a) ∧ (a < leafPa ∨ leafPa + 16 * (size / (256 * 65536) + 1) ≤ a)

/-- R17, R61, R72, R73, R240 and R426: a code object that names a pair, or a coordinate in its text, a die has no relocation for is refused
whole, and so are one with too few free identities and one with a declaration that does not fit. One without automata is installed: its
code object takes the lowest free identity from 2 up, each declared object the next, its text is the same on every die, and its streams
are streams of the context. In a table of the LP6 tier apart from what the objects hold, each declared object has its entry.
What is refused beyond a pair or a coordinate is the model's reading (log 73). -/
def CodeLoads : Prop :=
  ∀ (s : State) (ctx : Nat) (f : FlashImage) (c : CodeImage), ctx < 64 → s.config = some f → s.phase = .running →
    (s.ctx ctx).state = .running →
    let refused := exec (.codeObjectLoad ctx c) s = .next s
    ((∃ p ∈ c.pairs, ∃ d : Fin 4, relocated f d p.1 = none) → refused) ∧
    ((∃ d : Fin 4, relocAll f d c.text c.relocs = none) → refused) ∧
    ((∀ ids : List Nat, FreeIds s ctx ids → ids.length < c.objects.length + 1) → refused) ∧
    ((∃ o ∈ c.objects, ¬ DeclFits o) → refused) ∧
    ∀ (id : Nat) (ids : List Nat), FreeIds s ctx (id :: ids) → ids.length = c.objects.length →
      c.relocs = [] → c.pairs = [] → c.automata = [] → (∀ k ∈ c.kernels, kernelOk c.text k = true) →
      (∀ o ∈ c.objects, DeclFits o ∧ ∀ p ∈ o.data, p.2.2 = []) →
      (∀ a : Nat, a = c.page * 65536 ∨ a = c.page * 65536 + (c.text.length - 1) → homeOf a = some (.die 0)) →
      ∃ (u : State) (x : CodeObject), exec (.codeObjectLoad ctx c) s = .next u ∧
        (u.ctx ctx).code = (s.ctx ctx).code ++ [x] ∧ x.texts = Vector.replicate 4 c.text ∧ x.obj = id ∧
        x.safe.map Prod.fst = c.kernels.map (fun k => k.entry) ∧ u.teams = s.teams ∧
        (u.ctx ctx).streams =
          (s.ctx ctx).streams ++ ((ids.zip c.objects).filter fun p => p.2.stream.isSome).map Prod.fst ∧
        (∀ e : Nat, e ≠ ctx → u.ctx e = s.ctx e) ∧
        (s.phys.wf = true → (∀ k ∈ s.cores, k.l1 = []) → (∀ d : Fin 4, s.dies[d].l2 = L2.empty) →
          (s.ctx ctx).tableBase % 32 = 0 → (s.ctx ctx).tableLen < 2 ^ 23 →
          (∀ a : Nat, (s.ctx ctx).tableBase ≤ a → a < (s.ctx ctx).tableBase + 32 * (s.ctx ctx).tableLen →
            homeOf a = some .lp6 ∧ ApartFrom a c.page c.text.length c.leafPa ∧
            ∀ o ∈ c.objects, ApartFrom a o.page o.size o.leafPa) →
          ∀ (j i : Nat) (o : ObjDecl), ids[j]? = some i → c.objects[j]? = some o → o.size < 2 ^ 40 →
            (∀ p ∈ o.data, p.1 + p.2.1.length ≤ o.size) →
            (∀ q ∈ c.objects, ∀ p ∈ q.data, p.1 + p.2.1.length ≤ q.size) →
            ∃ e : Entry, u.entry ctx i = some e ∧ e.size = o.size ∧ e.home = o.home ∧ e.alias_ = o.alias_ ∧
              e.tent = o.tent ∧ e.pub = o.pub ∧ e.cgen = 1 ∧ e.mgen = 0 ∧
              ∀ n < 5, e.rights.testBit n = (n = 0 ∨ n = 3 ∨ (n = 1 ∨ n = 2) ∧ (o.ro = false ∨ o.stream.isSome = true) ∨
                n = 4 ∧ o.tent = true : Bool))

/-- An engine command of a context that is off its core: of a team that a debugger has taken off, of one that waits to be placed again, or
in the context's image. -/
def AwayCommand (s : State) (ctx : Nat) (e : EngineCmd) : Prop :=
  let of := fun (x : SavedTeam) => ∃ n : Nat, (n, e) ∈ x.engines
  (∃ x : SavedTeam, (s.ctx ctx).dbg.swapped = some x ∧ of x) ∨
  (∃ (d : Fin 4) (l : Launch) (x : SavedTeam), l ∈ s.dies[d].queue ++ s.dies[d].overflow ∧ l.restored = some x ∧ of x) ∨
  ∃ i : SavedImage, (s.ctx ctx).saved = some i ∧ ((∃ x ∈ i.teams, of x) ∨
    (∃ l ∈ i.launches, ∃ x : SavedTeam, l.2.restored = some x ∧ of x) ∨ ∃ (d : Fin 4) (n : Nat), (d, n, e) ∈ i.orphans)

/-- R157 to R159: a write of OINVREQ, with no shoot-down under way, raises MGEN, under REVOKE CGEN too, or at its last value clears VALID,
takes the object out of every core's L1 and buffer, and BUSY stands; it waits while a store of the context to the object is queued. A
shoot-down with nothing on its way, no queued store, no record of a POST and no engine command, is acknowledged: BUSY clears, or the OINV
that asked receives the generations, and no L1 and no buffer holds anything of the object. -/
def ShootDowns : Prop :=
  ∀ (s : State) (ctx : Nat), ctx < 64 →
    (∀ (revoke : Bool) (obj : BitVec 24) (e : Entry), s.phase = .running → (s.ctx ctx).shoot = [] →
      s.entry ctx obj.toNat = some e → (s.ctx ctx).tableBase % 32 = 0 → QuietHome s (s.entryPa ctx obj.toNat) →
      ∃ u : State, exec (.oinvreq ctx revoke obj) s = .next u ∧
        u.ctx ctx = { s.ctx ctx with
          oinvObj := obj, busy := true, shoot := [⟨obj.toNat, revoke, none, true, none⟩]
          dbg := (u.ctx ctx).dbg, saved := (u.ctx ctx).saved } ∧
        (revoke = false ∨ (s.ctx ctx).dbg.swapped = none ∧ (s.ctx ctx).saved = none →
          (u.ctx ctx).dbg = (s.ctx ctx).dbg ∧ (u.ctx ctx).saved = (s.ctx ctx).saved) ∧
        (∀ c ∈ u.cores, ∀ x ∈ c.otb, ¬ (x.dom = (if e.pub then 0 else ctx + 1) ∧ x.obj = obj.toNat)) ∧
        u.entry ctx obj.toNat =
          (if revoke = true ∧ e.cgen = 0xFFFF then none
           else some { e with
            mgen := (e.mgen + 1) % 2 ^ 16, cgen := if revoke then e.cgen + 1 else e.cgen }) ∧
        u.teams = s.teams) ∧
    (∀ d : ShootDown, (s.ctx ctx).shoot = [d] → (∃ t ∈ s.teams, t.ctx = ctx ∧ ∃ w ∈ t.waves, ∃ q ∈ w.stores, q.obj = d.obj) →
      exec (.shootDownAck ctx) s = .next s) ∧
    ∀ d : ShootDown, (s.ctx ctx).shoot = [d] → d.raised = true → d.result = none →
      (∀ t ∈ s.teams, t.ctx = ctx → ∀ w ∈ t.waves, ∀ q ∈ w.stores, q.obj ≠ d.obj) →
      (∀ x : Fin 4, ∀ r ∈ s.dies[x].records, ¬ (r.posted = true ∧ r.ctx = ctx ∧ r.obj = d.obj)) →
      (∀ c ∈ s.cores, ∀ e ∈ c.engines, e.ctx ≠ ctx) → (∀ e : EngineCmd, AwayCommand s ctx e → e.ctx ≠ ctx) →
      ∃ u : State, exec (.shootDownAck ctx) s = .next u ∧
        (d.asker = none → u.ctx ctx = { s.ctx ctx with shoot := [], busy := false }) ∧
        (∀ e : Entry, d.asker ≠ none → s.entry ctx d.obj = some e → u.ctx ctx = { s.ctx ctx with
          shoot := [{ d with result := some (BitVec.ofNat 64 (e.cgen + e.mgen * 2 ^ 16)) }], busy := false }) ∧
        (∀ c ∈ u.cores, (∀ x ∈ c.l1, ¬ ((x.dom = ctx + 1 ∨ x.dom = 0) ∧ x.obj = d.obj)) ∧
          ∀ x ∈ c.otb, ¬ ((x.dom = ctx + 1 ∨ x.dom = 0) ∧ x.obj = d.obj)) ∧
        (∀ e : Nat, e ≠ ctx → u.ctx e = s.ctx e) ∧ u.teams = s.teams

end Sys2Proof.Claims

/-- R47, R48, R50, R159, R270, R281, R283 and R292: the steps of waves that no instruction of theirs takes.
When a stopped wave's stores are performed is the model's reading (log 45). -/
def Obligations.WaveSteps : Prop :=
  Sys2Proof.Claims.MarkerEnds ∧ Sys2Proof.Claims.ServiceEntries ∧ Sys2Proof.Claims.Retirement ∧ Sys2Proof.Claims.Replays ∧
    Sys2Proof.Claims.Kills

/-- R17, R42, R130, R155, R157 to R159, R293, R294, R296, R299 and R426: the life of a context, from its creation through code objects,
shoot-downs, saves and restores to its tear down. The size and bytes of an image are free values; the tag check, restore, tear down and
loader beyond the words of these rules are the model's reading (logs 28, 29, 33 to 35, 51, 59, 69, 73). -/
def Obligations.ContextSteps : Prop :=
  Sys2Proof.Claims.SaveBegins ∧ Sys2Proof.Claims.ForcedSaves ∧ Sys2Proof.Claims.SaveEnds ∧ Sys2Proof.Claims.Restores ∧
    Sys2Proof.Claims.ContextLife ∧ Sys2Proof.Claims.CodeLoads ∧ Sys2Proof.Claims.ShootDowns

namespace Sys2Proof.Claims

open Sys2Proof.Machine

/-! ### The sequencer -/

/-- The machine after the sequencer of a core has worked: a team changed, the core's queue changed, counters counted, and nothing else. -/
def SeqStep (s u : State) (die : Fin 4) (core i : Nat) (t' : Team) (queue : List SeqItem) : Prop :=
  { u with cores := s.cores, teams := s.teams } = s ∧ u.teams = s.teams.set i t' ∧
    u.core die core = { s.core die core with queue := queue, counters := (u.core die core).counters } ∧
    ∀ (d : Fin 4) (n : Nat), ¬ (d = die ∧ n = core) →
      u.core d n = { s.core d n with counters := (u.core d n).counters }

/-- No wave of a team has a park that waits for its results (R53). -/
def NoneDue (t : Team) : Prop :=
  ∀ w ∈ t.waves, ∀ (j : Fin 4) (m : Mask) (o c g p a : Nat), w.park ≠ some (.due j m o c g p a)

/-- What a team holds on every core is as it was but for some bytes of a tile memory of one. -/
def TilesOnly (t t' : Team) (core : Nat) (changed : Nat → Prop) : Prop :=
  (∀ n : Nat, n ≠ core → t'.onCore n = t.onCore n) ∧ (t'.onCore core).scratch = (t.onCore core).scratch ∧
    ∀ a : Nat, ¬ changed a → (t'.onCore core).tiles.read a = (t.onCore core).tiles.read a

/-- R227, R229, R230 and R234: the pass at the head of a core's queue, an unpaired one, leaves the queue. Each of its M rows from ROW0 on
holds in every column the sums of that row's and column's chunks, with the old word where it accumulates; no other byte of a tile, no
register and no poison changes. Where its checksums fail twice the tile stays as it was and is poisoned with the PC. R233: a mismatch on
either array of a pair reruns the pass on both, and each half that fails again poisons its own tile. -/
def PassRuns : Prop :=
  (∀ (s : State) (die : Fin 4) (core i : Nat) (q : SeqItem) (t : Team) (bad1 bad2 fol1 fol2 : Bool),
    s.seqHead die core = some (q, i, t) → q.op < 3 → q.paired = false → (∃ c ∈ t.cores, c.core = core) → NoneDue t →
    let m := bitsOf q.desc.toNat 8 6 + 1
    let row0 := bitsOf q.desc.toNat 16 6
    row0 + m ≤ 64 → (t.onCore core).tiles.wf = true →
    let failed := bad1 = true ∧ bad2 = true ∧ bitsOf q.word.toNat 25 1 = 0
    ∃ (u : State) (t' : Team), exec (.matrixPass die core bad1 bad2 (fol1, fol2)) s = .next u ∧
      SeqStep s u die core i t' ((s.core die core).queue.drop 1) ∧
      (failed → { t' with poison := t.poison } = t ∧ (⟨core, q.tile, q.pc⟩ : Poison) ∈ t'.poison) ∧
      (¬ failed → t'.poison = t.poison ∧
        (∀ (j : Nat) (w : Wave), t.waves[j]? = some w → ∃ w' : Wave, t'.waves[j]? = some w' ∧
          { w' with flags := w.flags } = w) ∧
        TilesOnly t t' core (fun a => 16384 * q.tile + 256 * row0 ≤ a ∧ a < 16384 * q.tile + 256 * (row0 + m)) ∧
        ∀ r < m, ∀ j < 64, (t'.onCore core).word q.tile (row0 + r) j =
          (accumulateChunks (bitsOf q.word.toNat 10 2) (depthK q.op q.word.toNat / 4)
            ((q.rows (t.onCore core)).1.getD r #[]) 4 (q.column (s.core die core).slices j)
            (if q.accumulate then (t.onCore core).word q.tile (row0 + r) j else 0, MatExc.none)).1 % 2 ^ 32)) ∧
  ∀ (s : State) (die : Fin 4) (core other i : Nat) (q : SeqItem) (t : Team) (bad1 fol1 : Bool),
    s.seqHead die core = some (q, i, t) → q.op < 3 → q.paired = true → t.follower = some other → other ≠ core → NoneDue t →
    bad1 = true ∨ fol1 = true → bitsOf q.word.toNat 25 1 = 0 →
    ∃ (u : State) (t' : Team), exec (.matrixPass die core bad1 true (fol1, true)) s = .next u ∧
      SeqStep s u die core i t' ((s.core die core).queue.drop 1) ∧ { t' with poison := t.poison } = t ∧
      (⟨core, q.tile, q.pc⟩ : Poison) ∈ t'.poison ∧ (⟨other, q.tile, q.pc⟩ : Poison) ∈ t'.poison

/-- R236, R320 and R321: ACLR at the head of a queue makes every byte of its tile 0 and takes its poison away. ALD, in a format of one word an
element, widens into the elements of its row group that lie in active lanes. AST narrows the row group into the active lanes of its
registers. No other byte of a tile and no other register changes. -/
def AccumulatorRuns : Prop :=
  ∀ (s : State) (die : Fin 4) (core i : Nat) (q : SeqItem) (t : Team),
    s.seqHead die core = some (q, i, t) → (∃ c ∈ t.cores, c.core = core) → (t.onCore core).tiles.wf = true → NoneDue t →
    (q.op = 4 → ∃ (u : State) (t' : Team), exec (.accumulatorExecute die core) s = .next u ∧
      SeqStep s u die core i t' ((s.core die core).queue.drop 1) ∧ t'.waves = t.waves ∧
      TilesOnly t t' core (fun a => 16384 * q.tile ≤ a ∧ a < 16384 * (q.tile + 1)) ∧
      (∀ a : Nat, 16384 * q.tile ≤ a → a < 16384 * (q.tile + 1) → (t'.onCore core).tiles.read a = 0) ∧
      ∀ p : Poison, p ∈ t'.poison ↔ p ∈ t.poison ∧ ¬ (p.core = core ∧ p.tile = q.tile)) ∧
    (q.op = 5 → q.fmt ≠ 0 → q.rg < 8 → ∃ (u : State) (t' : Team), exec (.accumulatorExecute die core) s = .next u ∧
      SeqStep s u die core i t' ((s.core die core).queue.drop 1) ∧ t'.waves = t.waves ∧ t'.poison = t.poison ∧
      TilesOnly t t' core (fun a => 16384 * q.tile + 2048 * q.rg ≤ a ∧ a < 16384 * q.tile + 2048 * (q.rg + 1)) ∧
      ∀ n < 512, (t'.onCore core).word q.tile (8 * q.rg + n / 64) (n % 64) =
        if q.mask.getLsbD (n * fmtBits q.fmt % 1024 / 32) = true then
          widen q.fmt (bitsOf q.image (n * fmtBits q.fmt) (fmtBits q.fmt)) % 2 ^ 32
        else (t.onCore core).word q.tile (8 * q.rg + n / 64) (n % 64)) ∧
    (q.op = 6 → q.vreg + rowGroupRegs q.fmt ≤ 64 →
      ∃ (u : State) (t' : Team), exec (.accumulatorExecute die core) s = .next u ∧
        SeqStep s u die core i t' ((s.core die core).queue.drop 1) ∧ t'.cores = t.cores ∧ t'.poison = t.poison ∧
        ∀ (j : Nat) (w : Wave), t.waves[j]? = some w → ∃ w' : Wave, t'.waves[j]? = some w' ∧
          { w' with flags := w.flags, v := w.v } = w ∧ (w.number.val ≠ q.wave → w' = w) ∧
          (w.number.val = q.wave → ∀ (n : Fin 64) (L : Fin 32), w'.v[n][L] =
            if q.vreg ≤ n.val ∧ n.val < q.vreg + rowGroupRegs q.fmt ∧ q.mask.getLsbD L.val = true then
              BitVec.ofNat 32 (q.astWord (t.onCore core) (n.val - q.vreg) L.val).1
            else w.v[n][L]))

/-- R250, R254 and R257: a digit step of the unpaired MMAX at the head of a queue fixes its exponents, adds its products to Z and moves its
position by one, with the team as it was; the last step takes the MMAX off the queue, and of the tiles only the words of its rows have
changed. One whose checksums fail twice ends with its tiles as they were, poisoned. -/
def DigitSteps : Prop :=
  ∀ (s : State) (die : Fin 4) (core i : Nat) (q : SeqItem) (t : Team) (bad1 bad2 : Bool),
    s.seqHead die core = some (q, i, t) → q.op = 3 → q.paired = false → (∃ c ∈ t.cores, c.core = core) → NoneDue t →
    let m := bitsOf q.desc.toNat 8 6 + 1
    let row0 := bitsOf q.desc.toNat 16 6
    row0 + m ≤ 64 → s.teams[i]? = some t →
    let failed := bad1 = true ∧ bad2 = true ∧ bitsOf q.word.toNat 25 1 = 0
    let steps := (mmaxSteps (bitsOf q.word.toNat 20 4)).length
    ∃ (u : State) (t' : Team), exec (.mmaxStep die core bad1 bad2) s = .next u ∧
      (failed → SeqStep s u die core i t' ((s.core die core).queue.drop 1) ∧ { t' with poison := t.poison } = t ∧
        (⟨core, q.tile, q.pc⟩ : Poison) ∈ t'.poison) ∧
      (¬ failed → q.step + 1 < steps → t' = t ∧ ∃ q' : SeqItem,
        SeqStep s u die core i t' (q' :: (s.core die core).queue.drop 1) ∧ q'.step = q.step + 1 ∧ q'.fixed = true ∧
        (q.fixed = true → q'.eexp = q.eexp ∧ q'.fexp = q.fexp) ∧
        { q' with step := q.step, fixed := q.fixed, eexp := q.eexp, fexp := q.fexp, z := q.z } = q) ∧
      (¬ failed → steps ≤ q.step + 1 → SeqStep s u die core i t' ((s.core die core).queue.drop 1) ∧ t'.poison = t.poison ∧
        TilesOnly t t' core (fun a => ∃ k ≤ 1, (k = 1 → bitsOf q.word.toNat 10 2 = 1) ∧
          16384 * (q.tile + k) + 256 * row0 ≤ a ∧ a < 16384 * (q.tile + k) + 256 * (row0 + m)))

/-! ### Streams and the Frame -/

/-- The 64 bytes of a record as they stand once its position is published: LAP in bytes 14 and 15 (R180). -/
def publishedRecord (bytes : List Byte) (logn p : Nat) : List Byte :=
  bytes.take 14 ++ leBytes 2 (p / 2 ^ logn % 65535 + 1) ++ bytes.drop 16

/-- What a translation gives, whatever a write leaves in the sector of an address. -/
def Steady (s : State) (pa : Nat) (f : State → Option Nat) (slot : Nat) : Prop :=
  ∀ s' : State, s'.contexts = s.contexts → s'.free = s.free → (∀ a : Nat, a / 256 ≠ pa / 256 → s'.peekSector a = s.peekSector a) →
    f s' = some slot

/-- R187 and R191: the first waiting record of a POST is written into the slot of its position and published, in a stream that is no
bitmap. R155: a record the G9 posts itself waits while its ring is full; with room, in the LP6 tier, it takes the position at TAIL
and is published there. R163 and R174: neither is written before an earlier publication of its wave or, of a completion event, of its team's
waves. -/
def RecordWrites : Prop :=
  ∀ (s : State) (die : Fin 4) (r : PendingRecord) (rs : List PendingRecord) (pa slot : Nat),
    s.dies[die].records = r :: rs → s.objectPa r.ctx r.obj 0 = some pa → (s.peekSector pa).2 = false →
    (s.ctx r.ctx).shoot = [] → r.bytes.length = 64 → pa % 256 = 0 → slot % 64 = 0 →
    let cfg := s.peekNat (pa + 24) 8
    let tail := s.peekNat pa 8
    let head := s.peekNat (pa + 8) 8
    let n := bitsOf cfg 36 5
    let follows := ∃ d : Fin 4, ∃ q ∈ s.dies[d].records, r.after q = true
    (follows → exec (.postRecordWrite die 0) s = .next s ∧ exec (.systemEventWrite die 0) s = .next s) ∧
    (¬ follows →
    (∀ p : Nat, r.posted = true → r.pos = some p → bitsOf cfg 41 2 ≠ 1 →
      r.slot = 64 + 64 * (p % 2 ^ n) → s.objectPa r.ctx r.obj r.slot = some slot → QuietHome s slot →
      ∃ u : State, exec (.postRecordWrite die 0) s = .next u ∧ u.dies[die].records = rs ∧
        Stored s u slot (publishedRecord r.bytes n p) ∧ u.teams = s.teams ∧ u.contexts = s.contexts) ∧
    (r.posted = false → r.pos = none → bitsOf cfg 63 1 = 1 → 2 ^ n ≤ tail - head →
      exec (.systemEventWrite die 0) s = .next s) ∧
    (r.posted = false → r.pos = none → bitsOf cfg 63 1 = 1 → tail - head < 2 ^ n → bitsOf cfg 41 2 ≠ 1 →
      Steady s pa (fun s' => s'.objectPa r.ctx r.obj (64 + 64 * (tail % 2 ^ n))) slot → slot / 64 ≠ pa / 64 →
      s.phys.wf = true → (∀ c ∈ s.cores, c.l1 = []) → homeOf pa = some .lp6 → homeOf slot = some .lp6 →
      ∃ u m : State, exec (.systemEventWrite die 0) s = .next u ∧ u.dies[die].records = rs ∧
        Stored s m pa (leBytes 8 (tail + 1)) ∧ Stored m u slot (publishedRecord r.bytes n tail) ∧ u.teams = s.teams))

/-- R191 and R192: the next position of an attached stream of no bitmap, in the LP6 tier and read by no rod, is ingested: INGEST and HEAD move
past it. It is refused, and REFUSED counted, for a depth past MAXD, a system kind in a stream without SYS or a stamp that goes back; else
its stamp is the last one accepted. -/
def Ingestion : Prop :=
  ∀ (s : State) (die : Fin 4) (ctx obj pa slot : Nat) (b : Block), s.ingestable die ctx obj = some (pa, b, slot) →
    bitsOf b.cfg 41 2 ≠ 1 → (∀ d : Fin 4, s.dies[d].held = []) → (∀ r ∈ s.dies[die].rods, r.ctx ≠ ctx) → s.phys.wf = true →
    (∀ c ∈ s.cores, c.l1 = []) → homeOf pa = some .lp6 → pa % 256 = 0 →
    let bytes := s.peekBytes slot 64
    let kind := bytesNat bytes 0 1
    let depth := bytesNat bytes 1 1 % 8
    let stamp := bytesNat bytes 8 6
    let stamped := bitsOf b.cfg 43 1 = 1
    let refused := bitsOf b.cfg 45 3 < depth ∨ (0xE0 ≤ kind ∧ bitsOf b.cfg 35 1 = 0) ∨
      (stamped ∧ ∃ l, s.lastStamp die ctx obj = some l ∧ stamp < l)
    ∃ u : State, exec (.ingestionStep die ctx obj) s = .next u ∧
      u.peekNat (pa + 16) 8 = b.ingest + 1 ∧ u.peekNat (pa + 8) 8 = b.ingest + 1 ∧
      (∀ a : Nat, a < pa + 8 ∨ pa + 32 ≤ a → u.peek a = s.peek a) ∧
      u.peekNat (pa + 24) 8 % 2 ^ 48 = b.cfg % 2 ^ 48 ∧ bitsOf (u.peekNat (pa + 24) 8) 63 1 = bitsOf b.cfg 63 1 ∧
      (refused → bitsOf (u.peekNat (pa + 24) 8) 48 15 = min (bitsOf b.cfg 48 15 + 1) 0x7FFF ∧
        u.lastStamp die ctx obj = s.lastStamp die ctx obj) ∧
      (¬ refused → u.peekNat (pa + 24) 8 = b.cfg ∧
        u.lastStamp die ctx obj = some (if bitsOf b.cfg 43 1 = 1 then stamp else s.dies[die].ticks)) ∧
      u.teams = s.teams ∧ u.contexts = s.contexts

/-- R206: of the one rod of a Frame with one bead that has nothing bound, the first timeout that is due fires, at its due stamp: the bead goes
to the transition's state with the clocks of its mask reset, dies, or is accepted as a launch. -/
def Timeouts : Prop :=
  ∀ (s : State) (die : Fin 4) (r : Rod) (b : Bead) (due : Int) (e : Edge), s.dies[die].rods = [r] → r.beads = [b] →
    b.bound = Vector.replicate 4 none → r.enabled = true → (s.ctx r.ctx).state = .running → r.stamped = false →
    r.firstTimeout r.back = some (due, 0, e) → due ≤ (s.dies[die].ticks : Int) →
    let leaves := fun (bs : List Bead) (ls : List Launch) => exec (.timeout die r.ctx r.number) s =
      .next (s.setDie die { s.dies[die] with
        rods := [{ r with beads := bs }], accepted := s.dies[die].accepted ++ ls })
    (e.act = 0 → ∃ b' : Bead, leaves [b'] [] ∧ b'.state = e.dst ∧ b'.key = b.key ∧ b'.bound = b.bound ∧
      ∀ c : Fin 4, b'.marks[c] =
        if e.reset.testBit c.val then due / ((2 ^ imgUnit r.image c.val : Nat) : Int) else b.marks[c]) ∧
    (e.act = 1 → leaves [] []) ∧
    (e.act = 2 → ∃ l : Launch, leaves [] [l] ∧ l.ctx = r.ctx ∧ l.frame = die ∧ l.record = slice r.image 1088 128 ∧
      l.events = Vector.replicate 4 none ∧ l.depth = 0)

/-- R39, R42, R208 and R425: with no record held back, the oldest accepted launch of a running context leaves its Frame: one whose registers
or footprint pass the limits is refused; one for its own die, of no gang and no member event, joins that die's queue with the die's next
team serial. Where records are held back, the oldest enters a queue that has room. -/
def Launches : Prop :=
  ∀ (s : State) (die : Fin 4) (l : Launch) (ls : List Launch),
    (s.refillDie = none → s.launchHeld die = false → s.dies[die].accepted = l :: ls → (s.ctx l.ctx).state = .running →
      l.frame = die → l.held = [] →
      (recVregs l.record = 0 ∨ 64 < recVregs l.record ∨ 96 < recUnits l.record (recLeaderWaves l.record) →
        exec (.launch die) s = .next (s.setDie die { s.dies[die] with accepted := ls })) ∧
      (s.refusesLaunch l = false → l.memberEvent = none → l.gangSize ≤ 1 → recHome l.record = 0 →
        s.dies[die].queue.length < 4096 → s.dies[die].overflow = [] → s.serialHeld die s.dies[die].teamCounter = false →
        ∃ l' : Launch, exec (.launch die) s = .next (s.setDie die { s.dies[die] with
          accepted := ls, queue := s.dies[die].queue ++ [l'], teamCounter := s.dies[die].teamCounter + 1 }) ∧
          { l' with caps := l.caps, serial := l.serial } = l ∧ l'.serial = some s.dies[die].teamCounter)) ∧
    ∀ d : Fin 4, s.refillDie = some d → s.dies[d].overflow = l :: ls → exec (.launch die) s =
      .next (s.setDie d { s.dies[d] with queue := s.dies[d].queue ++ [l], overflow := ls })

/-- R40, R42, R209 and R211: the one queued record of a die, of an unpaired team of no gang, is placed on the lowest core whose free state
covers it, in free slots of the quarters that follow the lowest base quarter that serves every wave: its waves start in one split at the
entry, with k1 to k4 bound and every other register zero. -/
def Placement : Prop :=
  ∀ (s : State) (die : Fin 4) (l : Launch) (n : W32) (f : FlashImage), s.dies[die].queue = [l] → l.ctx < 64 →
    (s.ctx l.ctx).weight ≠ 0 → (s.ctx l.ctx).state = .running → s.dies[die].credits = [] → l.gangSize ≤ 1 →
    l.restored = none → recPaired l.record = false → s.config = some f → l.serial = some n →
    (s.ctx l.ctx).dbg.trace.getLsbD 31 = false → recLanes l.record ≤ 1024 →
    let fits := fun (core : Nat) => s.coreFits die core l.record (recWaves l.record) = true ∧
      ∃ b < 4, s.slotsFrom die core b 0 (recWaves l.record) [] ≠ none
    (∃ core < 144, fits core) →
    ∃ (u : State) (t : Team), exec (.teamPlacement die) s = .next u ∧ u.teams = s.teams ++ [t] ∧ u.dies[die].queue = [] ∧
      t.die = die ∧ t.serial = n ∧ t.ctx = l.ctx ∧ t.follower = none ∧ t.leader < 144 ∧ fits t.leader ∧
      (∀ c < t.leader, ¬ fits c) ∧ t.waves.length = recWaves l.record ∧
      (∃ b < 4, (∀ w ∈ t.waves, w.quarter.val = (b + w.number.val) % 4) ∧
        ∀ a < b, s.slotsFrom die t.leader a 0 (recWaves l.record) [] = none) ∧
      ∀ w ∈ t.waves, w.core = t.leader ∧ w.status = .running ∧ w.s = Vector.replicate 64 0 ∧
        w.v = Vector.replicate 64 (Vector.replicate 32 0) ∧ w.m = Vector.replicate 8 0 ∧
        (∀ k : Fin 16, w.k[k] = if 1 ≤ k.val ∧ k.val ≤ 4 then l.caps.toList.getD (k.val - 1) 0 else 0) ∧
        (∃ sp : Split, w.splits = (Vector.replicate 4 none).set 0 (some sp) ∧ sp.status = .ready ∧
          sp.pc = BitVec.ofNat 48 (recEntry l.record) ∧
          sp.mask = lowLanes (min 32 (recLanes l.record - 32 * w.number.val))) ∧
        ∀ o ∈ s.coreWaves die t.leader, ¬ (o.quarter = w.quarter ∧ o.wslot = w.wslot)

/-- R267: an arrival of a bound member before the deadline, short of kreq, is counted, ends the binding and answers ACCEPTED, which ends
the waiting QARR, whatever the wave does meanwhile (R386). R268 and R269: a due deadline releases the quorum, SHORT from FLOOR arrivals up and FAILED below, at the due stamp: with
members bound the register drains until they are killed, with none it is FREE at once under the next serial. -/
def Quorums : Prop :=
  (∀ (s : State) (team wave : Nat) (slot : Fin 4) (t : Team) (w : Wave) (sp : Split) (h : W32) (i : Nat) (q : Quorum),
    s.waveAt ⟨team, wave, slot⟩ = some (t, w) → w.splits[slot] = some sp → sp.status = .waiting (.quorumAnswer false) →
    t.member = some (h, i) → s.quorum t.ctx h = some q → (i, t.die.val, t.serial) ∈ q.bound → q.state = .opened →
    (s.ctx t.ctx).clocks = none →
    (s.dies[handleDie h].ticks : Int) < q.due →
    let arrived := q.arrived ||| BitVec.ofNat 64 (2 ^ i)
    arrived.cpop.toNat ≠ descKreq q.desc →
    ∃ (u : State) (q' : Quorum), exec (.quorumArrival team wave slot) s = .next u ∧ u.quorum t.ctx h = some q' ∧
      q' = { q with arrived := arrived, bound := q'.bound } ∧ (∀ b ∈ q'.bound, b ∈ q.bound ∧ b.1 ≠ i) ∧
      u.teams = (s.setWaveAt ⟨team, wave, slot⟩ { w with
        splits := w.splits.set slot (some { sp with pc := sp.pc + 4, only := none, status := .ready }) }).teams) ∧
  ∀ (s : State) (die : Fin 4) (num : Nat) (q : Quorum), s.quorumReg die num = some q → (s.ctx q.ctx).state = .running →
    q.state = .opened → q.due ≤ (s.dies[die].ticks : Int) → s.dies[die].held.length < 16384 →
    ∃ u : State, exec (.quorumDeadline die num) s = .next u ∧
      (q.bound = [] → u.quorumReg die num = none ∧ (num, q.serial + 1) ∈ u.dies[die].serials) ∧
      (q.bound ≠ [] → ∃ q' : Quorum, u.quorumReg die num = some q' ∧ q'.state = .drain ∧ q'.killing = q.bound ∧
        q'.arrived = q.arrived ∧ q'.stamp = q.due.toNat ∧
        q'.status = if descFloor q.desc ≤ q.arrived.cpop.toNat then 2 else 3)

/-! ### The debugger and the register window -/

/-- R312 to R314: a stop command of an attached debugger marks its target team; a stopping team all of whose live splits are held is
swapped out once its work has ended, with the block STOPPED; a resume of the target team with an image as it was queues it first on its
die, one that is not sets FAIL. -/
def DebugStops : Prop :=
  (∀ (s : State) (ctx i : Nat) (t : Team),
    let c := s.ctx ctx
    ctx < 64 → s.findTeam (Fin.ofNat 4 c.dbg.die.toNat) c.dbg.team = some (i, t) → s.phase = .running → c.dbg.attach = true →
    c.dbg.state = .none → t.ctx = ctx → t.halt = .none → t.killed = false →
    exec (.debugStop ctx) s = .next ((s.setTeam i { t with halt := .stopping 0 none 0 false }).setCtx ctx { c with
      dbg := { c.dbg with state := .stopping, cause := 0, skid := 0, ord := 0xFFFF } })) ∧
  (∀ (s : State) (i : Nat) (t : Team) (cause : BitVec 8) (hit : Option (Nat × Fin 4)) (skid : Nat), s.teams[i]? = some t →
    t.halt = .stopping cause hit skid false → t.killed = false → t.ctx < 64 →
    (∀ c ∈ s.cores, (c.die = t.die → ∀ q ∈ c.queue, q.team ≠ t.serial) ∧
      ∀ e ∈ c.engines, ¬ (e.die = t.die ∧ e.team = t.serial)) →
    (∀ w ∈ t.waves, w.traceobj.getLsbD 31 = false ∧ w.park = none ∧ w.stores = [] ∧ (w.status ≠ .running ∨
      (w.yielded = false ∧ w.svc = none ∧ w.splits ≠ Vector.replicate 4 none ∧
        ∀ (j : Fin 4) (sp : Split), w.splits[j] = some sp → sp.status = .held))) →
    ∃ (u : State) (x : SavedTeam), exec (.debugStopComplete i) s = .next u ∧ u.teams = s.teams.eraseIdx i ∧
      (u.ctx t.ctx).dbg.state = .stopped ∧ (u.ctx t.ctx).dbg.cause = cause ∧
      (u.ctx t.ctx).dbg.skid = BitVec.ofNat 32 skid ∧ (u.ctx t.ctx).dbg.swapped = some x ∧ x.team.serial = t.serial ∧
      x.team.halt = .none ∧ x.team.cores = t.cores ∧
      x.team.waves = t.waves.map fun w => { w with
        splits := w.splits.map fun o => o.map fun sp => if sp.status = .held then { sp with status := .ready } else sp }) ∧
  ∀ (s : State) (ctx : Nat) (x : SavedTeam) (edits : List DebugEdit),
    let c := s.ctx ctx
    let target := c.dbg.die.toNat = x.team.die.val ∧ c.dbg.team = x.team.serial
    ctx < 64 → c.dbg.swapped = some x → s.phase = .running → c.state = .running → c.dbg.state = .stopped →
    (¬ target → ∀ intact : Bool, exec (.debugResume ctx intact edits) s = .next s) ∧
    (target → exec (.debugResume ctx false edits) s = .next (s.setCtx ctx { c with dbg := { c.dbg with fail := true } })) ∧
    (target → s.dies[x.team.die].queue.length < 4096 → ∃ (u : State) (l : Launch), exec (.debugResume ctx true []) s = .next u ∧
      (u.ctx ctx).dbg = { c.dbg with fail := false, state := .resuming } ∧
      u.dies[x.team.die].queue = l :: s.dies[x.team.die].queue ∧ l.restored = some x ∧ l.ctx = x.team.ctx ∧
      l.serial = some x.team.serial ∧ u.teams = s.teams)

/-- The lengths of the records of a dump, in order (R316): the team's, one for each wave, one for each unit. -/
def dumpLengths (t : Team) : List Nat :=
  256 :: List.replicate t.waves.length (1024 + 128 * t.vregs) ++ List.replicate (t.cores.length * (t.scru + t.accu)) 16400

/-- How many records from an offset up fit into `n` bytes, each whole, up to the first that does not (R317). -/
def fitting (n : Nat) : Nat → List Nat → Nat
  | _, [] => 0
  | off, l :: ls => if off + l ≤ n then fitting n (off + l) ls + 1 else 0

/-- R316 and R317: a dump of the stopped target team into an object of the LP6 tier. Its header says DUMP, DONE, TRUNC where a record is
left out, NEED, RECORDS, WRITTEN, the team, the context, the cause and the ordinal; of the records that fit, each scratchpad and accumulator
unit stands behind its 16 bytes; no other byte of memory changes. A command for another team than the one stopped does nothing. -/
def Dumps : Prop :=
  ∀ (s : State) (ctx n : Nat) (at_ : Nat → Nat) (x : SavedTeam) (w : Wave) (ws : List Wave),
    let c := s.ctx ctx
    let t := x.team
    let obj := w.dumpobj.toNat % 2 ^ 24
    let ls := dumpLengths t
    let written := fitting n 64 ls
    let units := 64 + 256 + t.waves.length * (1024 + 128 * t.vregs)
    let target := c.dbg.die.toNat = t.die.val ∧ c.dbg.team = t.serial
    s.phase = .running → c.dbg.state = .stopped → c.dbg.swapped = some x → t.waves = w :: ws →
    (¬ target → exec (.debugDump ctx) s = .next s) ∧
    (target → s.phys.wf = true → (∀ k ∈ s.cores, k.l1 = []) → t.ctx < 64 → 64 ≤ n → Backed s t.ctx obj n at_ →
    SteadyIn s (fun a => ∃ b < n, a = at_ b) (fun s' => s'.objectSize t.ctx obj) n →
    ∃ u : State, exec (.debugDump ctx) s = .next u ∧
      (List.range 64).map (fun b => u.peek (at_ b)) =
        leBytes 4 0x504D5544 ++ leBytes 4 (if written < ls.length then 3 else 1) ++ leBytes 8 (64 + ls.sum) ++
          leBytes 4 ls.length ++ leBytes 4 written ++ leBytes 4 t.serial.toNat ++ leBytes 1 t.ctx ++
          leBytes 1 c.dbg.cause.toNat ++ leBytes 2 c.dbg.ord.toNat ++ List.replicate 32 0 ∧
      (∀ (j : Nat) (k : TeamCore), t.cores[j]? = some k →
        (∀ g < t.scru, 1 + t.waves.length + (j * t.scru + g) < written → ∀ b < 16384,
          u.peek (at_ (units + 16400 * (j * t.scru + g) + 16 + b)) = k.scratch.read (16384 * g + b)) ∧
        ∀ g < t.accu, 1 + t.waves.length + t.cores.length * t.scru + (j * t.accu + g) < written → ∀ b < 16384,
          u.peek (at_ (units + 16400 * (t.cores.length * t.scru + (j * t.accu + g)) + 16 + b)) =
            k.tiles.read (16384 * g + b)) ∧
      (∀ a : Nat, (∀ b < n, a ≠ at_ b) → u.peek a = s.peek a) ∧ u.teams = s.teams ∧ u.contexts = s.contexts)

/-- R302, R306, R309, R313 and R315: a write of the register window before PHASE 2 changes nothing; from then on it sets the writable fields of
its register and nothing else, an unassigned offset, a sampling period outside 10 to 24 and a selector of an L2 sum with OWN = 1 being
ignored. R8, R27, R299, R302 and R309: a read gives the fields of Tables 1.6, 14.11 and 15.2, and zero for a write-only register and at an
unassigned offset. The offsets from 0x100000 up are the model's own (log 71). -/
def RegisterWindow : Prop :=
  ∀ (s : State) (v : W64),
    (∀ offset : Nat,
      (s.phase ≠ .running → exec (.registerWrite offset v) s = .next s) ∧
      (s.phase = .running → offset < 0x4000 ∨ 0xA000 ≤ offset ∧ offset < 0x100000 ∨ offset % 8 ≠ 0 →
        exec (.registerWrite offset v) s = .next s)) ∧
    (s.phase = .running → ∀ c < 64,
      exec (.registerWrite (0x4008 + 32 * c) v) s = .next (s.setCtx c { s.ctx c with imgObj := v.extractLsb' 0 24 }) ∧
      (∀ dbg : Debug, dbg = (s.ctx c).dbg →
        ((s.ctx c).debuggable = true → exec (.registerWrite (0x5000 + 64 * c) v) s =
          .next (s.setCtx c { s.ctx c with dbg := { dbg with attach := v.getLsbD 0 } })) ∧
        exec (.registerWrite (0x5008 + 64 * c) v) s = .next (s.setCtx c { s.ctx c with
          dbg := { dbg with team := v.extractLsb' 0 32, die := v.extractLsb' 32 2 } }) ∧
        exec (.registerWrite (0x5030 + 64 * c) v) s =
          .next (s.setCtx c { s.ctx c with dbg := { dbg with swapObj := v.extractLsb' 0 24 } })) ∧
      ∀ (n : Fin 16) (w : Watch), w = (s.ctx c).watch[n] →
        exec (.registerWrite (0x6000 + 256 * c + 16 * n.val) v) s = .next (s.setCtx c { s.ctx c with
          watch := (s.ctx c).watch.set n { w with
            en := v.getLsbD 27, atomic := v.getLsbD 26, write := v.getLsbD 25, read := v.getLsbD 24
            obj := v.extractLsb' 0 24 } }) ∧
        exec (.registerWrite (0x6008 + 256 * c + 16 * n.val) v) s = .next (s.setCtx c { s.ctx c with
          watch := (s.ctx c).watch.set n { w with len8 := v.extractLsb' 40 8, offset8 := v.extractLsb' 3 37 } })) ∧
    (let code := match s.phase with | .reset => 0 | .verifying => 1 | .running => 2 | .failed => 3
      s.windowRead 0x0010 = code + s.fail.toNat * 2 ^ 8 + s.cfgver.toNat * 2 ^ 16) ∧
    s.windowRead 0x0020 = s.module.toNat + (if s.joined = true then 2 ^ 31 else 0) ∧
    s.windowRead 0x31000 = s.samp.period.toNat + (if s.samp.en = true then 2 ^ 5 else 0) ∧
    (∀ c < 64, s.windowRead (0x3000 + 8 * c) = 0 ∧ s.windowRead (0x4000 + 32 * c) = 0 ∧ s.windowRead (0x5010 + 64 * c) = 0 ∧
      s.windowRead (0x4008 + 32 * c) = (s.ctx c).imgObj.toNat ∧ s.windowRead (0x4018 + 32 * c) = (s.ctx c).saveCtr.toNat) ∧
    (∀ offset : Nat, offset < 0x2000 → offset ≠ 0x10 → offset ≠ 0x20 → s.windowRead offset = 0) ∧
    (∀ offset : Nat, 0x31008 ≤ offset → s.windowRead offset = 0) ∧
    (∀ (d : Fin 4) (core : Nat) (j : Fin 8), core < 144 → ((s.core d core).cntsel[j].src.toNat < 0x40) →
      s.windowRead (0x10000 + 0x2400 * d.val + 64 * core + 8 * j.val) = ((s.core d core).counters[j]).toNat) ∧
    (s.phase ≠ .running ∨ (v.extractLsb' 0 5).toNat < 10 ∨ 24 < (v.extractLsb' 0 5).toNat →
      exec (.sampctlWrite v) s = .next s) ∧
    (s.phase = .running → 10 ≤ (v.extractLsb' 0 5).toNat → (v.extractLsb' 0 5).toNat ≤ 24 →
      exec (.sampctlWrite v) s = .next { s with samp := ⟨v.getLsbD 5, v.extractLsb' 0 5⟩ }) ∧
    ∀ (die : Fin 4) (core : Nat) (j : Fin 8), core < 144 →
      let sum := 0x40 ≤ (v.extractLsb' 0 8).toNat ∧ (v.extractLsb' 0 8).toNat ≤ 0x46 ∧ v.getLsbD 16 = true
      (s.phase ≠ .running ∨ sum → exec (.cntselWrite die core j v) s = .next s) ∧
      let sel : CntSel := ⟨v.getLsbD 23, v.extractLsb' 17 6, v.getLsbD 16, v.extractLsb' 0 8⟩
      let c := s.core die core
      (s.phase = .running → ¬ sum → exec (.cntselWrite die core j v) s =
        .next (s.setCore { c with cntsel := c.cntsel.set j sel }))

/-- R308: a sample of a quarter takes its next resident wave in ascending slot order, and the next sample goes on behind it; a wave
without a trace object leaves no record. -/
def Samples : Prop :=
  ∀ (s : State) (die : Fin 4) (core : Nat) (quarter : Fin 4) (k : Fin 16), s.samp.en = true →
    let c := s.core die core
    let ws := s.quarterWaves die core quarter
    (∀ p ∈ ws, p.2.traceobj.getLsbD 31 = false) → (∃ p ∈ ws, p.2.wslot = c.samplePos[quarter] + k) →
    (∀ j : Fin 16, j < k → ∀ p ∈ ws, p.2.wslot ≠ c.samplePos[quarter] + j) →
    exec (.pcSample die core quarter) s = .next (s.setCore { c with
      samplePos := c.samplePos.set quarter (c.samplePos[quarter] + k + 1) })

end Sys2Proof.Claims

/-- R227, R229, R230, R234, R236, R250, R254, R320 and R321: the steps of a core's sequencer. What a result is, is the model's reading
of R113 and R229, which these statements take from `accumulateChunks`, `widen` and `astWord`; that a pass that fails twice leaves its
tile as it was is the model's own choice, as is that an ALD raises no flag (logs 25, 76). -/
def Obligations.MatrixSteps : Prop :=
  Sys2Proof.Claims.PassRuns ∧ Sys2Proof.Claims.AccumulatorRuns ∧ Sys2Proof.Claims.DigitSteps

/-- R39, R40, R42, R155, R187, R191, R192, R206, R208, R209, R211 and R267 to R269: the steps of streams, Frames and dispatchers. Rod
and gang order, the slot a wave takes, references to held entries and the count of timeouts are the model's reading, and so is what
waits or counts where the rules are silent (logs 19 to 21, 27, 37, 60, 67, 68, 78). -/
def Obligations.FrameSteps : Prop :=
  Sys2Proof.Claims.RecordWrites ∧ Sys2Proof.Claims.Ingestion ∧ Sys2Proof.Claims.Timeouts ∧ Sys2Proof.Claims.Launches ∧
    Sys2Proof.Claims.Placement ∧ Sys2Proof.Claims.Quorums

/-- R302, R306, R308, R309 and R312 to R317: what a debugger, a dump, the sampler and the register window do. Stops, dumps, samples,
watches and counters beyond the words of these rules are the model's reading (logs 30 to 32, 41, 44, 70, 71, 75). -/
def Obligations.DebugSteps : Prop :=
  Sys2Proof.Claims.DebugStops ∧ Sys2Proof.Claims.Dumps ∧ Sys2Proof.Claims.RegisterWindow ∧ Sys2Proof.Claims.Samples

namespace Sys2Proof.Claims

open Sys2Proof.Machine

/-! ### Decoding and the step -/

/-- What a step makes of the instruction or step it performs: counter source 2 counts an instruction issued for the first time. -/
def stepOf (i : Instr) (s : State) (at_ : Option IssuedAt) : Host.Outcome State Fault Refusal :=
  match exec i s with
  | .next u => .next (u.issued at_)
  | .fault f => .fault f
  | .refused r => .refused r

/-! ### Invariants -/

/-- R27: FAIL is non-zero exactly in PHASE 3, and CFGVER is 0 until PHASE 2. -/
def BootOk (s : State) : Prop := (s.fail ≠ 0 ↔ s.phase = .failed) ∧ (s.phase ≠ .running → s.cfgver = 0)

/-- The scratchpad and the tiles of a team stand in canonical form. -/
def TeamMemOk (t : Team) : Prop := ∀ c ∈ t.cores, c.scratch.wf = true ∧ c.tiles.wf = true

/-- The memories of a team off its cores. -/
def SavedMemOk (x : SavedTeam) : Prop := TeamMemOk x.team ∧ ∀ m ∈ x.slices, m.wf = true

/-- Every memory of the module stands in its canonical form, wherever it is kept. -/
def MemoriesOk (s : State) : Prop :=
  Safety.MemoryOk s ∧ (∀ c ∈ s.cores, c.slices.wf = true) ∧ (∀ t ∈ s.teams, TeamMemOk t) ∧
    (∀ (d : Fin 4) (l : Launch) (x : SavedTeam), l ∈ s.dies[d].queue ++ s.dies[d].overflow ++ s.dies[d].accepted →
      l.restored = some x → SavedMemOk x) ∧
    ∀ (c : Fin 64) (x : SavedTeam), (s.contexts[c].dbg.swapped = some x → SavedMemOk x) ∧
      ∀ i : SavedImage, s.contexts[c].saved = some i →
        (x ∈ i.teams → SavedMemOk x) ∧
        ∀ l : Fin 4 × Launch, l ∈ i.launches ++ i.accepted → l.2.restored = some x → SavedMemOk x

end Sys2Proof.Claims

/-- R76, R79 and Tables 4.1 to 4.11: words written out from the encoding tables decode to the instructions they stand for. -/
def Obligations.DecodedWords : Prop :=
  -- VADD i32: T 0 [31:29], M m1 [28:26], B v3 [25:20], A v2 [19:14], D v1 [13:8], major 0x01 [7:2], bit 0 = 1
  Sys2Proof.decodeTableWord 32 0b000_001_000011_000010_000001_000001_0_1 = some (.vadd .i32 1 3 2 1 false) ∧
  -- SADD with the marker: 0 [31:26], B s3, A s2, D s1, major 0x1C
  Sys2Proof.decodeTableWord 32 0b000000_000011_000010_000001_011100_1_1 = some (.sadd 3 2 1 true) ∧
  -- JOIN: major 0x27, sub-operation 1
  Sys2Proof.decodeTableWord 32 0x0000019D = some (.join false) ∧
  -- LD.sys relaxed b32, scaled, X v5 [23:18], K k2 [17:14], D v9 [13:8], major 0x29
  Sys2Proof.decodeTableWord 32 0b101_0_010_1_000101_0010_001001_101001_0_1 = some (.ld .sys false .b32 true 5 2 9 false) ∧
  -- MMA accumulating, unpaired, format word v4 [26:21], descriptor s6 [20:15], row group 3 [14:12], tile a2 [11:8], major 0x35
  Sys2Proof.decodeTableWord 32 0b000_1_0_000100_000110_011_0010_110101_0_1 = some (.mma true false 4 6 3 2 false) ∧
  -- the 16-bit VADD: B v7 [15:11], D v2 [10:6], op 0 [5:2], bit 0 = 0
  Sys2Proof.decodeTableWord 16 0b00111_00010_0000_0_0 = some (.vaddH 7 2 false) ∧
  -- the parcel 0x0000 and major 0x00 are no instruction
  Sys2Proof.decodeTableWord 16 0 = none ∧ Sys2Proof.decodeTableWord 32 1 = none

/-- Tables 4.1 to 4.11, R76 and R79: the bytes of every well-formed instruction that has an encoding decode to it again, with every field at every
value the encoding admits, and the bytes after them are left over. -/
def Obligations.DecodeInvertsEncode : Prop :=
  ∀ (i : Sys2Proof.Instr) (n w : Nat) (rest : List Sys2Proof.Byte), i.wellFormed = true → Sys2Proof.encode i = some (n, w) →
    Sys2Proof.decodeBytes (Sys2Proof.leBytes n w ++ rest) = some (.ok i, rest) ∧
    Sys2Proof.decodeTableWord (8 * n) w = some i ∧ w < 2 ^ (8 * n) ∧ (n = 2 ∨ n = 4)

/-- R76, R77, R282 and R284: where the next move issues a split, with no debugger that bars or holds it and no REP under way, and the bytes at its
PC decode to an instruction, in service mode one of the service subset, the step is that instruction's effect, on the state that time and
the count of the issue leave, at that split; a new instruction for a matrix sequencer that is busy does not issue, and nothing but time
passes (R44, R230). A step asked for is performed itself.
Which move comes next, and the time that passes, are the model's free values (log 1). -/
def Obligations.StepRunsDecoded : Prop :=
  ∀ (s : Sys2Proof.Machine.State) (ms : List Sys2Proof.Machine.Move),
    let r : Sys2Proof.Machine.State := { s.pass with moves := ms }
    (∀ i : Sys2Proof.Instr, s.moves = .event i :: ms → Sys2Proof.Machine.step s = Sys2Proof.Claims.stepOf i r none) ∧
    ∀ (c : Sys2Proof.Machine.Cursor) (x : Sys2Proof.Machine.Iss) (i : Sys2Proof.Instr) (rest : List Sys2Proof.Byte),
      s.moves = .issue c :: ms → r.debugBars c = false → r.holdsAt c = none →
      let t : Sys2Proof.Machine.State := { (if (r.newIssue c).isSome then r.countIssue c else r) with cur := c }
      Sys2Proof.Machine.checkout t = some x → x.inService = true ∨ x.sp.repActive = false →
      Sys2Proof.decodeBytes (x.text.drop x.pc.toNat) = some (.ok i, rest) →
      (x.inService = true →
        Sys2Proof.Machine.serviceWord (Sys2Proof.leNat ((x.text.drop x.pc.toNat).take 4)) = true) →
      let busy := (r.newIssue c).isSome = true ∧ r.unitBusy c i = true
      (busy → Sys2Proof.Machine.step s = .next r) ∧
      (¬ busy → Sys2Proof.Machine.step s = Sys2Proof.Claims.stepOf i t (r.newIssue c))

/-- R25, R27, R302, R306, R309, R313 and R315: right after module reset nothing runs: PHASE, FAIL and CFGVER are 0, the module has joined no pod,
sampling is off at period 16, no context exists, every debug block and watch register is 0, and no team, no core with work, no rod, no
quorum and no collective is there. The invariants of R27 and of the memories hold.
That memory lists nothing and so reads 0, and the values of fields to which the spec gives none, are the model's choice (logs 2, 3). -/
def Obligations.ResetState : Prop :=
  let s := Sys2Proof.Machine.State.reset
  s.phase = .reset ∧ s.fail = 0 ∧ s.cfgver = 0 ∧ s.joined = false ∧ s.samp = ⟨false, 16⟩ ∧ s.teams = [] ∧ s.cores = [] ∧
    s.barriers = [] ∧ (∀ a : Nat, s.phys.read a = 0) ∧
    (∀ c : Fin 64, s.contexts[c].state = .none ∧ s.contexts[c].dbg = Sys2Proof.Machine.Debug.zero ∧
      ∀ n : Fin 16, s.contexts[c].watch[n] = ⟨false, false, false, false, 0, 0, 0⟩) ∧
    (∀ d : Fin 4, s.dies[d].rods = [] ∧ s.dies[d].quorums = [] ∧ s.dies[d].queue = [] ∧ s.dies[d].collectives = [] ∧
      s.dies[d].l2 = Sys2Proof.Machine.L2.empty) ∧
    Sys2Proof.Claims.BootOk s ∧ Sys2Proof.Claims.MemoriesOk s

/-- R27, an invariant of every step: FAIL is non-zero exactly in PHASE 3, and CFGVER is 0 until PHASE 2. -/
def Obligations.BootInvariant : Prop :=
  ∀ s t : Sys2Proof.Machine.State, Sys2Proof.Claims.BootOk s → Sys2Proof.Machine.step s = .next t →
    Sys2Proof.Claims.BootOk t

/-- The canonical form of memory (the model's own, log 2) is an invariant of every step: of physical memory, of every core's B slices and of
every team's scratchpads and tiles, on its cores or off them. Statements about stored bytes have it as a premise. -/
def Obligations.MemoryInvariant : Prop :=
  ∀ s t : Sys2Proof.Machine.State, Sys2Proof.Claims.MemoriesOk s → Sys2Proof.Machine.step s = .next t →
    Sys2Proof.Claims.MemoriesOk t
end

