-- ==== Sys2Proof/Laws/Encoding.lean ====
section
/-! SUPPORT. What the two forms of an encoded instruction have in common. -/

namespace Sys2Proof

/-- Fields from bit 2 up leave bits 0 and 1 alone. -/
theorem place_mod_four (fs : List (Nat × Nat)) (h : ∀ f ∈ fs, 2 ≤ f.2) : place fs % 4 = 0 := by
  induction fs with
  | nil => rfl
  | cons f fs ih =>
    obtain ⟨v, lo⟩ := f
    have hlo : 2 ≤ lo := h (v, lo) List.mem_cons_self
    have hfs := ih fun g hg => h g (List.mem_cons_of_mem _ hg)
    have hp : 2 ^ lo = 4 * 2 ^ (lo - 2) := by
      rw [show (4 : Nat) = 2 ^ 2 from rfl, ← Nat.pow_add]; congr 1; omega
    rw [place, hp, Nat.mul_left_comm]
    omega

/-- A word from the encoding functions: its length, its bit 0 and its bit 1. -/
theorem parcels_word32 {mk : Bool} (major : Nat) (fs : List (Nat × Nat)) (n w : Nat) (hf : ∀ f ∈ fs, 2 ≤ f.2)
    (h : word32 major mk fs = some (n, w)) : (n = 2 ∨ n = 4) ∧ instrBytes w = n ∧ (mk = true → w / 2 % 2 = 1) := by
  have hp := place_mod_four fs hf
  simp only [word32, head32, Option.some.injEq, Prod.mk.injEq] at h
  obtain ⟨rfl, rfl⟩ := h
  refine ⟨.inr rfl, if_neg (by omega), ?_⟩
  cases mk <;> simp [bit] <;> omega

/-- A 16-bit parcel: its length, its bit 0 and its bit 1. -/
theorem parcels_word16 {mk : Bool} (op : Nat) (d b : Fin 32) (n w : Nat) (h : word16 op mk d b = some (n, w)) :
    (n = 2 ∨ n = 4) ∧ instrBytes w = n ∧ (mk = true → w / 2 % 2 = 1) := by
  have hp := place_mod_four [(d.val, 6), (b.val, 11)] (by simp)
  simp only [word16, head16, Option.some.injEq, Prod.mk.injEq] at h
  obtain ⟨rfl, rfl⟩ := h
  refine ⟨.inl rfl, if_pos (by omega), ?_⟩
  cases mk <;> simp [bit] <;> omega

end Sys2Proof
end

