-- ==== Sys2Proof/Laws/Memory.lean ====
section
/-! SUPPORT. The laws of byte memories: every operation keeps the canonical form, a read after a write gives the bytes written,
and every other byte stays. -/

namespace Sys2Proof.Machine

/-! ## Cells -/

theorem cellsOk_cons (lo : Option Nat) (a : Nat) (b : Byte) (cs : List Host.Cell) :
    cellsOk lo ((a, b) :: cs) = true ↔ (∀ l, lo = some l → l < a) ∧ b ≠ 0 ∧ cellsOk (some a) cs = true := by
  cases lo <;> simp [cellsOk, Bool.and_eq_true, and_assoc]

theorem cellsOk_mono {lo : Option Nat} {a : Nat} {cs : List Host.Cell} (h : cellsOk (some a) cs = true)
    (hlo : ∀ l, lo = some l → l ≤ a) : cellsOk lo cs = true := by
  cases cs with
  | nil => rfl
  | cons c cs =>
    obtain ⟨b, v⟩ := c
    rw [cellsOk_cons] at h ⊢
    exact ⟨fun l hl => Nat.lt_of_le_of_lt (hlo l hl) (h.1 a rfl), h.2⟩

/-- Below the first listed address every byte is 0. -/
theorem lookupCell_below {cs : List Host.Cell} {l a : Nat} (h : cellsOk (some l) cs = true) (ha : a ≤ l) :
    lookupCell cs a = 0 := by
  induction cs generalizing l with
  | nil => rfl
  | cons c cs ih =>
    obtain ⟨b, v⟩ := c
    rw [cellsOk_cons] at h
    have hb := h.1 l rfl
    rw [lookupCell, if_neg (by omega)]
    exact ih h.2.2 (by omega)

theorem cellsOk_putCell {cs : List Host.Cell} {lo : Option Nat} {a : Nat} (v : Byte) (h : cellsOk lo cs = true)
    (ha : ∀ l, lo = some l → l < a) : cellsOk lo (putCell cs a v) = true := by
  induction cs generalizing lo with
  | nil =>
    by_cases hv : v = 0
    · simp [putCell, hv, cellsOk]
    · simp only [putCell, if_neg hv]
      exact (cellsOk_cons ..).2 ⟨ha, hv, rfl⟩
  | cons c cs ih =>
    obtain ⟨b, w⟩ := c
    have h' := (cellsOk_cons ..).1 h
    unfold putCell
    by_cases hab : a < b
    · rw [if_pos hab]
      by_cases hv : v = 0
      · rw [if_pos hv]; exact h
      · rw [if_neg hv]
        exact (cellsOk_cons ..).2 ⟨ha, hv, (cellsOk_cons ..).2 ⟨by intro l hl; cases hl; exact hab, h'.2⟩⟩
    · rw [if_neg hab]
      by_cases he : a = b
      · rw [if_pos he]
        by_cases hv : v = 0
        · rw [if_pos hv]; exact cellsOk_mono h'.2.2 fun l hl => Nat.le_of_lt (h'.1 l hl)
        · rw [if_neg hv]; subst he; exact (cellsOk_cons ..).2 ⟨h'.1, hv, h'.2.2⟩
      · rw [if_neg he]
        refine (cellsOk_cons ..).2 ⟨h'.1, h'.2.1, ih h'.2.2 ?_⟩
        intro l hl; cases hl; omega

theorem lookupCell_putCell {cs : List Host.Cell} {lo : Option Nat} (a x : Nat) (v : Byte) (h : cellsOk lo cs = true) :
    lookupCell (putCell cs a v) x = if x = a then v else lookupCell cs x := by
  induction cs generalizing lo with
  | nil =>
    by_cases hv : v = 0
    · subst hv; by_cases hx : x = a <;> simp [putCell, lookupCell, hx]
    · simp only [putCell, if_neg hv, lookupCell]
  | cons c cs ih =>
    obtain ⟨b, w⟩ := c
    have h' := (cellsOk_cons ..).1 h
    unfold putCell
    by_cases hab : a < b
    · rw [if_pos hab]
      by_cases hv : v = 0
      · rw [if_pos hv]
        by_cases hx : x = a
        · subst hx
          rw [if_pos rfl, lookupCell, if_neg (by omega), lookupCell_below h'.2.2 (by omega), hv]
        · rw [if_neg hx]
      · rw [if_neg hv]; rfl
    · rw [if_neg hab]
      by_cases he : a = b
      · subst he
        rw [if_pos rfl]
        by_cases hv : v = 0
        · rw [if_pos hv]
          by_cases hx : x = a
          · subst hx; rw [if_pos rfl, lookupCell_below h'.2.2 (Nat.le_refl _), hv]
          · rw [if_neg hx]; simp [lookupCell, hx]
        · rw [if_neg hv]
          by_cases hx : x = a <;> simp [lookupCell, hx]
      · rw [if_neg he]
        by_cases hx : x = b
        · subst hx
          simp [lookupCell, Ne.symm he]
        · simp only [lookupCell, if_neg hx]
          exact ih h'.2.2

/-- Cells in canonical form that read alike are the same cells. -/
theorem cells_ext {cs ds : List Host.Cell} {lo : Option Nat} (hc : cellsOk lo cs = true) (hd : cellsOk lo ds = true)
    (h : ∀ a, lookupCell cs a = lookupCell ds a) : cs = ds := by
  induction cs generalizing lo ds with
  | nil =>
    cases ds with
    | nil => rfl
    | cons d ds =>
      obtain ⟨b, v⟩ := d
      have hb := h b
      simp [lookupCell] at hb
      exact absurd hb.symm ((cellsOk_cons ..).1 hd).2.1
  | cons c cs ih =>
    obtain ⟨a, v⟩ := c
    have hc' := (cellsOk_cons ..).1 hc
    cases ds with
    | nil =>
      have hb := h a
      simp [lookupCell] at hb
      exact absurd hb hc'.2.1
    | cons d ds =>
      obtain ⟨b, w⟩ := d
      have hd' := (cellsOk_cons ..).1 hd
      have hab : a = b := by
        apply Nat.le_antisymm
        · apply Nat.le_of_not_lt
          intro hlt
          have hb := h b
          rw [lookupCell, if_neg (by omega), lookupCell_below hc'.2.2 (by omega)] at hb
          simp [lookupCell] at hb
          exact hd'.2.1 hb.symm
        · apply Nat.le_of_not_lt
          intro hlt
          have hb := h a
          rw [lookupCell, if_pos rfl, lookupCell, if_neg (by omega), lookupCell_below hd'.2.2 (by omega)] at hb
          exact hc'.2.1 hb
      subst hab
      have hv : v = w := by
        have hb := h a
        simpa [lookupCell] using hb
      subst hv
      rw [ih hc'.2.2 hd'.2.2 fun x => ?_]
      by_cases hx : x ≤ a
      · rw [lookupCell_below hc'.2.2 hx, lookupCell_below hd'.2.2 hx]
      · have := h x
        rwa [lookupCell, if_neg (by omega), lookupCell, if_neg (by omega)] at this

/-! ## Memories -/

@[simp] theorem Memory.read_empty (a : Nat) : Memory.empty.read a = 0 := rfl

@[simp] theorem Memory.wf_empty : Memory.empty.wf = true := rfl

/-- A write keeps the canonical form. -/
theorem Memory.wf_write {m : Memory} (a : Nat) (v : Byte) (h : m.wf = true) : (m.write a v).wf = true :=
  cellsOk_putCell v h (by intro l hl; cases hl)

/-- A read after a write. -/
theorem Memory.read_write {m : Memory} (a x : Nat) (v : Byte) (h : m.wf = true) :
    (m.write a v).read x = if x = a then v else m.read x :=
  lookupCell_putCell a x v h

/-- Memories in canonical form that read alike are equal. -/
theorem Memory.ext_read {m n : Memory} (hm : m.wf = true) (hn : n.wf = true) (h : ∀ a, m.read a = n.read a) : m = n := by
  cases m; cases n; exact congrArg Memory.mk (cells_ext hm hn h)

/-- Bytes written keep the canonical form. -/
theorem Memory.wf_writeBytes {m : Memory} (a : Nat) (bs : List Byte) (h : m.wf = true) : (m.writeBytes a bs).wf = true := by
  induction bs generalizing m a with
  | nil => exact h
  | cons v vs ih => exact ih (a + 1) (Memory.wf_write a v h)

/-- A read after bytes are written: the byte written there, or the old one outside them. -/
theorem Memory.read_writeBytes {m : Memory} (a x : Nat) (bs : List Byte) (h : m.wf = true) :
    (m.writeBytes a bs).read x = if a ≤ x ∧ x < a + bs.length then bs.getD (x - a) 0 else m.read x := by
  induction bs generalizing m a with
  | nil =>
    rw [if_neg (by simp only [List.length_nil]; omega)]; rfl
  | cons v vs ih =>
    rw [Memory.writeBytes, ih (a + 1) (Memory.wf_write a v h), Memory.read_write a x v h, List.length_cons]
    by_cases hx : x = a
    · subst hx
      rw [if_neg (by omega), if_pos rfl, if_pos (by omega)]
      simp
    · by_cases hin : a + 1 ≤ x ∧ x < a + 1 + vs.length
      · rw [if_pos hin, if_pos (by omega), show x - a = (x - (a + 1)) + 1 by omega]
        simp
      · rw [if_neg hin, if_neg hx, if_neg (by omega)]

/-- Numbers written keep the canonical form. -/
theorem Memory.wf_writeNat {m : Memory} (a n v : Nat) (h : m.wf = true) : (m.writeNat a n v).wf = true :=
  Memory.wf_writeBytes a _ h

@[simp] theorem Memory.length_readBytes (m : Memory) (a n : Nat) : (m.readBytes a n).length = n := by
  induction n generalizing a with
  | zero => rfl
  | succ n ih => simp [Memory.readBytes, ih]

/-- A byte of bytes read. -/
theorem Memory.getElem_readBytes (m : Memory) (a n i : Nat) (h : i < (m.readBytes a n).length) :
    (m.readBytes a n)[i] = m.read (a + i) := by
  induction n generalizing a i with
  | zero => simp at h
  | succ n ih =>
    cases i with
    | zero => rfl
    | succ i =>
      have := ih (a + 1) i (by simpa [Memory.readBytes] using h)
      simp only [Memory.readBytes, List.getElem_cons_succ]
      rw [this, show a + 1 + i = a + (i + 1) by omega]

/-- Bytes read after the same bytes were written there. -/
theorem Memory.readBytes_writeBytes {m : Memory} (a : Nat) (bs : List Byte) (h : m.wf = true) :
    (m.writeBytes a bs).readBytes a bs.length = bs := by
  apply List.ext_getElem
  · simp
  · intro i h1 h2
    rw [Memory.getElem_readBytes, Memory.read_writeBytes a _ bs h, if_pos ⟨by omega, by omega⟩]
    simp [List.getD, h2]

/-! ## Byte strings -/

@[simp] theorem length_slice (bs : List Byte) (off n : Nat) : (slice bs off n).length = n := by
  simp only [slice, List.length_append, List.length_take, List.length_drop, List.length_replicate]
  omega

@[simp] theorem length_overlay (bs new : List Byte) (off : Nat) (h : off ≤ bs.length) :
    (overlay bs off new).length = bs.length := by
  simp only [overlay, List.length_append, List.length_take, List.length_drop]
  omega

@[simp] theorem length_zeros (n : Nat) : (zeros n).length = n := List.length_replicate

end Sys2Proof.Machine
end

