-- ==== Sys2Proof/Laws/Home.lean ====
section
/-! SUPPORT. What the operations of the L2 and of the homes do to physical memory: each keeps its canonical form. -/

namespace Sys2Proof.Machine

/-! ## One bank -/

theorem Bank.evictSector_phys_wf {b : Bank} (t : L2Tag) (sec : Fin 4) (h : b.phys.wf = true) :
    (b.evictSector t sec).phys.wf = true := by
  unfold Bank.evictSector
  dsimp only
  split
  · exact Memory.wf_writeBytes _ _ h
  · exact h

theorem Bank.evictSectors_phys_wf (t : L2Tag) (secs : List (Fin 4)) (b : Bank) (h : b.phys.wf = true) :
    (secs.foldl (fun acc sec => acc.evictSector t sec) b).phys.wf = true := by
  induction secs generalizing b with
  | nil => exact h
  | cons sec secs ih => exact ih _ (Bank.evictSector_phys_wf t sec h)

theorem Bank.evict_phys_wf {b : Bank} (line : Nat) (h : b.phys.wf = true) : (b.evict line).phys.wf = true := by
  unfold Bank.evict
  split
  · exact h
  · exact Bank.evictSectors_phys_wf _ _ b h

theorem Bank.newTag_phys_wf {b : Bank} (line dom : Nat) (h : b.phys.wf = true) : (b.newTag line dom).phys.wf = true := by
  unfold Bank.newTag
  dsimp only
  split
  · exact h
  · split
    · exact Bank.evict_phys_wf _ h
    · exact h

theorem Bank.withTag_phys_wf {b : Bank} (line dom : Nat) (h : b.phys.wf = true) : (b.withTag line dom).phys.wf = true := by
  unfold Bank.withTag
  split
  · split
    · exact h
    · exact Bank.newTag_phys_wf _ _ (Bank.evict_phys_wf _ h)
  · exact Bank.newTag_phys_wf _ _ h

theorem Bank.makeRoom_phys_wf (sl keep line fuel : Nat) (b : Bank) (h : b.phys.wf = true) :
    (b.makeRoom sl keep line fuel).phys.wf = true := by
  induction fuel generalizing b with
  | zero => exact h
  | succ fuel ih =>
    unfold Bank.makeRoom
    split
    · exact h
    · dsimp only
      split
      · exact ih _ (Bank.evict_phys_wf _ h)
      · split
        · exact ih _ (Bank.evict_phys_wf _ h)
        · exact h

theorem Bank.roomForFill_phys_wf {b : Bank} (line : Nat) (h : b.phys.wf = true) : (b.roomForFill line).phys.wf = true :=
  Bank.makeRoom_phys_wf _ _ _ _ b h

theorem Bank.roomForWrite_phys_wf {b : Bank} (line : Nat) (h : b.phys.wf = true) : (b.roomForWrite line).phys.wf = true :=
  Bank.makeRoom_phys_wf _ _ _ _ b h

theorem Bank.refill_phys_wf {b : Bank} (line : Nat) (h : b.phys.wf = true) : (b.refill line).phys.wf = true :=
  Bank.makeRoom_phys_wf _ _ _ _ b h

theorem Bank.uncached_phys_wf {b : Bank} (line : Nat) (sec : Fin 4) (c : List Byte) (dirty poison : Bool)
    (h : b.phys.wf = true) : (b.uncached line sec c dirty poison).phys.wf = true := by
  unfold Bank.uncached
  dsimp only
  split
  · exact Memory.wf_writeBytes _ _ h
  · exact h

theorem Bank.enterNew_phys_wf {b : Bank} (line : Nat) (sec : Fin 4) (c : List Byte) (dirty : Bool) (dom h' : Nat)
    (listed : Bool) (h : b.phys.wf = true) : (b.enterNew line sec c dirty dom h' listed).phys.wf = true := by
  have hr := Bank.roomForFill_phys_wf line h
  unfold Bank.enterNew
  dsimp only
  split
  · exact Bank.uncached_phys_wf _ _ _ _ _ hr
  · exact hr

theorem Bank.attempt_phys_wf {b : Bank} (key line : Nat) (sec : Fin 4) (c : List Byte) (dirty : Bool)
    (h : b.phys.wf = true) : (b.attempt key line sec c dirty).phys.wf = true := by
  unfold Bank.attempt
  dsimp only
  split
  · exact h
  · split
    · exact h
    · exact Bank.enterNew_phys_wf _ _ _ _ _ _ _ h

theorem Bank.fillBad_phys_wf {b : Bank} (line : Nat) (sec : Fin 4) (h : b.phys.wf = true) :
    (b.fillBad line sec).phys.wf = true := by
  unfold Bank.fillBad
  dsimp only
  split <;> exact Bank.roomForFill_phys_wf _ h

theorem Bank.fill_phys_wf {b : Bank} (key line dom : Nat) (sec : Fin 4) (h : b.phys.wf = true) :
    (b.fill key line dom sec).phys.wf = true := by
  unfold Bank.fill
  dsimp only
  have ht := Bank.withTag_phys_wf line dom h
  split
  · split
    · exact Bank.fillBad_phys_wf _ _ ht
    · exact Bank.attempt_phys_wf _ _ _ _ _ ht
  · exact ht
  · exact ht

theorem Bank.patchNew_phys_wf {b : Bank} (line : Nat) (sec : Fin 4) (c : List Byte) (poison unshare : Bool)
    (h : b.phys.wf = true) : (b.patchNew line sec c poison unshare).phys.wf = true := by
  have hr := Bank.roomForWrite_phys_wf line h
  unfold Bank.patchNew
  dsimp only
  split
  · exact Bank.uncached_phys_wf _ _ _ _ _ hr
  · exact Bank.refill_phys_wf _ hr

theorem Bank.patch_phys_wf {b : Bank} (key line dom : Nat) (sec : Fin 4) (f : List Byte → List Byte)
    (h : b.phys.wf = true) : (b.patch key line dom sec f).phys.wf = true := by
  have hf := Bank.fill_phys_wf key line dom sec h
  unfold Bank.patch
  dsimp only
  split
  · exact Memory.wf_writeBytes _ _ hf
  · exact Bank.patchNew_phys_wf _ _ _ _ _ hf
  · split
    · exact hf
    · split
      · exact Bank.patchNew_phys_wf _ _ _ _ _ hf
      · exact hf

/-! ## The module -/

theorem State.homeWhole_phys_wf {s : State} (pa dom : Nat) (data : List Byte) (h : s.phys.wf = true) :
    (s.homeWhole pa dom data).phys.wf = true := by
  unfold State.homeWhole
  split
  · exact Bank.attempt_phys_wf _ _ _ _ _ (Bank.withTag_phys_wf _ _ h)
  · exact Memory.wf_writeBytes _ _ h
  · exact h

theorem State.homePatch_phys_wf {s : State} (pa dom : Nat) (f : List Byte → List Byte) (h : s.phys.wf = true) :
    (s.homePatch pa dom f).phys.wf = true := by
  unfold State.homePatch
  split
  · exact Bank.patch_phys_wf _ _ _ _ _ h
  · exact Memory.wf_writeBytes _ _ h
  · exact h

theorem State.homeFill_phys_wf {s : State} (pa dom : Nat) (h : s.phys.wf = true) : (s.homeFill pa dom).phys.wf = true := by
  unfold State.homeFill
  split
  · exact Bank.fill_phys_wf _ _ _ _ h
  · exact h
  · exact h

theorem State.writebacks_phys_wf (xs : List L1Sector) (s : State) (h : s.phys.wf = true) :
    (xs.foldl (fun acc x => acc.homeWhole x.pa x.dom x.data) s).phys.wf = true := by
  induction xs generalizing s with
  | nil => exact h
  | cons x xs ih => exact ih _ (State.homeWhole_phys_wf _ _ _ h)

/-- Counting an event changes cores only. -/
@[simp] theorem State.count_phys (s : State) (die : Fin 4) (num src : Nat) (ctx : Option Nat) (n : Nat) :
    (s.count die num src ctx n).phys = s.phys := by
  unfold State.count
  split
  · unfold State.setCore
    split <;> rfl
  · rfl

theorem State.writeBackCore_phys_wf {s : State} (c : Core) (p : L1Sector → Bool) (h : s.phys.wf = true) :
    (s.writeBackCore c p).phys.wf = true := by
  unfold State.writeBackCore
  dsimp only
  split
  · exact h
  · rw [State.count_phys]; exact State.writebacks_phys_wf _ _ h

theorem State.writeBackAll_phys_wf {s : State} (p : Core → L1Sector → Bool) (h : s.phys.wf = true) :
    (s.writeBackAll p).phys.wf = true := by
  unfold State.writeBackAll
  generalize s.cores = cs
  induction cs generalizing s with
  | nil => exact h
  | cons c cs ih => exact ih (State.writeBackCore_phys_wf c _ h)

theorem State.dropL1_phys_wf {s : State} (p : Core → L1Sector → Bool) (h : s.phys.wf = true) :
    (s.dropL1 p).phys.wf = true := by
  unfold State.dropL1
  split
  · exact State.writeBackAll_phys_wf p h
  · exact h

theorem State.recall_phys_wf {s : State} (pa : Nat) (h : s.phys.wf = true) : (s.recall pa).phys.wf = true := by
  unfold State.recall
  split
  · exact State.writeBackAll_phys_wf _ h
  · exact h

theorem State.purge_phys_wf {s : State} (pa : Nat) (h : s.phys.wf = true) : (s.purge pa).phys.wf = true :=
  State.dropL1_phys_wf _ h

theorem State.pokeSector_phys_wf {s : State} (pa dom : Nat) (bs : List Byte) (h : s.phys.wf = true) :
    (s.pokeSector pa dom bs).phys.wf = true :=
  State.homePatch_phys_wf _ _ _ (State.purge_phys_wf pa h)

theorem State.poke_phys_wf (fuel pa dom : Nat) (bs : List Byte) (s : State) (h : s.phys.wf = true) :
    (s.poke pa dom bs fuel).phys.wf = true := by
  induction fuel generalizing s pa bs with
  | zero => exact h
  | succ fuel ih =>
    unfold State.poke
    split
    · exact h
    · exact ih _ _ _ (State.pokeSector_phys_wf _ _ _ h)

theorem State.pokeNat_phys_wf {s : State} (pa dom n v : Nat) (h : s.phys.wf = true) :
    (s.pokeNat pa dom n v).phys.wf = true :=
  State.poke_phys_wf _ _ _ _ s h

theorem State.pokeWhole_phys_wf {s : State} (pa dom : Nat) (data : List Byte) (h : s.phys.wf = true) :
    (s.pokeWhole pa dom data).phys.wf = true :=
  State.homeWhole_phys_wf _ _ _ (State.purge_phys_wf pa h)

end Sys2Proof.Machine
end

