-- ==== Sys2Proof/Laws/State.lean ====
section
/-! SUPPORT. One lemma per field per update: what an update of the state, of a team or of the issuing split leaves of every field.
Later proofs cite these and unfold no record update. -/

namespace Sys2Proof.Machine

/-! ## A team replaced -/

@[simp] theorem State.setTeam_phase (s : State) (i : Nat) (t : Team) : (s.setTeam i t).phase = s.phase := rfl
@[simp] theorem State.setTeam_fail (s : State) (i : Nat) (t : Team) : (s.setTeam i t).fail = s.fail := rfl
@[simp] theorem State.setTeam_cfgver (s : State) (i : Nat) (t : Team) : (s.setTeam i t).cfgver = s.cfgver := rfl
@[simp] theorem State.setTeam_minver (s : State) (i : Nat) (t : Team) : (s.setTeam i t).minver = s.minver := rfl
@[simp] theorem State.setTeam_flash (s : State) (i : Nat) (t : Team) : (s.setTeam i t).flash = s.flash := rfl
@[simp] theorem State.setTeam_config (s : State) (i : Nat) (t : Team) : (s.setTeam i t).config = s.config := rfl
@[simp] theorem State.setTeam_link (s : State) (i : Nat) (t : Team) : (s.setTeam i t).link = s.link := rfl
@[simp] theorem State.setTeam_joined (s : State) (i : Nat) (t : Team) : (s.setTeam i t).joined = s.joined := rfl
@[simp] theorem State.setTeam_module (s : State) (i : Nat) (t : Team) : (s.setTeam i t).module = s.module := rfl
@[simp] theorem State.setTeam_lost (s : State) (i : Nat) (t : Team) : (s.setTeam i t).lost = s.lost := rfl
@[simp] theorem State.setTeam_samp (s : State) (i : Nat) (t : Team) : (s.setTeam i t).samp = s.samp := rfl
@[simp] theorem State.setTeam_phys (s : State) (i : Nat) (t : Team) : (s.setTeam i t).phys = s.phys := rfl
@[simp] theorem State.setTeam_badPhys (s : State) (i : Nat) (t : Team) : (s.setTeam i t).badPhys = s.badPhys := rfl
@[simp] theorem State.setTeam_lp6 (s : State) (i : Nat) (t : Team) : (s.setTeam i t).lp6 = s.lp6 := rfl
@[simp] theorem State.setTeam_errors (s : State) (i : Nat) (t : Team) : (s.setTeam i t).errors = s.errors := rfl
@[simp] theorem State.setTeam_dies (s : State) (i : Nat) (t : Team) : (s.setTeam i t).dies = s.dies := rfl
@[simp] theorem State.setTeam_cores (s : State) (i : Nat) (t : Team) : (s.setTeam i t).cores = s.cores := rfl
@[simp] theorem State.setTeam_teams (s : State) (i : Nat) (t : Team) : (s.setTeam i t).teams = s.teams.set i t := rfl
@[simp] theorem State.setTeam_contexts (s : State) (i : Nat) (t : Team) : (s.setTeam i t).contexts = s.contexts := rfl
@[simp] theorem State.setTeam_barriers (s : State) (i : Nat) (t : Team) : (s.setTeam i t).barriers = s.barriers := rfl
@[simp] theorem State.setTeam_moves (s : State) (i : Nat) (t : Team) : (s.setTeam i t).moves = s.moves := rfl
@[simp] theorem State.setTeam_free (s : State) (i : Nat) (t : Team) : (s.setTeam i t).free = s.free := rfl
@[simp] theorem State.setTeam_cur (s : State) (i : Nat) (t : Team) : (s.setTeam i t).cur = s.cur := rfl

/-! ## A die replaced -/

@[simp] theorem State.setDie_phase (s : State) (d : Fin 4) (x : Die) : (s.setDie d x).phase = s.phase := rfl
@[simp] theorem State.setDie_fail (s : State) (d : Fin 4) (x : Die) : (s.setDie d x).fail = s.fail := rfl
@[simp] theorem State.setDie_cfgver (s : State) (d : Fin 4) (x : Die) : (s.setDie d x).cfgver = s.cfgver := rfl
@[simp] theorem State.setDie_minver (s : State) (d : Fin 4) (x : Die) : (s.setDie d x).minver = s.minver := rfl
@[simp] theorem State.setDie_flash (s : State) (d : Fin 4) (x : Die) : (s.setDie d x).flash = s.flash := rfl
@[simp] theorem State.setDie_config (s : State) (d : Fin 4) (x : Die) : (s.setDie d x).config = s.config := rfl
@[simp] theorem State.setDie_link (s : State) (d : Fin 4) (x : Die) : (s.setDie d x).link = s.link := rfl
@[simp] theorem State.setDie_joined (s : State) (d : Fin 4) (x : Die) : (s.setDie d x).joined = s.joined := rfl
@[simp] theorem State.setDie_module (s : State) (d : Fin 4) (x : Die) : (s.setDie d x).module = s.module := rfl
@[simp] theorem State.setDie_lost (s : State) (d : Fin 4) (x : Die) : (s.setDie d x).lost = s.lost := rfl
@[simp] theorem State.setDie_samp (s : State) (d : Fin 4) (x : Die) : (s.setDie d x).samp = s.samp := rfl
@[simp] theorem State.setDie_phys (s : State) (d : Fin 4) (x : Die) : (s.setDie d x).phys = s.phys := rfl
@[simp] theorem State.setDie_badPhys (s : State) (d : Fin 4) (x : Die) : (s.setDie d x).badPhys = s.badPhys := rfl
@[simp] theorem State.setDie_lp6 (s : State) (d : Fin 4) (x : Die) : (s.setDie d x).lp6 = s.lp6 := rfl
@[simp] theorem State.setDie_errors (s : State) (d : Fin 4) (x : Die) : (s.setDie d x).errors = s.errors := rfl
@[simp] theorem State.setDie_dies (s : State) (d : Fin 4) (x : Die) : (s.setDie d x).dies = s.dies.set d x := rfl
@[simp] theorem State.setDie_cores (s : State) (d : Fin 4) (x : Die) : (s.setDie d x).cores = s.cores := rfl
@[simp] theorem State.setDie_teams (s : State) (d : Fin 4) (x : Die) : (s.setDie d x).teams = s.teams := rfl
@[simp] theorem State.setDie_contexts (s : State) (d : Fin 4) (x : Die) : (s.setDie d x).contexts = s.contexts := rfl
@[simp] theorem State.setDie_barriers (s : State) (d : Fin 4) (x : Die) : (s.setDie d x).barriers = s.barriers := rfl
@[simp] theorem State.setDie_moves (s : State) (d : Fin 4) (x : Die) : (s.setDie d x).moves = s.moves := rfl
@[simp] theorem State.setDie_free (s : State) (d : Fin 4) (x : Die) : (s.setDie d x).free = s.free := rfl
@[simp] theorem State.setDie_cur (s : State) (d : Fin 4) (x : Die) : (s.setDie d x).cur = s.cur := rfl

/-! ## A context replaced -/

@[simp] theorem State.setCtx_phase (s : State) (c : Nat) (x : Context) :
    (s.setCtx c x).phase = s.phase := by
  unfold State.setCtx; split <;> rfl
@[simp] theorem State.setCtx_fail (s : State) (c : Nat) (x : Context) :
    (s.setCtx c x).fail = s.fail := by
  unfold State.setCtx; split <;> rfl
@[simp] theorem State.setCtx_cfgver (s : State) (c : Nat) (x : Context) :
    (s.setCtx c x).cfgver = s.cfgver := by
  unfold State.setCtx; split <;> rfl
@[simp] theorem State.setCtx_minver (s : State) (c : Nat) (x : Context) :
    (s.setCtx c x).minver = s.minver := by
  unfold State.setCtx; split <;> rfl
@[simp] theorem State.setCtx_flash (s : State) (c : Nat) (x : Context) :
    (s.setCtx c x).flash = s.flash := by
  unfold State.setCtx; split <;> rfl
@[simp] theorem State.setCtx_config (s : State) (c : Nat) (x : Context) :
    (s.setCtx c x).config = s.config := by
  unfold State.setCtx; split <;> rfl
@[simp] theorem State.setCtx_link (s : State) (c : Nat) (x : Context) :
    (s.setCtx c x).link = s.link := by
  unfold State.setCtx; split <;> rfl
@[simp] theorem State.setCtx_joined (s : State) (c : Nat) (x : Context) :
    (s.setCtx c x).joined = s.joined := by
  unfold State.setCtx; split <;> rfl
@[simp] theorem State.setCtx_module (s : State) (c : Nat) (x : Context) :
    (s.setCtx c x).module = s.module := by
  unfold State.setCtx; split <;> rfl
@[simp] theorem State.setCtx_lost (s : State) (c : Nat) (x : Context) :
    (s.setCtx c x).lost = s.lost := by
  unfold State.setCtx; split <;> rfl
@[simp] theorem State.setCtx_samp (s : State) (c : Nat) (x : Context) :
    (s.setCtx c x).samp = s.samp := by
  unfold State.setCtx; split <;> rfl
@[simp] theorem State.setCtx_phys (s : State) (c : Nat) (x : Context) :
    (s.setCtx c x).phys = s.phys := by
  unfold State.setCtx; split <;> rfl
@[simp] theorem State.setCtx_badPhys (s : State) (c : Nat) (x : Context) :
    (s.setCtx c x).badPhys = s.badPhys := by
  unfold State.setCtx; split <;> rfl
@[simp] theorem State.setCtx_lp6 (s : State) (c : Nat) (x : Context) :
    (s.setCtx c x).lp6 = s.lp6 := by
  unfold State.setCtx; split <;> rfl
@[simp] theorem State.setCtx_errors (s : State) (c : Nat) (x : Context) :
    (s.setCtx c x).errors = s.errors := by
  unfold State.setCtx; split <;> rfl
@[simp] theorem State.setCtx_dies (s : State) (c : Nat) (x : Context) :
    (s.setCtx c x).dies = s.dies := by
  unfold State.setCtx; split <;> rfl
@[simp] theorem State.setCtx_cores (s : State) (c : Nat) (x : Context) :
    (s.setCtx c x).cores = s.cores := by
  unfold State.setCtx; split <;> rfl
@[simp] theorem State.setCtx_teams (s : State) (c : Nat) (x : Context) :
    (s.setCtx c x).teams = s.teams := by
  unfold State.setCtx; split <;> rfl
@[simp] theorem State.setCtx_barriers (s : State) (c : Nat) (x : Context) :
    (s.setCtx c x).barriers = s.barriers := by
  unfold State.setCtx; split <;> rfl
@[simp] theorem State.setCtx_moves (s : State) (c : Nat) (x : Context) :
    (s.setCtx c x).moves = s.moves := by
  unfold State.setCtx; split <;> rfl
@[simp] theorem State.setCtx_free (s : State) (c : Nat) (x : Context) :
    (s.setCtx c x).free = s.free := by
  unfold State.setCtx; split <;> rfl
@[simp] theorem State.setCtx_cur (s : State) (c : Nat) (x : Context) :
    (s.setCtx c x).cur = s.cur := by
  unfold State.setCtx; split <;> rfl

/-! ## A core replaced -/

@[simp] theorem State.setCore_phase (s : State) (c : Core) :
    (s.setCore c).phase = s.phase := by
  unfold State.setCore; split <;> rfl
@[simp] theorem State.setCore_fail (s : State) (c : Core) :
    (s.setCore c).fail = s.fail := by
  unfold State.setCore; split <;> rfl
@[simp] theorem State.setCore_cfgver (s : State) (c : Core) :
    (s.setCore c).cfgver = s.cfgver := by
  unfold State.setCore; split <;> rfl
@[simp] theorem State.setCore_minver (s : State) (c : Core) :
    (s.setCore c).minver = s.minver := by
  unfold State.setCore; split <;> rfl
@[simp] theorem State.setCore_flash (s : State) (c : Core) :
    (s.setCore c).flash = s.flash := by
  unfold State.setCore; split <;> rfl
@[simp] theorem State.setCore_config (s : State) (c : Core) :
    (s.setCore c).config = s.config := by
  unfold State.setCore; split <;> rfl
@[simp] theorem State.setCore_link (s : State) (c : Core) :
    (s.setCore c).link = s.link := by
  unfold State.setCore; split <;> rfl
@[simp] theorem State.setCore_joined (s : State) (c : Core) :
    (s.setCore c).joined = s.joined := by
  unfold State.setCore; split <;> rfl
@[simp] theorem State.setCore_module (s : State) (c : Core) :
    (s.setCore c).module = s.module := by
  unfold State.setCore; split <;> rfl
@[simp] theorem State.setCore_lost (s : State) (c : Core) :
    (s.setCore c).lost = s.lost := by
  unfold State.setCore; split <;> rfl
@[simp] theorem State.setCore_samp (s : State) (c : Core) :
    (s.setCore c).samp = s.samp := by
  unfold State.setCore; split <;> rfl
@[simp] theorem State.setCore_phys (s : State) (c : Core) :
    (s.setCore c).phys = s.phys := by
  unfold State.setCore; split <;> rfl
@[simp] theorem State.setCore_badPhys (s : State) (c : Core) :
    (s.setCore c).badPhys = s.badPhys := by
  unfold State.setCore; split <;> rfl
@[simp] theorem State.setCore_lp6 (s : State) (c : Core) : (s.setCore c).lp6 = s.lp6 := by
  unfold State.setCore; split <;> rfl
@[simp] theorem State.setCore_errors (s : State) (c : Core) :
    (s.setCore c).errors = s.errors := by
  unfold State.setCore; split <;> rfl
@[simp] theorem State.setCore_dies (s : State) (c : Core) :
    (s.setCore c).dies = s.dies := by
  unfold State.setCore; split <;> rfl
@[simp] theorem State.setCore_teams (s : State) (c : Core) :
    (s.setCore c).teams = s.teams := by
  unfold State.setCore; split <;> rfl
@[simp] theorem State.setCore_contexts (s : State) (c : Core) :
    (s.setCore c).contexts = s.contexts := by
  unfold State.setCore; split <;> rfl
@[simp] theorem State.setCore_barriers (s : State) (c : Core) :
    (s.setCore c).barriers = s.barriers := by
  unfold State.setCore; split <;> rfl
@[simp] theorem State.setCore_moves (s : State) (c : Core) :
    (s.setCore c).moves = s.moves := by
  unfold State.setCore; split <;> rfl
@[simp] theorem State.setCore_free (s : State) (c : Core) :
    (s.setCore c).free = s.free := by
  unfold State.setCore; split <;> rfl
@[simp] theorem State.setCore_cur (s : State) (c : Core) : (s.setCore c).cur = s.cur := by
  unfold State.setCore; split <;> rfl

/-! ## A wave replaced -/

@[simp] theorem State.setWaveAt_phase (s : State) (c : Cursor) (w : Wave) :
    (s.setWaveAt c w).phase = s.phase := by
  unfold State.setWaveAt; split <;> rfl
@[simp] theorem State.setWaveAt_fail (s : State) (c : Cursor) (w : Wave) :
    (s.setWaveAt c w).fail = s.fail := by
  unfold State.setWaveAt; split <;> rfl
@[simp] theorem State.setWaveAt_cfgver (s : State) (c : Cursor) (w : Wave) :
    (s.setWaveAt c w).cfgver = s.cfgver := by
  unfold State.setWaveAt; split <;> rfl
@[simp] theorem State.setWaveAt_minver (s : State) (c : Cursor) (w : Wave) :
    (s.setWaveAt c w).minver = s.minver := by
  unfold State.setWaveAt; split <;> rfl
@[simp] theorem State.setWaveAt_flash (s : State) (c : Cursor) (w : Wave) :
    (s.setWaveAt c w).flash = s.flash := by
  unfold State.setWaveAt; split <;> rfl
@[simp] theorem State.setWaveAt_config (s : State) (c : Cursor) (w : Wave) :
    (s.setWaveAt c w).config = s.config := by
  unfold State.setWaveAt; split <;> rfl
@[simp] theorem State.setWaveAt_link (s : State) (c : Cursor) (w : Wave) :
    (s.setWaveAt c w).link = s.link := by
  unfold State.setWaveAt; split <;> rfl
@[simp] theorem State.setWaveAt_joined (s : State) (c : Cursor) (w : Wave) :
    (s.setWaveAt c w).joined = s.joined := by
  unfold State.setWaveAt; split <;> rfl
@[simp] theorem State.setWaveAt_module (s : State) (c : Cursor) (w : Wave) :
    (s.setWaveAt c w).module = s.module := by
  unfold State.setWaveAt; split <;> rfl
@[simp] theorem State.setWaveAt_lost (s : State) (c : Cursor) (w : Wave) :
    (s.setWaveAt c w).lost = s.lost := by
  unfold State.setWaveAt; split <;> rfl
@[simp] theorem State.setWaveAt_samp (s : State) (c : Cursor) (w : Wave) :
    (s.setWaveAt c w).samp = s.samp := by
  unfold State.setWaveAt; split <;> rfl
@[simp] theorem State.setWaveAt_phys (s : State) (c : Cursor) (w : Wave) :
    (s.setWaveAt c w).phys = s.phys := by
  unfold State.setWaveAt; split <;> rfl
@[simp] theorem State.setWaveAt_badPhys (s : State) (c : Cursor) (w : Wave) :
    (s.setWaveAt c w).badPhys = s.badPhys := by
  unfold State.setWaveAt; split <;> rfl
@[simp] theorem State.setWaveAt_lp6 (s : State) (c : Cursor) (w : Wave) :
    (s.setWaveAt c w).lp6 = s.lp6 := by
  unfold State.setWaveAt; split <;> rfl
@[simp] theorem State.setWaveAt_errors (s : State) (c : Cursor) (w : Wave) :
    (s.setWaveAt c w).errors = s.errors := by
  unfold State.setWaveAt; split <;> rfl
@[simp] theorem State.setWaveAt_dies (s : State) (c : Cursor) (w : Wave) :
    (s.setWaveAt c w).dies = s.dies := by
  unfold State.setWaveAt; split <;> rfl
@[simp] theorem State.setWaveAt_cores (s : State) (c : Cursor) (w : Wave) :
    (s.setWaveAt c w).cores = s.cores := by
  unfold State.setWaveAt; split <;> rfl
@[simp] theorem State.setWaveAt_contexts (s : State) (c : Cursor) (w : Wave) :
    (s.setWaveAt c w).contexts = s.contexts := by
  unfold State.setWaveAt; split <;> rfl
@[simp] theorem State.setWaveAt_barriers (s : State) (c : Cursor) (w : Wave) :
    (s.setWaveAt c w).barriers = s.barriers := by
  unfold State.setWaveAt; split <;> rfl
@[simp] theorem State.setWaveAt_moves (s : State) (c : Cursor) (w : Wave) :
    (s.setWaveAt c w).moves = s.moves := by
  unfold State.setWaveAt; split <;> rfl
@[simp] theorem State.setWaveAt_free (s : State) (c : Cursor) (w : Wave) :
    (s.setWaveAt c w).free = s.free := by
  unfold State.setWaveAt; split <;> rfl
@[simp] theorem State.setWaveAt_cur (s : State) (c : Cursor) (w : Wave) :
    (s.setWaveAt c w).cur = s.cur := by
  unfold State.setWaveAt; split <;> rfl

/-! ## A bank put back -/

@[simp] theorem State.setBank_phase (s : State) (b : Bank) : (s.setBank b).phase = s.phase := rfl
@[simp] theorem State.setBank_fail (s : State) (b : Bank) : (s.setBank b).fail = s.fail := rfl
@[simp] theorem State.setBank_cfgver (s : State) (b : Bank) : (s.setBank b).cfgver = s.cfgver := rfl
@[simp] theorem State.setBank_minver (s : State) (b : Bank) : (s.setBank b).minver = s.minver := rfl
@[simp] theorem State.setBank_flash (s : State) (b : Bank) : (s.setBank b).flash = s.flash := rfl
@[simp] theorem State.setBank_config (s : State) (b : Bank) : (s.setBank b).config = s.config := rfl
@[simp] theorem State.setBank_link (s : State) (b : Bank) : (s.setBank b).link = s.link := rfl
@[simp] theorem State.setBank_joined (s : State) (b : Bank) : (s.setBank b).joined = s.joined := rfl
@[simp] theorem State.setBank_module (s : State) (b : Bank) : (s.setBank b).module = s.module := rfl
@[simp] theorem State.setBank_lost (s : State) (b : Bank) : (s.setBank b).lost = s.lost := rfl
@[simp] theorem State.setBank_samp (s : State) (b : Bank) : (s.setBank b).samp = s.samp := rfl
@[simp] theorem State.setBank_phys (s : State) (b : Bank) : (s.setBank b).phys = b.phys := rfl
@[simp] theorem State.setBank_badPhys (s : State) (b : Bank) : (s.setBank b).badPhys = b.bad := rfl
@[simp] theorem State.setBank_lp6 (s : State) (b : Bank) : (s.setBank b).lp6 = s.lp6 := rfl
@[simp] theorem State.setBank_errors (s : State) (b : Bank) : (s.setBank b).errors = s.errors := rfl
@[simp] theorem State.setBank_dies (s : State) (b : Bank) :
    (s.setBank b).dies = s.dies.set b.die { s.dies[b.die] with l2 := b.l2 } := rfl
@[simp] theorem State.setBank_cores (s : State) (b : Bank) : (s.setBank b).cores = s.cores := rfl
@[simp] theorem State.setBank_teams (s : State) (b : Bank) : (s.setBank b).teams = s.teams := rfl
@[simp] theorem State.setBank_contexts (s : State) (b : Bank) : (s.setBank b).contexts = s.contexts := rfl
@[simp] theorem State.setBank_barriers (s : State) (b : Bank) : (s.setBank b).barriers = s.barriers := rfl
@[simp] theorem State.setBank_moves (s : State) (b : Bank) : (s.setBank b).moves = s.moves := rfl
@[simp] theorem State.setBank_free (s : State) (b : Bank) : (s.setBank b).free = s.free := rfl
@[simp] theorem State.setBank_cur (s : State) (b : Bank) : (s.setBank b).cur = s.cur := rfl

/-! ## A wave of a team replaced -/

@[simp] theorem Team.setWave_die (t : Team) (i : Nat) (w : Wave) : (t.setWave i w).die = t.die := rfl
@[simp] theorem Team.setWave_serial (t : Team) (i : Nat) (w : Wave) : (t.setWave i w).serial = t.serial := rfl
@[simp] theorem Team.setWave_ctx (t : Team) (i : Nat) (w : Wave) : (t.setWave i w).ctx = t.ctx := rfl
@[simp] theorem Team.setWave_depth (t : Team) (i : Nat) (w : Wave) : (t.setWave i w).depth = t.depth := rfl
@[simp] theorem Team.setWave_leader (t : Team) (i : Nat) (w : Wave) : (t.setWave i w).leader = t.leader := rfl
@[simp] theorem Team.setWave_follower (t : Team) (i : Nat) (w : Wave) : (t.setWave i w).follower = t.follower := rfl
@[simp] theorem Team.setWave_array (t : Team) (i : Nat) (w : Wave) : (t.setWave i w).array = t.array := rfl
@[simp] theorem Team.setWave_gang (t : Team) (i : Nat) (w : Wave) : (t.setWave i w).gang = t.gang := rfl
@[simp] theorem Team.setWave_gangSize (t : Team) (i : Nat) (w : Wave) : (t.setWave i w).gangSize = t.gangSize := rfl
@[simp] theorem Team.setWave_gangIndex (t : Team) (i : Nat) (w : Wave) : (t.setWave i w).gangIndex = t.gangIndex := rfl
@[simp] theorem Team.setWave_vregs (t : Team) (i : Nat) (w : Wave) : (t.setWave i w).vregs = t.vregs := rfl
@[simp] theorem Team.setWave_scru (t : Team) (i : Nat) (w : Wave) : (t.setWave i w).scru = t.scru := rfl
@[simp] theorem Team.setWave_accu (t : Team) (i : Nat) (w : Wave) : (t.setWave i w).accu = t.accu := rfl
@[simp] theorem Team.setWave_lanes (t : Team) (i : Nat) (w : Wave) : (t.setWave i w).lanes = t.lanes := rfl
@[simp] theorem Team.setWave_code (t : Team) (i : Nat) (w : Wave) : (t.setWave i w).code = t.code := rfl
@[simp] theorem Team.setWave_entry (t : Team) (i : Nat) (w : Wave) : (t.setWave i w).entry = t.entry := rfl
@[simp] theorem Team.setWave_record (t : Team) (i : Nat) (w : Wave) : (t.setWave i w).record = t.record := rfl
@[simp] theorem Team.setWave_rod (t : Team) (i : Nat) (w : Wave) : (t.setWave i w).rod = t.rod := rfl
@[simp] theorem Team.setWave_events (t : Team) (i : Nat) (w : Wave) : (t.setWave i w).events = t.events := rfl
@[simp] theorem Team.setWave_frame (t : Team) (i : Nat) (w : Wave) : (t.setWave i w).frame = t.frame := rfl
@[simp] theorem Team.setWave_held (t : Team) (i : Nat) (w : Wave) : (t.setWave i w).held = t.held := rfl
@[simp] theorem Team.setWave_windows (t : Team) (i : Nat) (w : Wave) : (t.setWave i w).windows = t.windows := rfl
@[simp] theorem Team.setWave_member (t : Team) (i : Nat) (w : Wave) : (t.setWave i w).member = t.member := rfl
@[simp] theorem Team.setWave_killed (t : Team) (i : Nat) (w : Wave) : (t.setWave i w).killed = t.killed := rfl
@[simp] theorem Team.setWave_placed (t : Team) (i : Nat) (w : Wave) : (t.setWave i w).placed = t.placed := rfl
@[simp] theorem Team.setWave_cores (t : Team) (i : Nat) (w : Wave) : (t.setWave i w).cores = t.cores := rfl
@[simp] theorem Team.setWave_poison (t : Team) (i : Nat) (w : Wave) : (t.setWave i w).poison = t.poison := rfl
@[simp] theorem Team.setWave_halt (t : Team) (i : Nat) (w : Wave) : (t.setWave i w).halt = t.halt := rfl
@[simp] theorem Team.setWave_waves (t : Team) (i : Nat) (w : Wave) : (t.setWave i w).waves = t.waves.set i w := rfl

/-! ## A team's scratchpad replaced -/

@[simp] theorem Team.setScratch_die (t : Team) (core : Nat) (m : Memory) : (t.setScratch core m).die = t.die := rfl
@[simp] theorem Team.setScratch_serial (t : Team) (core : Nat) (m : Memory) : (t.setScratch core m).serial = t.serial := rfl
@[simp] theorem Team.setScratch_ctx (t : Team) (core : Nat) (m : Memory) : (t.setScratch core m).ctx = t.ctx := rfl
@[simp] theorem Team.setScratch_depth (t : Team) (core : Nat) (m : Memory) : (t.setScratch core m).depth = t.depth := rfl
@[simp] theorem Team.setScratch_leader (t : Team) (core : Nat) (m : Memory) : (t.setScratch core m).leader = t.leader := rfl
@[simp] theorem Team.setScratch_follower (t : Team) (core : Nat) (m : Memory) : (t.setScratch core m).follower = t.follower := rfl
@[simp] theorem Team.setScratch_array (t : Team) (core : Nat) (m : Memory) : (t.setScratch core m).array = t.array := rfl
@[simp] theorem Team.setScratch_gang (t : Team) (core : Nat) (m : Memory) : (t.setScratch core m).gang = t.gang := rfl
@[simp] theorem Team.setScratch_gangSize (t : Team) (core : Nat) (m : Memory) : (t.setScratch core m).gangSize = t.gangSize := rfl
@[simp] theorem Team.setScratch_gangIndex (t : Team) (core : Nat) (m : Memory) :
    (t.setScratch core m).gangIndex = t.gangIndex := rfl
@[simp] theorem Team.setScratch_vregs (t : Team) (core : Nat) (m : Memory) : (t.setScratch core m).vregs = t.vregs := rfl
@[simp] theorem Team.setScratch_scru (t : Team) (core : Nat) (m : Memory) : (t.setScratch core m).scru = t.scru := rfl
@[simp] theorem Team.setScratch_accu (t : Team) (core : Nat) (m : Memory) : (t.setScratch core m).accu = t.accu := rfl
@[simp] theorem Team.setScratch_lanes (t : Team) (core : Nat) (m : Memory) : (t.setScratch core m).lanes = t.lanes := rfl
@[simp] theorem Team.setScratch_code (t : Team) (core : Nat) (m : Memory) : (t.setScratch core m).code = t.code := rfl
@[simp] theorem Team.setScratch_entry (t : Team) (core : Nat) (m : Memory) : (t.setScratch core m).entry = t.entry := rfl
@[simp] theorem Team.setScratch_record (t : Team) (core : Nat) (m : Memory) : (t.setScratch core m).record = t.record := rfl
@[simp] theorem Team.setScratch_rod (t : Team) (core : Nat) (m : Memory) : (t.setScratch core m).rod = t.rod := rfl
@[simp] theorem Team.setScratch_events (t : Team) (core : Nat) (m : Memory) : (t.setScratch core m).events = t.events := rfl
@[simp] theorem Team.setScratch_frame (t : Team) (core : Nat) (m : Memory) : (t.setScratch core m).frame = t.frame := rfl
@[simp] theorem Team.setScratch_held (t : Team) (core : Nat) (m : Memory) : (t.setScratch core m).held = t.held := rfl
@[simp] theorem Team.setScratch_windows (t : Team) (core : Nat) (m : Memory) : (t.setScratch core m).windows = t.windows := rfl
@[simp] theorem Team.setScratch_member (t : Team) (core : Nat) (m : Memory) : (t.setScratch core m).member = t.member := rfl
@[simp] theorem Team.setScratch_killed (t : Team) (core : Nat) (m : Memory) : (t.setScratch core m).killed = t.killed := rfl
@[simp] theorem Team.setScratch_placed (t : Team) (core : Nat) (m : Memory) : (t.setScratch core m).placed = t.placed := rfl
@[simp] theorem Team.setScratch_poison (t : Team) (core : Nat) (m : Memory) : (t.setScratch core m).poison = t.poison := rfl
@[simp] theorem Team.setScratch_halt (t : Team) (core : Nat) (m : Memory) : (t.setScratch core m).halt = t.halt := rfl
@[simp] theorem Team.setScratch_waves (t : Team) (core : Nat) (m : Memory) : (t.setScratch core m).waves = t.waves := rfl

/-! ## The issuing split: setS -/

@[simp] theorem Iss.setS_st (x : Iss) (n : SReg) (w : W64) : (x.setS n w).st = x.st := by
  unfold Iss.setS; split <;> rfl
@[simp] theorem Iss.setS_tm (x : Iss) (n : SReg) (w : W64) : (x.setS n w).tm = x.tm := by
  unfold Iss.setS; split <;> rfl
@[simp] theorem Iss.setS_slot (x : Iss) (n : SReg) (w : W64) : (x.setS n w).slot = x.slot := by
  unfold Iss.setS; split <;> rfl
@[simp] theorem Iss.setS_sp (x : Iss) (n : SReg) (w : W64) : (x.setS n w).sp = x.sp := by
  unfold Iss.setS; split <;> rfl
@[simp] theorem Iss.setS_was (x : Iss) (n : SReg) (w : W64) : (x.setS n w).was = x.was := by
  unfold Iss.setS; split <;> rfl

/-! ## The issuing split: setM -/

@[simp] theorem Iss.setM_st (x : Iss) (n : MReg) (w : Mask) : (x.setM n w).st = x.st := by
  unfold Iss.setM; split <;> rfl
@[simp] theorem Iss.setM_tm (x : Iss) (n : MReg) (w : Mask) : (x.setM n w).tm = x.tm := by
  unfold Iss.setM; split <;> rfl
@[simp] theorem Iss.setM_slot (x : Iss) (n : MReg) (w : Mask) : (x.setM n w).slot = x.slot := by
  unfold Iss.setM; split <;> rfl
@[simp] theorem Iss.setM_sp (x : Iss) (n : MReg) (w : Mask) : (x.setM n w).sp = x.sp := by
  unfold Iss.setM; split <;> rfl
@[simp] theorem Iss.setM_was (x : Iss) (n : MReg) (w : Mask) : (x.setM n w).was = x.was := by
  unfold Iss.setM; split <;> rfl

/-! ## The issuing split: setK -/

@[simp] theorem Iss.setK_st (x : Iss) (n : KReg) (c : Cap) : (x.setK n c).st = x.st := by
  unfold Iss.setK; split <;> rfl
@[simp] theorem Iss.setK_tm (x : Iss) (n : KReg) (c : Cap) : (x.setK n c).tm = x.tm := by
  unfold Iss.setK; split <;> rfl
@[simp] theorem Iss.setK_slot (x : Iss) (n : KReg) (c : Cap) : (x.setK n c).slot = x.slot := by
  unfold Iss.setK; split <;> rfl
@[simp] theorem Iss.setK_sp (x : Iss) (n : KReg) (c : Cap) : (x.setK n c).sp = x.sp := by
  unfold Iss.setK; split <;> rfl
@[simp] theorem Iss.setK_was (x : Iss) (n : KReg) (c : Cap) : (x.setK n c).was = x.was := by
  unfold Iss.setK; split <;> rfl

/-! ## The issuing split: setV -/

@[simp] theorem Iss.setV_st (x : Iss) (n : VReg) (lanes : Mask) (f : Fin 32 → W32) : (x.setV n lanes f).st = x.st := rfl
@[simp] theorem Iss.setV_tm (x : Iss) (n : VReg) (lanes : Mask) (f : Fin 32 → W32) : (x.setV n lanes f).tm = x.tm := rfl
@[simp] theorem Iss.setV_slot (x : Iss) (n : VReg) (lanes : Mask) (f : Fin 32 → W32) : (x.setV n lanes f).slot = x.slot := rfl
@[simp] theorem Iss.setV_sp (x : Iss) (n : VReg) (lanes : Mask) (f : Fin 32 → W32) : (x.setV n lanes f).sp = x.sp := rfl
@[simp] theorem Iss.setV_was (x : Iss) (n : VReg) (lanes : Mask) (f : Fin 32 → W32) : (x.setV n lanes f).was = x.was := rfl

/-! ## The issuing split: setFlags -/

@[simp] theorem Iss.setFlags_st (x : Iss) (z n c v : Bool) : (x.setFlags z n c v).st = x.st := rfl
@[simp] theorem Iss.setFlags_tm (x : Iss) (z n c v : Bool) : (x.setFlags z n c v).tm = x.tm := rfl
@[simp] theorem Iss.setFlags_wv (x : Iss) (z n c v : Bool) :
    (x.setFlags z n c v).wv = { x.wv with cc := { x.wv.cc with z := z, n := n, c := c, v := v } } := rfl
@[simp] theorem Iss.setFlags_slot (x : Iss) (z n c v : Bool) : (x.setFlags z n c v).slot = x.slot := rfl
@[simp] theorem Iss.setFlags_sp (x : Iss) (z n c v : Bool) : (x.setFlags z n c v).sp = x.sp := rfl
@[simp] theorem Iss.setFlags_was (x : Iss) (z n c v : Bool) : (x.setFlags z n c v).was = x.was := rfl

/-! ## The issuing split: setZ -/

@[simp] theorem Iss.setZ_st (x : Iss) (z : Bool) : (x.setZ z).st = x.st := rfl
@[simp] theorem Iss.setZ_tm (x : Iss) (z : Bool) : (x.setZ z).tm = x.tm := rfl
@[simp] theorem Iss.setZ_wv (x : Iss) (z : Bool) : (x.setZ z).wv = { x.wv with cc := { x.wv.cc with z := z } } := rfl
@[simp] theorem Iss.setZ_slot (x : Iss) (z : Bool) : (x.setZ z).slot = x.slot := rfl
@[simp] theorem Iss.setZ_sp (x : Iss) (z : Bool) : (x.setZ z).sp = x.sp := rfl
@[simp] theorem Iss.setZ_was (x : Iss) (z : Bool) : (x.setZ z).was = x.was := rfl

/-! ## The issuing split: raise -/

@[simp] theorem Iss.raise_st (x : Iss) (e : Exc) : (x.raise e).st = x.st := rfl
@[simp] theorem Iss.raise_tm (x : Iss) (e : Exc) : (x.raise e).tm = x.tm := rfl
@[simp] theorem Iss.raise_wv (x : Iss) (e : Exc) : (x.raise e).wv = { x.wv with flags := x.wv.flags ||| e.bits } := rfl
@[simp] theorem Iss.raise_slot (x : Iss) (e : Exc) : (x.raise e).slot = x.slot := rfl
@[simp] theorem Iss.raise_sp (x : Iss) (e : Exc) : (x.raise e).sp = x.sp := rfl
@[simp] theorem Iss.raise_was (x : Iss) (e : Exc) : (x.raise e).was = x.was := rfl

/-! ## The issuing split: clearE -/

@[simp] theorem Iss.clearE_st (x : Iss) : (x.clearE).st = x.st := rfl
@[simp] theorem Iss.clearE_tm (x : Iss) : (x.clearE).tm = x.tm := rfl
@[simp] theorem Iss.clearE_wv (x : Iss) : (x.clearE).wv = { x.wv with cc := { x.wv.cc with e := false } } := rfl
@[simp] theorem Iss.clearE_slot (x : Iss) : (x.clearE).slot = x.slot := rfl
@[simp] theorem Iss.clearE_sp (x : Iss) : (x.clearE).sp = x.sp := rfl
@[simp] theorem Iss.clearE_was (x : Iss) : (x.clearE).was = x.was := rfl

/-! ## The issuing split: setScratch -/

@[simp] theorem Iss.setScratch_st (x : Iss) (m : Memory) : (x.setScratch m).st = x.st := rfl
@[simp] theorem Iss.setScratch_tm (x : Iss) (m : Memory) : (x.setScratch m).tm = x.tm.setScratch x.wv.core m := rfl
@[simp] theorem Iss.setScratch_wv (x : Iss) (m : Memory) : (x.setScratch m).wv = x.wv := rfl
@[simp] theorem Iss.setScratch_slot (x : Iss) (m : Memory) : (x.setScratch m).slot = x.slot := rfl
@[simp] theorem Iss.setScratch_sp (x : Iss) (m : Memory) : (x.setScratch m).sp = x.sp := rfl
@[simp] theorem Iss.setScratch_was (x : Iss) (m : Memory) : (x.setScratch m).was = x.was := rfl

/-! ## The issuing wave: setS -/

@[simp] theorem Iss.setS_wv_number (x : Iss) (n : SReg) (w : W64) :
    ((x.setS n w).wv).number = x.wv.number := by
  unfold Iss.setS; split <;> rfl
@[simp] theorem Iss.setS_wv_core (x : Iss) (n : SReg) (w : W64) :
    ((x.setS n w).wv).core = x.wv.core := by
  unfold Iss.setS; split <;> rfl
@[simp] theorem Iss.setS_wv_quarter (x : Iss) (n : SReg) (w : W64) :
    ((x.setS n w).wv).quarter = x.wv.quarter := by
  unfold Iss.setS; split <;> rfl
@[simp] theorem Iss.setS_wv_wslot (x : Iss) (n : SReg) (w : W64) :
    ((x.setS n w).wv).wslot = x.wv.wslot := by
  unfold Iss.setS; split <;> rfl
@[simp] theorem Iss.setS_wv_role (x : Iss) (n : SReg) (w : W64) :
    ((x.setS n w).wv).role = x.wv.role := by
  unfold Iss.setS; split <;> rfl
@[simp] theorem Iss.setS_wv_prio (x : Iss) (n : SReg) (w : W64) :
    ((x.setS n w).wv).prio = x.wv.prio := by
  unfold Iss.setS; split <;> rfl
@[simp] theorem Iss.setS_wv_jmis (x : Iss) (n : SReg) (w : W64) :
    ((x.setS n w).wv).jmis = x.wv.jmis := by
  unfold Iss.setS; split <;> rfl
@[simp] theorem Iss.setS_wv_pflag (x : Iss) (n : SReg) (w : W64) :
    ((x.setS n w).wv).pflag = x.wv.pflag := by
  unfold Iss.setS; split <;> rfl
@[simp] theorem Iss.setS_wv_tile (x : Iss) (n : SReg) (w : W64) :
    ((x.setS n w).wv).tile = x.wv.tile := by
  unfold Iss.setS; split <;> rfl
@[simp] theorem Iss.setS_wv_rm (x : Iss) (n : SReg) (w : W64) :
    ((x.setS n w).wv).rm = x.wv.rm := by
  unfold Iss.setS; split <;> rfl
@[simp] theorem Iss.setS_wv_enables (x : Iss) (n : SReg) (w : W64) :
    ((x.setS n w).wv).enables = x.wv.enables := by
  unfold Iss.setS; split <;> rfl
@[simp] theorem Iss.setS_wv_flags (x : Iss) (n : SReg) (w : W64) :
    ((x.setS n w).wv).flags = x.wv.flags := by
  unfold Iss.setS; split <;> rfl
@[simp] theorem Iss.setS_wv_v (x : Iss) (n : SReg) (w : W64) : ((x.setS n w).wv).v = x.wv.v := by
  unfold Iss.setS; split <;> rfl
@[simp] theorem Iss.setS_wv_m (x : Iss) (n : SReg) (w : W64) : ((x.setS n w).wv).m = x.wv.m := by
  unfold Iss.setS; split <;> rfl
@[simp] theorem Iss.setS_wv_k (x : Iss) (n : SReg) (w : W64) : ((x.setS n w).wv).k = x.wv.k := by
  unfold Iss.setS; split <;> rfl
@[simp] theorem Iss.setS_wv_cc (x : Iss) (n : SReg) (w : W64) :
    ((x.setS n w).wv).cc = x.wv.cc := by
  unfold Iss.setS; split <;> rfl
@[simp] theorem Iss.setS_wv_bankK (x : Iss) (n : SReg) (w : W64) :
    ((x.setS n w).wv).bankK = x.wv.bankK := by
  unfold Iss.setS; split <;> rfl
@[simp] theorem Iss.setS_wv_pdead (x : Iss) (n : SReg) (w : W64) :
    ((x.setS n w).wv).pdead = x.wv.pdead := by
  unfold Iss.setS; split <;> rfl
@[simp] theorem Iss.setS_wv_left (x : Iss) (n : SReg) (w : W64) :
    ((x.setS n w).wv).left = x.wv.left := by
  unfold Iss.setS; split <;> rfl
@[simp] theorem Iss.setS_wv_tvecObj (x : Iss) (n : SReg) (w : W64) :
    ((x.setS n w).wv).tvecObj = x.wv.tvecObj := by
  unfold Iss.setS; split <;> rfl
@[simp] theorem Iss.setS_wv_tvecEntry (x : Iss) (n : SReg) (w : W64) :
    ((x.setS n w).wv).tvecEntry = x.wv.tvecEntry := by
  unfold Iss.setS; split <;> rfl
@[simp] theorem Iss.setS_wv_traceobj (x : Iss) (n : SReg) (w : W64) :
    ((x.setS n w).wv).traceobj = x.wv.traceobj := by
  unfold Iss.setS; split <;> rfl
@[simp] theorem Iss.setS_wv_dumpobj (x : Iss) (n : SReg) (w : W64) :
    ((x.setS n w).wv).dumpobj = x.wv.dumpobj := by
  unfold Iss.setS; split <;> rfl
@[simp] theorem Iss.setS_wv_splits (x : Iss) (n : SReg) (w : W64) :
    ((x.setS n w).wv).splits = x.wv.splits := by
  unfold Iss.setS; split <;> rfl
@[simp] theorem Iss.setS_wv_svc (x : Iss) (n : SReg) (w : W64) :
    ((x.setS n w).wv).svc = x.wv.svc := by
  unfold Iss.setS; split <;> rfl
@[simp] theorem Iss.setS_wv_svcPc (x : Iss) (n : SReg) (w : W64) :
    ((x.setS n w).wv).svcPc = x.wv.svcPc := by
  unfold Iss.setS; split <;> rfl
@[simp] theorem Iss.setS_wv_svcWait (x : Iss) (n : SReg) (w : W64) :
    ((x.setS n w).wv).svcWait = x.wv.svcWait := by
  unfold Iss.setS; split <;> rfl
@[simp] theorem Iss.setS_wv_park (x : Iss) (n : SReg) (w : W64) :
    ((x.setS n w).wv).park = x.wv.park := by
  unfold Iss.setS; split <;> rfl
@[simp] theorem Iss.setS_wv_marker (x : Iss) (n : SReg) (w : W64) :
    ((x.setS n w).wv).marker = x.wv.marker := by
  unfold Iss.setS; split <;> rfl
@[simp] theorem Iss.setS_wv_stores (x : Iss) (n : SReg) (w : W64) :
    ((x.setS n w).wv).stores = x.wv.stores := by
  unfold Iss.setS; split <;> rfl
@[simp] theorem Iss.setS_wv_serial (x : Iss) (n : SReg) (w : W64) :
    ((x.setS n w).wv).serial = x.wv.serial := by
  unfold Iss.setS; split <;> rfl
@[simp] theorem Iss.setS_wv_outcomes (x : Iss) (n : SReg) (w : W64) :
    ((x.setS n w).wv).outcomes = x.wv.outcomes := by
  unfold Iss.setS; split <;> rfl
@[simp] theorem Iss.setS_wv_arrivals (x : Iss) (n : SReg) (w : W64) :
    ((x.setS n w).wv).arrivals = x.wv.arrivals := by
  unfold Iss.setS; split <;> rfl
@[simp] theorem Iss.setS_wv_yielded (x : Iss) (n : SReg) (w : W64) :
    ((x.setS n w).wv).yielded = x.wv.yielded := by
  unfold Iss.setS; split <;> rfl
@[simp] theorem Iss.setS_wv_live (x : Iss) (n : SReg) (w : W64) :
    ((x.setS n w).wv).live = x.wv.live := by
  unfold Iss.setS; split <;> rfl
@[simp] theorem Iss.setS_wv_forced (x : Iss) (n : SReg) (w : W64) :
    ((x.setS n w).wv).forced = x.wv.forced := by
  unfold Iss.setS; split <;> rfl
@[simp] theorem Iss.setS_wv_age (x : Iss) (n : SReg) (w : W64) :
    ((x.setS n w).wv).age = x.wv.age := by
  unfold Iss.setS; split <;> rfl
@[simp] theorem Iss.setS_wv_turn (x : Iss) (n : SReg) (w : W64) :
    ((x.setS n w).wv).turn = x.wv.turn := by
  unfold Iss.setS; split <;> rfl
@[simp] theorem Iss.setS_wv_placed (x : Iss) (n : SReg) (w : W64) :
    ((x.setS n w).wv).placed = x.wv.placed := by
  unfold Iss.setS; split <;> rfl
@[simp] theorem Iss.setS_wv_status (x : Iss) (n : SReg) (w : W64) :
    ((x.setS n w).wv).status = x.wv.status := by
  unfold Iss.setS; split <;> rfl

/-! ## The issuing wave: setM -/

@[simp] theorem Iss.setM_wv_number (x : Iss) (n : MReg) (w : Mask) :
    ((x.setM n w).wv).number = x.wv.number := by
  unfold Iss.setM; split <;> rfl
@[simp] theorem Iss.setM_wv_core (x : Iss) (n : MReg) (w : Mask) :
    ((x.setM n w).wv).core = x.wv.core := by
  unfold Iss.setM; split <;> rfl
@[simp] theorem Iss.setM_wv_quarter (x : Iss) (n : MReg) (w : Mask) :
    ((x.setM n w).wv).quarter = x.wv.quarter := by
  unfold Iss.setM; split <;> rfl
@[simp] theorem Iss.setM_wv_wslot (x : Iss) (n : MReg) (w : Mask) :
    ((x.setM n w).wv).wslot = x.wv.wslot := by
  unfold Iss.setM; split <;> rfl
@[simp] theorem Iss.setM_wv_role (x : Iss) (n : MReg) (w : Mask) :
    ((x.setM n w).wv).role = x.wv.role := by
  unfold Iss.setM; split <;> rfl
@[simp] theorem Iss.setM_wv_prio (x : Iss) (n : MReg) (w : Mask) :
    ((x.setM n w).wv).prio = x.wv.prio := by
  unfold Iss.setM; split <;> rfl
@[simp] theorem Iss.setM_wv_jmis (x : Iss) (n : MReg) (w : Mask) :
    ((x.setM n w).wv).jmis = x.wv.jmis := by
  unfold Iss.setM; split <;> rfl
@[simp] theorem Iss.setM_wv_pflag (x : Iss) (n : MReg) (w : Mask) :
    ((x.setM n w).wv).pflag = x.wv.pflag := by
  unfold Iss.setM; split <;> rfl
@[simp] theorem Iss.setM_wv_tile (x : Iss) (n : MReg) (w : Mask) :
    ((x.setM n w).wv).tile = x.wv.tile := by
  unfold Iss.setM; split <;> rfl
@[simp] theorem Iss.setM_wv_rm (x : Iss) (n : MReg) (w : Mask) :
    ((x.setM n w).wv).rm = x.wv.rm := by
  unfold Iss.setM; split <;> rfl
@[simp] theorem Iss.setM_wv_enables (x : Iss) (n : MReg) (w : Mask) :
    ((x.setM n w).wv).enables = x.wv.enables := by
  unfold Iss.setM; split <;> rfl
@[simp] theorem Iss.setM_wv_flags (x : Iss) (n : MReg) (w : Mask) :
    ((x.setM n w).wv).flags = x.wv.flags := by
  unfold Iss.setM; split <;> rfl
@[simp] theorem Iss.setM_wv_s (x : Iss) (n : MReg) (w : Mask) :
    ((x.setM n w).wv).s = x.wv.s := by
  unfold Iss.setM; split <;> rfl
@[simp] theorem Iss.setM_wv_v (x : Iss) (n : MReg) (w : Mask) :
    ((x.setM n w).wv).v = x.wv.v := by
  unfold Iss.setM; split <;> rfl
@[simp] theorem Iss.setM_wv_k (x : Iss) (n : MReg) (w : Mask) :
    ((x.setM n w).wv).k = x.wv.k := by
  unfold Iss.setM; split <;> rfl
@[simp] theorem Iss.setM_wv_cc (x : Iss) (n : MReg) (w : Mask) :
    ((x.setM n w).wv).cc = x.wv.cc := by
  unfold Iss.setM; split <;> rfl
@[simp] theorem Iss.setM_wv_bankS (x : Iss) (n : MReg) (w : Mask) :
    ((x.setM n w).wv).bankS = x.wv.bankS := by
  unfold Iss.setM; split <;> rfl
@[simp] theorem Iss.setM_wv_bankK (x : Iss) (n : MReg) (w : Mask) :
    ((x.setM n w).wv).bankK = x.wv.bankK := by
  unfold Iss.setM; split <;> rfl
@[simp] theorem Iss.setM_wv_pdead (x : Iss) (n : MReg) (w : Mask) :
    ((x.setM n w).wv).pdead = x.wv.pdead := by
  unfold Iss.setM; split <;> rfl
@[simp] theorem Iss.setM_wv_left (x : Iss) (n : MReg) (w : Mask) :
    ((x.setM n w).wv).left = x.wv.left := by
  unfold Iss.setM; split <;> rfl
@[simp] theorem Iss.setM_wv_tvecObj (x : Iss) (n : MReg) (w : Mask) :
    ((x.setM n w).wv).tvecObj = x.wv.tvecObj := by
  unfold Iss.setM; split <;> rfl
@[simp] theorem Iss.setM_wv_tvecEntry (x : Iss) (n : MReg) (w : Mask) :
    ((x.setM n w).wv).tvecEntry = x.wv.tvecEntry := by
  unfold Iss.setM; split <;> rfl
@[simp] theorem Iss.setM_wv_traceobj (x : Iss) (n : MReg) (w : Mask) :
    ((x.setM n w).wv).traceobj = x.wv.traceobj := by
  unfold Iss.setM; split <;> rfl
@[simp] theorem Iss.setM_wv_dumpobj (x : Iss) (n : MReg) (w : Mask) :
    ((x.setM n w).wv).dumpobj = x.wv.dumpobj := by
  unfold Iss.setM; split <;> rfl
@[simp] theorem Iss.setM_wv_splits (x : Iss) (n : MReg) (w : Mask) :
    ((x.setM n w).wv).splits = x.wv.splits := by
  unfold Iss.setM; split <;> rfl
@[simp] theorem Iss.setM_wv_svc (x : Iss) (n : MReg) (w : Mask) :
    ((x.setM n w).wv).svc = x.wv.svc := by
  unfold Iss.setM; split <;> rfl
@[simp] theorem Iss.setM_wv_svcPc (x : Iss) (n : MReg) (w : Mask) :
    ((x.setM n w).wv).svcPc = x.wv.svcPc := by
  unfold Iss.setM; split <;> rfl
@[simp] theorem Iss.setM_wv_svcWait (x : Iss) (n : MReg) (w : Mask) :
    ((x.setM n w).wv).svcWait = x.wv.svcWait := by
  unfold Iss.setM; split <;> rfl
@[simp] theorem Iss.setM_wv_park (x : Iss) (n : MReg) (w : Mask) :
    ((x.setM n w).wv).park = x.wv.park := by
  unfold Iss.setM; split <;> rfl
@[simp] theorem Iss.setM_wv_marker (x : Iss) (n : MReg) (w : Mask) :
    ((x.setM n w).wv).marker = x.wv.marker := by
  unfold Iss.setM; split <;> rfl
@[simp] theorem Iss.setM_wv_stores (x : Iss) (n : MReg) (w : Mask) :
    ((x.setM n w).wv).stores = x.wv.stores := by
  unfold Iss.setM; split <;> rfl
@[simp] theorem Iss.setM_wv_serial (x : Iss) (n : MReg) (w : Mask) :
    ((x.setM n w).wv).serial = x.wv.serial := by
  unfold Iss.setM; split <;> rfl
@[simp] theorem Iss.setM_wv_outcomes (x : Iss) (n : MReg) (w : Mask) :
    ((x.setM n w).wv).outcomes = x.wv.outcomes := by
  unfold Iss.setM; split <;> rfl
@[simp] theorem Iss.setM_wv_arrivals (x : Iss) (n : MReg) (w : Mask) :
    ((x.setM n w).wv).arrivals = x.wv.arrivals := by
  unfold Iss.setM; split <;> rfl
@[simp] theorem Iss.setM_wv_yielded (x : Iss) (n : MReg) (w : Mask) :
    ((x.setM n w).wv).yielded = x.wv.yielded := by
  unfold Iss.setM; split <;> rfl
@[simp] theorem Iss.setM_wv_live (x : Iss) (n : MReg) (w : Mask) :
    ((x.setM n w).wv).live = x.wv.live := by
  unfold Iss.setM; split <;> rfl
@[simp] theorem Iss.setM_wv_forced (x : Iss) (n : MReg) (w : Mask) :
    ((x.setM n w).wv).forced = x.wv.forced := by
  unfold Iss.setM; split <;> rfl
@[simp] theorem Iss.setM_wv_age (x : Iss) (n : MReg) (w : Mask) :
    ((x.setM n w).wv).age = x.wv.age := by
  unfold Iss.setM; split <;> rfl
@[simp] theorem Iss.setM_wv_turn (x : Iss) (n : MReg) (w : Mask) :
    ((x.setM n w).wv).turn = x.wv.turn := by
  unfold Iss.setM; split <;> rfl
@[simp] theorem Iss.setM_wv_placed (x : Iss) (n : MReg) (w : Mask) :
    ((x.setM n w).wv).placed = x.wv.placed := by
  unfold Iss.setM; split <;> rfl
@[simp] theorem Iss.setM_wv_status (x : Iss) (n : MReg) (w : Mask) :
    ((x.setM n w).wv).status = x.wv.status := by
  unfold Iss.setM; split <;> rfl

/-! ## The issuing wave: setK -/

@[simp] theorem Iss.setK_wv_number (x : Iss) (n : KReg) (c : Cap) :
    ((x.setK n c).wv).number = x.wv.number := by
  unfold Iss.setK; split <;> rfl
@[simp] theorem Iss.setK_wv_core (x : Iss) (n : KReg) (c : Cap) :
    ((x.setK n c).wv).core = x.wv.core := by
  unfold Iss.setK; split <;> rfl
@[simp] theorem Iss.setK_wv_quarter (x : Iss) (n : KReg) (c : Cap) :
    ((x.setK n c).wv).quarter = x.wv.quarter := by
  unfold Iss.setK; split <;> rfl
@[simp] theorem Iss.setK_wv_wslot (x : Iss) (n : KReg) (c : Cap) :
    ((x.setK n c).wv).wslot = x.wv.wslot := by
  unfold Iss.setK; split <;> rfl
@[simp] theorem Iss.setK_wv_role (x : Iss) (n : KReg) (c : Cap) :
    ((x.setK n c).wv).role = x.wv.role := by
  unfold Iss.setK; split <;> rfl
@[simp] theorem Iss.setK_wv_prio (x : Iss) (n : KReg) (c : Cap) :
    ((x.setK n c).wv).prio = x.wv.prio := by
  unfold Iss.setK; split <;> rfl
@[simp] theorem Iss.setK_wv_jmis (x : Iss) (n : KReg) (c : Cap) :
    ((x.setK n c).wv).jmis = x.wv.jmis := by
  unfold Iss.setK; split <;> rfl
@[simp] theorem Iss.setK_wv_pflag (x : Iss) (n : KReg) (c : Cap) :
    ((x.setK n c).wv).pflag = x.wv.pflag := by
  unfold Iss.setK; split <;> rfl
@[simp] theorem Iss.setK_wv_tile (x : Iss) (n : KReg) (c : Cap) :
    ((x.setK n c).wv).tile = x.wv.tile := by
  unfold Iss.setK; split <;> rfl
@[simp] theorem Iss.setK_wv_rm (x : Iss) (n : KReg) (c : Cap) :
    ((x.setK n c).wv).rm = x.wv.rm := by
  unfold Iss.setK; split <;> rfl
@[simp] theorem Iss.setK_wv_enables (x : Iss) (n : KReg) (c : Cap) :
    ((x.setK n c).wv).enables = x.wv.enables := by
  unfold Iss.setK; split <;> rfl
@[simp] theorem Iss.setK_wv_flags (x : Iss) (n : KReg) (c : Cap) :
    ((x.setK n c).wv).flags = x.wv.flags := by
  unfold Iss.setK; split <;> rfl
@[simp] theorem Iss.setK_wv_s (x : Iss) (n : KReg) (c : Cap) : ((x.setK n c).wv).s = x.wv.s := by
  unfold Iss.setK; split <;> rfl
@[simp] theorem Iss.setK_wv_v (x : Iss) (n : KReg) (c : Cap) : ((x.setK n c).wv).v = x.wv.v := by
  unfold Iss.setK; split <;> rfl
@[simp] theorem Iss.setK_wv_m (x : Iss) (n : KReg) (c : Cap) : ((x.setK n c).wv).m = x.wv.m := by
  unfold Iss.setK; split <;> rfl
@[simp] theorem Iss.setK_wv_cc (x : Iss) (n : KReg) (c : Cap) :
    ((x.setK n c).wv).cc = x.wv.cc := by
  unfold Iss.setK; split <;> rfl
@[simp] theorem Iss.setK_wv_bankS (x : Iss) (n : KReg) (c : Cap) :
    ((x.setK n c).wv).bankS = x.wv.bankS := by
  unfold Iss.setK; split <;> rfl
@[simp] theorem Iss.setK_wv_pdead (x : Iss) (n : KReg) (c : Cap) :
    ((x.setK n c).wv).pdead = x.wv.pdead := by
  unfold Iss.setK; split <;> rfl
@[simp] theorem Iss.setK_wv_left (x : Iss) (n : KReg) (c : Cap) :
    ((x.setK n c).wv).left = x.wv.left := by
  unfold Iss.setK; split <;> rfl
@[simp] theorem Iss.setK_wv_tvecObj (x : Iss) (n : KReg) (c : Cap) :
    ((x.setK n c).wv).tvecObj = x.wv.tvecObj := by
  unfold Iss.setK; split <;> rfl
@[simp] theorem Iss.setK_wv_tvecEntry (x : Iss) (n : KReg) (c : Cap) :
    ((x.setK n c).wv).tvecEntry = x.wv.tvecEntry := by
  unfold Iss.setK; split <;> rfl
@[simp] theorem Iss.setK_wv_traceobj (x : Iss) (n : KReg) (c : Cap) :
    ((x.setK n c).wv).traceobj = x.wv.traceobj := by
  unfold Iss.setK; split <;> rfl
@[simp] theorem Iss.setK_wv_dumpobj (x : Iss) (n : KReg) (c : Cap) :
    ((x.setK n c).wv).dumpobj = x.wv.dumpobj := by
  unfold Iss.setK; split <;> rfl
@[simp] theorem Iss.setK_wv_splits (x : Iss) (n : KReg) (c : Cap) :
    ((x.setK n c).wv).splits = x.wv.splits := by
  unfold Iss.setK; split <;> rfl
@[simp] theorem Iss.setK_wv_svc (x : Iss) (n : KReg) (c : Cap) :
    ((x.setK n c).wv).svc = x.wv.svc := by
  unfold Iss.setK; split <;> rfl
@[simp] theorem Iss.setK_wv_svcPc (x : Iss) (n : KReg) (c : Cap) :
    ((x.setK n c).wv).svcPc = x.wv.svcPc := by
  unfold Iss.setK; split <;> rfl
@[simp] theorem Iss.setK_wv_svcWait (x : Iss) (n : KReg) (c : Cap) :
    ((x.setK n c).wv).svcWait = x.wv.svcWait := by
  unfold Iss.setK; split <;> rfl
@[simp] theorem Iss.setK_wv_park (x : Iss) (n : KReg) (c : Cap) :
    ((x.setK n c).wv).park = x.wv.park := by
  unfold Iss.setK; split <;> rfl
@[simp] theorem Iss.setK_wv_marker (x : Iss) (n : KReg) (c : Cap) :
    ((x.setK n c).wv).marker = x.wv.marker := by
  unfold Iss.setK; split <;> rfl
@[simp] theorem Iss.setK_wv_stores (x : Iss) (n : KReg) (c : Cap) :
    ((x.setK n c).wv).stores = x.wv.stores := by
  unfold Iss.setK; split <;> rfl
@[simp] theorem Iss.setK_wv_serial (x : Iss) (n : KReg) (c : Cap) :
    ((x.setK n c).wv).serial = x.wv.serial := by
  unfold Iss.setK; split <;> rfl
@[simp] theorem Iss.setK_wv_outcomes (x : Iss) (n : KReg) (c : Cap) :
    ((x.setK n c).wv).outcomes = x.wv.outcomes := by
  unfold Iss.setK; split <;> rfl
@[simp] theorem Iss.setK_wv_arrivals (x : Iss) (n : KReg) (c : Cap) :
    ((x.setK n c).wv).arrivals = x.wv.arrivals := by
  unfold Iss.setK; split <;> rfl
@[simp] theorem Iss.setK_wv_yielded (x : Iss) (n : KReg) (c : Cap) :
    ((x.setK n c).wv).yielded = x.wv.yielded := by
  unfold Iss.setK; split <;> rfl
@[simp] theorem Iss.setK_wv_live (x : Iss) (n : KReg) (c : Cap) :
    ((x.setK n c).wv).live = x.wv.live := by
  unfold Iss.setK; split <;> rfl
@[simp] theorem Iss.setK_wv_forced (x : Iss) (n : KReg) (c : Cap) :
    ((x.setK n c).wv).forced = x.wv.forced := by
  unfold Iss.setK; split <;> rfl
@[simp] theorem Iss.setK_wv_age (x : Iss) (n : KReg) (c : Cap) :
    ((x.setK n c).wv).age = x.wv.age := by
  unfold Iss.setK; split <;> rfl
@[simp] theorem Iss.setK_wv_turn (x : Iss) (n : KReg) (c : Cap) :
    ((x.setK n c).wv).turn = x.wv.turn := by
  unfold Iss.setK; split <;> rfl
@[simp] theorem Iss.setK_wv_placed (x : Iss) (n : KReg) (c : Cap) :
    ((x.setK n c).wv).placed = x.wv.placed := by
  unfold Iss.setK; split <;> rfl
@[simp] theorem Iss.setK_wv_status (x : Iss) (n : KReg) (c : Cap) :
    ((x.setK n c).wv).status = x.wv.status := by
  unfold Iss.setK; split <;> rfl

/-! ## The issuing wave: setV -/

@[simp] theorem Iss.setV_wv_number (x : Iss) (n : VReg) (lanes : Mask) (f : Fin 32 → W32) :
    ((x.setV n lanes f).wv).number = x.wv.number := rfl
@[simp] theorem Iss.setV_wv_core (x : Iss) (n : VReg) (lanes : Mask) (f : Fin 32 → W32) :
    ((x.setV n lanes f).wv).core = x.wv.core := rfl
@[simp] theorem Iss.setV_wv_quarter (x : Iss) (n : VReg) (lanes : Mask) (f : Fin 32 → W32) :
    ((x.setV n lanes f).wv).quarter = x.wv.quarter := rfl
@[simp] theorem Iss.setV_wv_wslot (x : Iss) (n : VReg) (lanes : Mask) (f : Fin 32 → W32) :
    ((x.setV n lanes f).wv).wslot = x.wv.wslot := rfl
@[simp] theorem Iss.setV_wv_role (x : Iss) (n : VReg) (lanes : Mask) (f : Fin 32 → W32) :
    ((x.setV n lanes f).wv).role = x.wv.role := rfl
@[simp] theorem Iss.setV_wv_prio (x : Iss) (n : VReg) (lanes : Mask) (f : Fin 32 → W32) :
    ((x.setV n lanes f).wv).prio = x.wv.prio := rfl
@[simp] theorem Iss.setV_wv_jmis (x : Iss) (n : VReg) (lanes : Mask) (f : Fin 32 → W32) :
    ((x.setV n lanes f).wv).jmis = x.wv.jmis := rfl
@[simp] theorem Iss.setV_wv_pflag (x : Iss) (n : VReg) (lanes : Mask) (f : Fin 32 → W32) :
    ((x.setV n lanes f).wv).pflag = x.wv.pflag := rfl
@[simp] theorem Iss.setV_wv_tile (x : Iss) (n : VReg) (lanes : Mask) (f : Fin 32 → W32) :
    ((x.setV n lanes f).wv).tile = x.wv.tile := rfl
@[simp] theorem Iss.setV_wv_rm (x : Iss) (n : VReg) (lanes : Mask) (f : Fin 32 → W32) :
    ((x.setV n lanes f).wv).rm = x.wv.rm := rfl
@[simp] theorem Iss.setV_wv_enables (x : Iss) (n : VReg) (lanes : Mask) (f : Fin 32 → W32) :
    ((x.setV n lanes f).wv).enables = x.wv.enables := rfl
@[simp] theorem Iss.setV_wv_flags (x : Iss) (n : VReg) (lanes : Mask) (f : Fin 32 → W32) :
    ((x.setV n lanes f).wv).flags = x.wv.flags := rfl
@[simp] theorem Iss.setV_wv_s (x : Iss) (n : VReg) (lanes : Mask) (f : Fin 32 → W32) : ((x.setV n lanes f).wv).s = x.wv.s := rfl
@[simp] theorem Iss.setV_wv_m (x : Iss) (n : VReg) (lanes : Mask) (f : Fin 32 → W32) : ((x.setV n lanes f).wv).m = x.wv.m := rfl
@[simp] theorem Iss.setV_wv_k (x : Iss) (n : VReg) (lanes : Mask) (f : Fin 32 → W32) : ((x.setV n lanes f).wv).k = x.wv.k := rfl
@[simp] theorem Iss.setV_wv_cc (x : Iss) (n : VReg) (lanes : Mask) (f : Fin 32 → W32) :
    ((x.setV n lanes f).wv).cc = x.wv.cc := rfl
@[simp] theorem Iss.setV_wv_bankS (x : Iss) (n : VReg) (lanes : Mask) (f : Fin 32 → W32) :
    ((x.setV n lanes f).wv).bankS = x.wv.bankS := rfl
@[simp] theorem Iss.setV_wv_bankK (x : Iss) (n : VReg) (lanes : Mask) (f : Fin 32 → W32) :
    ((x.setV n lanes f).wv).bankK = x.wv.bankK := rfl
@[simp] theorem Iss.setV_wv_pdead (x : Iss) (n : VReg) (lanes : Mask) (f : Fin 32 → W32) :
    ((x.setV n lanes f).wv).pdead = x.wv.pdead := rfl
@[simp] theorem Iss.setV_wv_left (x : Iss) (n : VReg) (lanes : Mask) (f : Fin 32 → W32) :
    ((x.setV n lanes f).wv).left = x.wv.left := rfl
@[simp] theorem Iss.setV_wv_tvecObj (x : Iss) (n : VReg) (lanes : Mask) (f : Fin 32 → W32) :
    ((x.setV n lanes f).wv).tvecObj = x.wv.tvecObj := rfl
@[simp] theorem Iss.setV_wv_tvecEntry (x : Iss) (n : VReg) (lanes : Mask) (f : Fin 32 → W32) :
    ((x.setV n lanes f).wv).tvecEntry = x.wv.tvecEntry := rfl
@[simp] theorem Iss.setV_wv_traceobj (x : Iss) (n : VReg) (lanes : Mask) (f : Fin 32 → W32) :
    ((x.setV n lanes f).wv).traceobj = x.wv.traceobj := rfl
@[simp] theorem Iss.setV_wv_dumpobj (x : Iss) (n : VReg) (lanes : Mask) (f : Fin 32 → W32) :
    ((x.setV n lanes f).wv).dumpobj = x.wv.dumpobj := rfl
@[simp] theorem Iss.setV_wv_splits (x : Iss) (n : VReg) (lanes : Mask) (f : Fin 32 → W32) :
    ((x.setV n lanes f).wv).splits = x.wv.splits := rfl
@[simp] theorem Iss.setV_wv_svc (x : Iss) (n : VReg) (lanes : Mask) (f : Fin 32 → W32) :
    ((x.setV n lanes f).wv).svc = x.wv.svc := rfl
@[simp] theorem Iss.setV_wv_svcPc (x : Iss) (n : VReg) (lanes : Mask) (f : Fin 32 → W32) :
    ((x.setV n lanes f).wv).svcPc = x.wv.svcPc := rfl
@[simp] theorem Iss.setV_wv_svcWait (x : Iss) (n : VReg) (lanes : Mask) (f : Fin 32 → W32) :
    ((x.setV n lanes f).wv).svcWait = x.wv.svcWait := rfl
@[simp] theorem Iss.setV_wv_park (x : Iss) (n : VReg) (lanes : Mask) (f : Fin 32 → W32) :
    ((x.setV n lanes f).wv).park = x.wv.park := rfl
@[simp] theorem Iss.setV_wv_marker (x : Iss) (n : VReg) (lanes : Mask) (f : Fin 32 → W32) :
    ((x.setV n lanes f).wv).marker = x.wv.marker := rfl
@[simp] theorem Iss.setV_wv_stores (x : Iss) (n : VReg) (lanes : Mask) (f : Fin 32 → W32) :
    ((x.setV n lanes f).wv).stores = x.wv.stores := rfl
@[simp] theorem Iss.setV_wv_serial (x : Iss) (n : VReg) (lanes : Mask) (f : Fin 32 → W32) :
    ((x.setV n lanes f).wv).serial = x.wv.serial := rfl
@[simp] theorem Iss.setV_wv_outcomes (x : Iss) (n : VReg) (lanes : Mask) (f : Fin 32 → W32) :
    ((x.setV n lanes f).wv).outcomes = x.wv.outcomes := rfl
@[simp] theorem Iss.setV_wv_arrivals (x : Iss) (n : VReg) (lanes : Mask) (f : Fin 32 → W32) :
    ((x.setV n lanes f).wv).arrivals = x.wv.arrivals := rfl
@[simp] theorem Iss.setV_wv_yielded (x : Iss) (n : VReg) (lanes : Mask) (f : Fin 32 → W32) :
    ((x.setV n lanes f).wv).yielded = x.wv.yielded := rfl
@[simp] theorem Iss.setV_wv_live (x : Iss) (n : VReg) (lanes : Mask) (f : Fin 32 → W32) :
    ((x.setV n lanes f).wv).live = x.wv.live := rfl
@[simp] theorem Iss.setV_wv_forced (x : Iss) (n : VReg) (lanes : Mask) (f : Fin 32 → W32) :
    ((x.setV n lanes f).wv).forced = x.wv.forced := rfl
@[simp] theorem Iss.setV_wv_age (x : Iss) (n : VReg) (lanes : Mask) (f : Fin 32 → W32) :
    ((x.setV n lanes f).wv).age = x.wv.age := rfl
@[simp] theorem Iss.setV_wv_turn (x : Iss) (n : VReg) (lanes : Mask) (f : Fin 32 → W32) :
    ((x.setV n lanes f).wv).turn = x.wv.turn := rfl
@[simp] theorem Iss.setV_wv_placed (x : Iss) (n : VReg) (lanes : Mask) (f : Fin 32 → W32) :
    ((x.setV n lanes f).wv).placed = x.wv.placed := rfl
@[simp] theorem Iss.setV_wv_status (x : Iss) (n : VReg) (lanes : Mask) (f : Fin 32 → W32) :
    ((x.setV n lanes f).wv).status = x.wv.status := rfl

/-! ## Reset -/

/-- Memory lists nothing after reset, so it has the canonical form. -/
theorem State.reset_phys_wf : State.reset.phys.wf = true := rfl

end Sys2Proof.Machine
end

