-- ==== Sys2Proof/Laws/Issue.lean ====
section
/-! SUPPORT. What the shared operations of issue can do, once each: taking the issuing split out and putting it back, the order of the
checks, what follows an instruction's own effect, and taking a trap. -/

namespace Sys2Proof.Machine

/-! ## Taking the issuing split out and putting it back -/

/-- The split taken out stands in the state, under the cursor. -/
theorem checkout_eq {s : State} {x : Iss} (h : checkout s = some x) :
    x.st = s ∧ x.slot = s.cur.slot ∧ x.was = x.wv.waitOf x.slot ∧ s.teams[s.cur.team]? = some x.tm ∧
      x.tm.waves[s.cur.wave]? = some x.wv ∧ x.wv.splits[s.cur.slot] = some x.sp := by
  unfold checkout at h
  split at h
  · cases h
  · next tm htm =>
    split at h
    · cases h
    · next wv hwv =>
      split at h
      · cases h
      · next sp hsp =>
        cases h
        exact ⟨rfl, rfl, rfl, htm, hwv, hsp⟩

/-- A live split under the cursor is taken out. -/
theorem checkout_of {s : State} {tm : Team} {wv : Wave} {sp : Split} (ht : s.teams[s.cur.team]? = some tm)
    (hw : tm.waves[s.cur.wave]? = some wv) (hs : wv.splits[s.cur.slot] = some sp) :
    checkout s = some ⟨s, tm, wv, s.cur.slot, sp, wv.waitOf s.cur.slot⟩ := by
  simp only [checkout, ht, hw, hs]

theorem checkout_st {s : State} {x : Iss} (h : checkout s = some x) : x.st = s := (checkout_eq h).1

theorem checkout_slot {s : State} {x : Iss} (h : checkout s = some x) : x.slot = s.cur.slot := (checkout_eq h).2.1

/-- A split put back as it was taken out leaves the state as it was. -/
theorem commit_checkout {s : State} {x : Iss} (h : checkout s = some x) : x.commit = s := by
  obtain ⟨hst, hslot, -, ht, hw, hs⟩ := checkout_eq h
  have hspl : x.wv.splits.set x.slot (some x.sp) = x.wv.splits := by
    simp only [hslot, ← hs]; exact Vector.set_getElem_self _
  have hwv : x.tm.waves.set s.cur.wave x.wv = x.tm.waves := by
    obtain ⟨hlt, he⟩ := List.getElem?_eq_some_iff.1 hw
    rw [← he]; exact List.set_getElem_self _
  have htm : s.teams.set s.cur.team x.tm = s.teams := by
    obtain ⟨hlt, he⟩ := List.getElem?_eq_some_iff.1 ht
    rw [← he]; exact List.set_getElem_self _
  unfold Iss.commit
  rw [hspl, hst]
  show State.setTeam s s.cur.team (x.tm.setWave s.cur.wave x.wv) = s
  unfold State.setTeam Team.setWave
  rw [hwv, htm]

/-! ## What putting a split back leaves -/

@[simp] theorem Iss.commit_phase (x : Iss) : x.commit.phase = x.st.phase := rfl
@[simp] theorem Iss.commit_fail (x : Iss) : x.commit.fail = x.st.fail := rfl
@[simp] theorem Iss.commit_cfgver (x : Iss) : x.commit.cfgver = x.st.cfgver := rfl
@[simp] theorem Iss.commit_minver (x : Iss) : x.commit.minver = x.st.minver := rfl
@[simp] theorem Iss.commit_flash (x : Iss) : x.commit.flash = x.st.flash := rfl
@[simp] theorem Iss.commit_config (x : Iss) : x.commit.config = x.st.config := rfl
@[simp] theorem Iss.commit_link (x : Iss) : x.commit.link = x.st.link := rfl
@[simp] theorem Iss.commit_joined (x : Iss) : x.commit.joined = x.st.joined := rfl
@[simp] theorem Iss.commit_module (x : Iss) : x.commit.module = x.st.module := rfl
@[simp] theorem Iss.commit_lost (x : Iss) : x.commit.lost = x.st.lost := rfl
@[simp] theorem Iss.commit_samp (x : Iss) : x.commit.samp = x.st.samp := rfl
@[simp] theorem Iss.commit_phys (x : Iss) : x.commit.phys = x.st.phys := rfl
@[simp] theorem Iss.commit_badPhys (x : Iss) : x.commit.badPhys = x.st.badPhys := rfl
@[simp] theorem Iss.commit_lp6 (x : Iss) : x.commit.lp6 = x.st.lp6 := rfl
@[simp] theorem Iss.commit_errors (x : Iss) : x.commit.errors = x.st.errors := rfl
@[simp] theorem Iss.commit_dies (x : Iss) : x.commit.dies = x.st.dies := rfl
@[simp] theorem Iss.commit_cores (x : Iss) : x.commit.cores = x.st.cores := rfl
@[simp] theorem Iss.commit_contexts (x : Iss) : x.commit.contexts = x.st.contexts := rfl
@[simp] theorem Iss.commit_barriers (x : Iss) : x.commit.barriers = x.st.barriers := rfl
@[simp] theorem Iss.commit_moves (x : Iss) : x.commit.moves = x.st.moves := rfl
@[simp] theorem Iss.commit_free (x : Iss) : x.commit.free = x.st.free := rfl
@[simp] theorem Iss.commit_cur (x : Iss) : x.commit.cur = x.st.cur := rfl

@[simp] theorem Iss.commit_teams (x : Iss) :
    x.commit.teams = x.st.teams.set x.st.cur.team
      (x.tm.setWave x.st.cur.wave { x.wv with splits := x.wv.splits.set x.slot (some x.sp) }) := rfl

/-! ## Issue -/

/-- An encoded instruction always answers a next state where there is a split to issue it. -/
theorem issue_eq {s : State} {x : Iss} (i : Instr) (body : Iss → Eff) (h : checkout s = some x) :
    issue i s body = .next (x.run (infoOf i) (markerOf i) body) := by
  simp only [issue, h]

/-- A replay for no lane has no effect but to skip the instruction, a REP with its target (R286). -/
theorem Iss.run_skip {x : Iss} (f : Info) (mk : Bool) (body : Iss → Eff) (h : x.sp.only = some 0)
    (hs : x.inService = false) : x.run f mk body = x.skip f := by
  simp [Iss.run, h, hs]

/-- A check at issue that fails traps at the instruction, whatever its effect is (R52). -/
theorem Iss.run_trap {x : Iss} {f : Info} {t : Trap} (mk : Bool) (body : Iss → Eff)
    (h : x.inService = true ∨ x.sp.only ≠ some 0) (hc : checkIssue f x = some t) : x.run f mk body = x.trapHere t := by
  have h' : (x.sp.only = some 0 && !x.inService) = false := by
    rcases h with h | h
    · simp [h]
    · exact Bool.and_eq_false_imp.2 fun e => absurd (of_decide_eq_true e) h
  simp only [Iss.run, h', hc, Bool.false_eq_true, if_false]

/-- Past the checks at issue the instruction's own effect is what happens. -/
theorem Iss.run_body {x : Iss} {f : Info} (mk : Bool) (body : Iss → Eff) (h : x.inService = true ∨ x.sp.only ≠ some 0)
    (hc : checkIssue f x = none) : x.run f mk body = Iss.finish f (mk && !x.waited) (body x) := by
  have h' : (x.sp.only = some 0 && !x.inService) = false := by
    rcases h with h | h
    · simp [h]
    · exact Bool.and_eq_false_imp.2 fun e => absurd (of_decide_eq_true e) h
  simp only [Iss.run, h', hc, Bool.false_eq_true, if_false]

/-! ## What follows an instruction's own effect -/

/-- Complete without a fault: the registers are marked, the split is past the instruction. -/
@[simp] theorem Iss.finish_ok (f : Info) (mk : Bool) (y : Iss) :
    Iss.finish f mk (.ok y) = ((y.markWrites f []).advance f mk).commit := rfl

@[simp] theorem Iss.finish_jump (f : Info) (mk : Bool) (y : Iss) (pc : BitVec 48) :
    Iss.finish f mk (.jump y pc) = ((y.markWrites f []).jumpTo mk pc).commit := rfl

@[simp] theorem Iss.finish_trap (f : Info) (mk : Bool) (y : Iss) (t : Trap) :
    Iss.finish f mk (.trap y t) = y.trapHere t := rfl

@[simp] theorem Iss.finish_trapNext (f : Info) (mk : Bool) (y : Iss) (t : Trap) :
    Iss.finish f mk (.trapNext y t) =
      y.takeTrap t false false y.sp.mask (y.sp.pc + BitVec.ofNat 48 f.len) := rfl

@[simp] theorem Iss.finish_wait (f : Info) (mk : Bool) (y : Iss) (w : Wait) :
    Iss.finish f mk (.wait y w) = (y.waitAt mk w).commit := rfl

@[simp] theorem Iss.finish_final (f : Info) (mk : Bool) (s : State) : Iss.finish f mk (.final s) = s := rfl

@[simp] theorem Iss.finish_done (f : Info) (mk : Bool) (y : Iss) (extra : List Reg) (faults : List LaneFault)
    (left : Option Unfinished) : Iss.finish f mk (.done y extra faults left) = y.settle f mk extra faults left := rfl

@[simp] theorem faultLanes_nil : faultLanes [] = 0 := by decide

@[simp] theorem Iss.settle_none (f : Info) (mk : Bool) (y : Iss) (extra : List Reg) :
    y.settle f mk extra [] none = ((y.markWrites f extra).advance f mk).commit := rfl

@[simp] theorem Iss.settle_left (f : Info) (mk : Bool) (y : Iss) (extra : List Reg) (u : Unfinished) :
    y.settle f mk extra [] (some u) = y.parkReplay u := rfl

/-! ### markWrites -/

@[simp] theorem Iss.markWrites_st (f : Info) (extra : List Reg) (x : Iss) : (x.markWrites f extra).st = x.st := rfl
@[simp] theorem Iss.markWrites_tm (f : Info) (extra : List Reg) (x : Iss) : (x.markWrites f extra).tm = x.tm := rfl
@[simp] theorem Iss.markWrites_slot (f : Info) (extra : List Reg) (x : Iss) : (x.markWrites f extra).slot = x.slot := rfl
@[simp] theorem Iss.markWrites_was (f : Info) (extra : List Reg) (x : Iss) : (x.markWrites f extra).was = x.was := rfl
@[simp] theorem Iss.markWrites_wv (f : Info) (extra : List Reg) (x : Iss) : (x.markWrites f extra).wv = x.wv := rfl

/-! ### jumpTo -/

@[simp] theorem Iss.jumpTo_st (mk : Bool) (x : Iss) (pc : BitVec 48) : (x.jumpTo mk pc).st = x.st := rfl
@[simp] theorem Iss.jumpTo_tm (mk : Bool) (x : Iss) (pc : BitVec 48) : (x.jumpTo mk pc).tm = x.tm := rfl
@[simp] theorem Iss.jumpTo_slot (mk : Bool) (x : Iss) (pc : BitVec 48) : (x.jumpTo mk pc).slot = x.slot := rfl
@[simp] theorem Iss.jumpTo_was (mk : Bool) (x : Iss) (pc : BitVec 48) : (x.jumpTo mk pc).was = x.was := rfl

/-! ### advance -/

@[simp] theorem Iss.advance_st (f : Info) (mk : Bool) (x : Iss) : (x.advance f mk).st = x.st := by
  unfold Iss.advance
  split
  · rfl
  · split
    · split <;> rfl
    · rfl
@[simp] theorem Iss.advance_tm (f : Info) (mk : Bool) (x : Iss) : (x.advance f mk).tm = x.tm := by
  unfold Iss.advance
  split
  · rfl
  · split
    · split <;> rfl
    · rfl
@[simp] theorem Iss.advance_slot (f : Info) (mk : Bool) (x : Iss) : (x.advance f mk).slot = x.slot := by
  unfold Iss.advance
  split
  · rfl
  · split
    · split <;> rfl
    · rfl
@[simp] theorem Iss.advance_was (f : Info) (mk : Bool) (x : Iss) : (x.advance f mk).was = x.was := by
  unfold Iss.advance
  split
  · rfl
  · split
    · split <;> rfl
    · rfl

/-! ### What going on leaves of the wave -/

@[simp] theorem Iss.advance_wv_number (f : Info) (mk : Bool) (x : Iss) : (x.advance f mk).wv.number = x.wv.number := by
  unfold Iss.advance
  split
  · rfl
  · split
    · split <;> rfl
    · rfl
@[simp] theorem Iss.advance_wv_core (f : Info) (mk : Bool) (x : Iss) : (x.advance f mk).wv.core = x.wv.core := by
  unfold Iss.advance
  split
  · rfl
  · split
    · split <;> rfl
    · rfl
@[simp] theorem Iss.advance_wv_quarter (f : Info) (mk : Bool) (x : Iss) : (x.advance f mk).wv.quarter = x.wv.quarter := by
  unfold Iss.advance
  split
  · rfl
  · split
    · split <;> rfl
    · rfl
@[simp] theorem Iss.advance_wv_wslot (f : Info) (mk : Bool) (x : Iss) : (x.advance f mk).wv.wslot = x.wv.wslot := by
  unfold Iss.advance
  split
  · rfl
  · split
    · split <;> rfl
    · rfl
@[simp] theorem Iss.advance_wv_role (f : Info) (mk : Bool) (x : Iss) : (x.advance f mk).wv.role = x.wv.role := by
  unfold Iss.advance
  split
  · rfl
  · split
    · split <;> rfl
    · rfl
@[simp] theorem Iss.advance_wv_prio (f : Info) (mk : Bool) (x : Iss) : (x.advance f mk).wv.prio = x.wv.prio := by
  unfold Iss.advance
  split
  · rfl
  · split
    · split <;> rfl
    · rfl
@[simp] theorem Iss.advance_wv_jmis (f : Info) (mk : Bool) (x : Iss) : (x.advance f mk).wv.jmis = x.wv.jmis := by
  unfold Iss.advance
  split
  · rfl
  · split
    · split <;> rfl
    · rfl
@[simp] theorem Iss.advance_wv_pflag (f : Info) (mk : Bool) (x : Iss) : (x.advance f mk).wv.pflag = x.wv.pflag := by
  unfold Iss.advance
  split
  · rfl
  · split
    · split <;> rfl
    · rfl
@[simp] theorem Iss.advance_wv_tile (f : Info) (mk : Bool) (x : Iss) : (x.advance f mk).wv.tile = x.wv.tile := by
  unfold Iss.advance
  split
  · rfl
  · split
    · split <;> rfl
    · rfl
@[simp] theorem Iss.advance_wv_rm (f : Info) (mk : Bool) (x : Iss) : (x.advance f mk).wv.rm = x.wv.rm := by
  unfold Iss.advance
  split
  · rfl
  · split
    · split <;> rfl
    · rfl
@[simp] theorem Iss.advance_wv_enables (f : Info) (mk : Bool) (x : Iss) : (x.advance f mk).wv.enables = x.wv.enables := by
  unfold Iss.advance
  split
  · rfl
  · split
    · split <;> rfl
    · rfl
@[simp] theorem Iss.advance_wv_flags (f : Info) (mk : Bool) (x : Iss) : (x.advance f mk).wv.flags = x.wv.flags := by
  unfold Iss.advance
  split
  · rfl
  · split
    · split <;> rfl
    · rfl
@[simp] theorem Iss.advance_wv_s (f : Info) (mk : Bool) (x : Iss) : (x.advance f mk).wv.s = x.wv.s := by
  unfold Iss.advance
  split
  · rfl
  · split
    · split <;> rfl
    · rfl
@[simp] theorem Iss.advance_wv_v (f : Info) (mk : Bool) (x : Iss) : (x.advance f mk).wv.v = x.wv.v := by
  unfold Iss.advance
  split
  · rfl
  · split
    · split <;> rfl
    · rfl
@[simp] theorem Iss.advance_wv_m (f : Info) (mk : Bool) (x : Iss) : (x.advance f mk).wv.m = x.wv.m := by
  unfold Iss.advance
  split
  · rfl
  · split
    · split <;> rfl
    · rfl
@[simp] theorem Iss.advance_wv_k (f : Info) (mk : Bool) (x : Iss) : (x.advance f mk).wv.k = x.wv.k := by
  unfold Iss.advance
  split
  · rfl
  · split
    · split <;> rfl
    · rfl
@[simp] theorem Iss.advance_wv_cc (f : Info) (mk : Bool) (x : Iss) : (x.advance f mk).wv.cc = x.wv.cc := by
  unfold Iss.advance
  split
  · rfl
  · split
    · split <;> rfl
    · rfl
@[simp] theorem Iss.advance_wv_bankS (f : Info) (mk : Bool) (x : Iss) : (x.advance f mk).wv.bankS = x.wv.bankS := by
  unfold Iss.advance
  split
  · rfl
  · split
    · split <;> rfl
    · rfl
@[simp] theorem Iss.advance_wv_bankK (f : Info) (mk : Bool) (x : Iss) : (x.advance f mk).wv.bankK = x.wv.bankK := by
  unfold Iss.advance
  split
  · rfl
  · split
    · split <;> rfl
    · rfl
@[simp] theorem Iss.advance_wv_pdead (f : Info) (mk : Bool) (x : Iss) : (x.advance f mk).wv.pdead = x.wv.pdead := by
  unfold Iss.advance
  split
  · rfl
  · split
    · split <;> rfl
    · rfl
@[simp] theorem Iss.advance_wv_left (f : Info) (mk : Bool) (x : Iss) : (x.advance f mk).wv.left = x.wv.left := by
  unfold Iss.advance
  split
  · rfl
  · split
    · split <;> rfl
    · rfl
@[simp] theorem Iss.advance_wv_tvecObj (f : Info) (mk : Bool) (x : Iss) : (x.advance f mk).wv.tvecObj = x.wv.tvecObj := by
  unfold Iss.advance
  split
  · rfl
  · split
    · split <;> rfl
    · rfl
@[simp] theorem Iss.advance_wv_tvecEntry (f : Info) (mk : Bool) (x : Iss) : (x.advance f mk).wv.tvecEntry = x.wv.tvecEntry := by
  unfold Iss.advance
  split
  · rfl
  · split
    · split <;> rfl
    · rfl
@[simp] theorem Iss.advance_wv_traceobj (f : Info) (mk : Bool) (x : Iss) : (x.advance f mk).wv.traceobj = x.wv.traceobj := by
  unfold Iss.advance
  split
  · rfl
  · split
    · split <;> rfl
    · rfl
@[simp] theorem Iss.advance_wv_dumpobj (f : Info) (mk : Bool) (x : Iss) : (x.advance f mk).wv.dumpobj = x.wv.dumpobj := by
  unfold Iss.advance
  split
  · rfl
  · split
    · split <;> rfl
    · rfl
@[simp] theorem Iss.advance_wv_splits (f : Info) (mk : Bool) (x : Iss) : (x.advance f mk).wv.splits = x.wv.splits := by
  unfold Iss.advance
  split
  · rfl
  · split
    · split <;> rfl
    · rfl
@[simp] theorem Iss.advance_wv_svc (f : Info) (mk : Bool) (x : Iss) : (x.advance f mk).wv.svc = x.wv.svc := by
  unfold Iss.advance
  split
  · rfl
  · split
    · split <;> rfl
    · rfl
@[simp] theorem Iss.advance_wv_park (f : Info) (mk : Bool) (x : Iss) : (x.advance f mk).wv.park = x.wv.park := by
  unfold Iss.advance
  split
  · rfl
  · split
    · split <;> rfl
    · rfl
@[simp] theorem Iss.advance_wv_stores (f : Info) (mk : Bool) (x : Iss) : (x.advance f mk).wv.stores = x.wv.stores := by
  unfold Iss.advance
  split
  · rfl
  · split
    · split <;> rfl
    · rfl
@[simp] theorem Iss.advance_wv_serial (f : Info) (mk : Bool) (x : Iss) : (x.advance f mk).wv.serial = x.wv.serial := by
  unfold Iss.advance
  split
  · rfl
  · split
    · split <;> rfl
    · rfl
@[simp] theorem Iss.advance_wv_outcomes (f : Info) (mk : Bool) (x : Iss) : (x.advance f mk).wv.outcomes = x.wv.outcomes := by
  unfold Iss.advance
  split
  · rfl
  · split
    · split <;> rfl
    · rfl
@[simp] theorem Iss.advance_wv_arrivals (f : Info) (mk : Bool) (x : Iss) : (x.advance f mk).wv.arrivals = x.wv.arrivals := by
  unfold Iss.advance
  split
  · rfl
  · split
    · split <;> rfl
    · rfl
@[simp] theorem Iss.advance_wv_yielded (f : Info) (mk : Bool) (x : Iss) : (x.advance f mk).wv.yielded = x.wv.yielded := by
  unfold Iss.advance
  split
  · rfl
  · split
    · split <;> rfl
    · rfl
@[simp] theorem Iss.advance_wv_live (f : Info) (mk : Bool) (x : Iss) : (x.advance f mk).wv.live = x.wv.live := by
  unfold Iss.advance
  split
  · rfl
  · split
    · split <;> rfl
    · rfl
@[simp] theorem Iss.advance_wv_forced (f : Info) (mk : Bool) (x : Iss) : (x.advance f mk).wv.forced = x.wv.forced := by
  unfold Iss.advance
  split
  · rfl
  · split
    · split <;> rfl
    · rfl
@[simp] theorem Iss.advance_wv_age (f : Info) (mk : Bool) (x : Iss) : (x.advance f mk).wv.age = x.wv.age := by
  unfold Iss.advance
  split
  · rfl
  · split
    · split <;> rfl
    · rfl
@[simp] theorem Iss.advance_wv_turn (f : Info) (mk : Bool) (x : Iss) : (x.advance f mk).wv.turn = x.wv.turn := by
  unfold Iss.advance
  split
  · rfl
  · split
    · split <;> rfl
    · rfl
@[simp] theorem Iss.advance_wv_placed (f : Info) (mk : Bool) (x : Iss) : (x.advance f mk).wv.placed = x.wv.placed := by
  unfold Iss.advance
  split
  · rfl
  · split
    · split <;> rfl
    · rfl
@[simp] theorem Iss.advance_wv_status (f : Info) (mk : Bool) (x : Iss) : (x.advance f mk).wv.status = x.wv.status := by
  unfold Iss.advance
  split
  · rfl
  · split
    · split <;> rfl
    · rfl

/-! ## Taking a trap -/

/-- A trap in service mode parks the wave (R287). -/
theorem Iss.takeTrap_service {x : Iss} (t : Trap) (lane noslot : Bool) (fmask : Mask) (epc : BitVec 48)
    (h : x.inService = true) :
    x.takeTrap t lane noslot fmask epc = x.commit.servicePark x.st.cur t.cause x.wv.svcPc.toNat := by
  simp [Iss.takeTrap, h]

/-- A trap with a result of the wave in flight, or of a wave that has parked, leaves the split trapped, its record kept (R283, R288). -/
theorem Iss.takeTrap_flight {x : Iss} (t : Trap) (lane noslot : Bool) (fmask : Mask) (epc : BitVec 48)
    (h : x.inService = false) (hf : (x.st.inFlight x.tm x.wv || x.wv.park.isSome) = true) :
    x.takeTrap t lane noslot fmask epc = Iss.commit { x with
      sp := { x.sp with
        status := .trapped, only := none, record := FaultRec.of t lane noslot x.slot fmask x.siblings epc } } := by
  simp only [Iss.takeTrap, h, hf, Bool.false_eq_true, if_false, if_true]

/-- A trap with nothing in flight, of a wave that has not parked, enters service mode (R283). -/
theorem Iss.takeTrap_entry {x : Iss} (t : Trap) (lane noslot : Bool) (fmask : Mask) (epc : BitVec 48)
    (h : x.inService = false) (hf : x.st.inFlight x.tm x.wv = false) (hp : x.wv.park = none) :
    x.takeTrap t lane noslot fmask epc = (Iss.commit { x with
      sp := { x.sp with
        status := .trapped, only := none
        record := FaultRec.of t lane noslot x.slot fmask x.siblings epc } }).enterService x.st.cur := by
  simp [Iss.takeTrap, h, hf, hp]

/-- Whatever a trap does, it leaves memory, cores and contexts alone outside service mode with a handler named. -/
theorem State.enterService_handler {s : State} {c : Cursor} {t : Team} {w : Wave} (hw : s.waveAt c = some (t, w))
    (hv : w.tvecObj ≠ 0) :
    s.enterService c = s.setWaveAt c { w.clearPending with
      marker := false, svc := some c.slot, svcPc := BitVec.ofNat 48 (w.tvecEntry.toNat * 64), svcWait := none } := by
  unfold State.enterService
  rw [hw]
  exact if_neg hv

end Sys2Proof.Machine
end

