-- ==== Sys2Proof/Laws/PerInstr.lean ====
section
/-! SUPPORT. Facts about every instruction, one lemma per constructor. -/

/-- Bit 0 of an instruction's first parcel says how many bytes it has and bit 1 is set where the instruction takes effect as a
marker, which a REP never does (R50, R76, R79). -/
def Sys2Proof.Laws.Parcels.Statement (i : Sys2Proof.Instr) : Prop :=
  ∀ n w : Nat, Sys2Proof.encode i = some (n, w) →
    (n = 2 ∨ n = 4) ∧ Sys2Proof.instrBytes w = n ∧ (Sys2Proof.Machine.markerOf i = true → w / 2 % 2 = 1)

namespace Sys2Proof.Laws.Parcels

theorem vadd (t : IntType) (m : MReg) (b : VReg) (a : VReg) (d : VReg) (mk : Bool) : Statement (.vadd t m b a d mk) :=
  fun n w h => parcels_word32 _ _ n w (by simp) h
theorem vsub (t : IntType) (m : MReg) (b : VReg) (a : VReg) (d : VReg) (mk : Bool) : Statement (.vsub t m b a d mk) :=
  fun n w h => parcels_word32 _ _ n w (by simp) h
theorem vmul (t : IntType) (m : MReg) (b : VReg) (a : VReg) (d : VReg) (mk : Bool) : Statement (.vmul t m b a d mk) :=
  fun n w h => parcels_word32 _ _ n w (by simp) h
theorem vmin (t : IntType) (m : MReg) (b : VReg) (a : VReg) (d : VReg) (mk : Bool) : Statement (.vmin t m b a d mk) :=
  fun n w h => parcels_word32 _ _ n w (by simp) h
theorem vmax (t : IntType) (m : MReg) (b : VReg) (a : VReg) (d : VReg) (mk : Bool) : Statement (.vmax t m b a d mk) :=
  fun n w h => parcels_word32 _ _ n w (by simp) h
theorem vshl (t : IntType) (m : MReg) (b : VReg) (a : VReg) (d : VReg) (mk : Bool) : Statement (.vshl t m b a d mk) :=
  fun n w h => parcels_word32 _ _ n w (by simp) h
theorem vshr (t : IntType) (m : MReg) (b : VReg) (a : VReg) (d : VReg) (mk : Bool) : Statement (.vshr t m b a d mk) :=
  fun n w h => parcels_word32 _ _ n w (by simp) h
theorem vand (m : MReg) (b : VReg) (a : VReg) (d : VReg) (mk : Bool) : Statement (.vand m b a d mk) :=
  fun n w h => parcels_word32 _ _ n w (by simp) h
theorem vor (m : MReg) (b : VReg) (a : VReg) (d : VReg) (mk : Bool) : Statement (.vor m b a d mk) :=
  fun n w h => parcels_word32 _ _ n w (by simp) h
theorem vxor (m : MReg) (b : VReg) (a : VReg) (d : VReg) (mk : Bool) : Statement (.vxor m b a d mk) :=
  fun n w h => parcels_word32 _ _ n w (by simp) h
theorem vcmp (t : IntType) (m : MReg) (b : VReg) (a : VReg) (c : CmpCond) (md : MReg) (mk : Bool) : Statement (.vcmp t m b a c md mk) :=
  fun n w h => parcels_word32 _ _ n w (by simp) h
theorem vsel (m : MReg) (b : VReg) (a : VReg) (d : VReg) (mk : Bool) : Statement (.vsel m b a d mk) :=
  fun n w h => parcels_word32 _ _ n w (by simp) h
theorem vmad (c : VReg) (b : VReg) (a : VReg) (d : VReg) (mk : Bool) : Statement (.vmad c b a d mk) :=
  fun n w h => parcels_word32 _ _ n w (by simp) h
theorem vaddImm (imm : BitVec 12) (a : VReg) (d : VReg) (mk : Bool) : Statement (.vaddImm imm a d mk) :=
  fun n w h => parcels_word32 _ _ n w (by simp) h
theorem vmov (m : MReg) (a : VReg) (d : VReg) (mk : Bool) : Statement (.vmov m a d mk) :=
  fun n w h => parcels_word32 _ _ n w (by simp) h
theorem vmovBcast (m : MReg) (a : SReg) (d : VReg) (mk : Bool) : Statement (.vmovBcast m a d mk) :=
  fun n w h => parcels_word32 _ _ n w (by simp) h
theorem vmovMask (m : MReg) (a : MReg) (d : VReg) (mk : Bool) : Statement (.vmovMask m a d mk) :=
  fun n w h => parcels_word32 _ _ n w (by simp) h
theorem vidx (m : MReg) (fn : LaneIndex) (d : VReg) (mk : Bool) : Statement (.vidx m fn d mk) :=
  fun n w h => parcels_word32 _ _ n w (by simp) h
theorem vbit (t : IntType) (m : MReg) (fn : VBitFn) (a : VReg) (d : VReg) (mk : Bool) : Statement (.vbit t m fn a d mk) :=
  fun n w h => parcels_word32 _ _ n w (by simp) h
theorem vshfl (op : ShflOp) (m : MReg) (b : VReg) (a : VReg) (d : VReg) (mk : Bool) : Statement (.vshfl op m b a d mk) :=
  fun n w h => parcels_word32 _ _ n w (by simp) h
theorem vvote (m : MReg) (op : VoteOp) (a : VReg) (d : SReg) (mk : Bool) : Statement (.vvote m op a d mk) :=
  fun n w h => parcels_word32 _ _ n w (by simp) h
theorem vred (m : MReg) (op : RedOp) (a : VReg) (d : VReg) (mk : Bool) : Statement (.vred m op a d mk) :=
  fun n w h => parcels_word32 _ _ n w (by simp) h
theorem vscan (excl : Bool) (m : MReg) (op : RedOp) (a : VReg) (d : VReg) (mk : Bool) : Statement (.vscan excl m op a d mk) :=
  fun n w h => parcels_word32 _ _ n w (by simp) h
theorem vfadd (t : FltType) (m : MReg) (b : VReg) (a : VReg) (d : VReg) (mk : Bool) : Statement (.vfadd t m b a d mk) :=
  fun n w h => parcels_word32 _ _ n w (by simp) h
theorem vfsub (t : FltType) (m : MReg) (b : VReg) (a : VReg) (d : VReg) (mk : Bool) : Statement (.vfsub t m b a d mk) :=
  fun n w h => parcels_word32 _ _ n w (by simp) h
theorem vfmul (t : FltType) (m : MReg) (b : VReg) (a : VReg) (d : VReg) (mk : Bool) : Statement (.vfmul t m b a d mk) :=
  fun n w h => parcels_word32 _ _ n w (by simp) h
theorem vfmin (t : FltType) (m : MReg) (b : VReg) (a : VReg) (d : VReg) (mk : Bool) : Statement (.vfmin t m b a d mk) :=
  fun n w h => parcels_word32 _ _ n w (by simp) h
theorem vfmax (t : FltType) (m : MReg) (b : VReg) (a : VReg) (d : VReg) (mk : Bool) : Statement (.vfmax t m b a d mk) :=
  fun n w h => parcels_word32 _ _ n w (by simp) h
theorem vfcmp (t : FltType) (m : MReg) (b : VReg) (a : VReg) (c : CmpCond) (md : MReg) (mk : Bool) : Statement (.vfcmp t m b a c md mk) :=
  fun n w h => parcels_word32 _ _ n w (by simp) h
theorem vfma (c : VReg) (b : VReg) (a : VReg) (d : VReg) (mk : Bool) : Statement (.vfma c b a d mk) :=
  fun n w h => parcels_word32 _ _ n w (by simp) h
theorem vfmaF64 (c : VReg) (b : VReg) (a : VReg) (d : VReg) (mk : Bool) : Statement (.vfmaF64 c b a d mk) :=
  fun n w h => parcels_word32 _ _ n w (by simp) h
theorem vsfn (t : SfnType) (m : MReg) (fn : SfnOp) (a : VReg) (d : VReg) (mk : Bool) : Statement (.vsfn t m fn a d mk) :=
  fun n w h => parcels_word32 _ _ n w (by simp) h
theorem vcvt (rnd : CvtRound) (m : MReg) (dst : CvtFmt) (src : CvtFmt) (a : VReg) (d : VReg) (mk : Bool) : Statement (.vcvt rnd m dst src a d mk) :=
  fun n w h => parcels_word32 _ _ n w (by simp) h
theorem smxu (m : MReg) (b : VReg) (a : VReg) (d : VReg) (mk : Bool) : Statement (.smxu m b a d mk) :=
  fun n w h => parcels_word32 _ _ n w (by simp) h
theorem smxf (m : MReg) (a : VReg) (d : VReg) (mk : Bool) : Statement (.smxf m a d mk) :=
  fun n w h => parcels_word32 _ _ n w (by simp) h
theorem cmprs (pat : SparsePat) (b : SReg) (a : SReg) (d : VReg) (mk : Bool) : Statement (.cmprs pat b a d mk) :=
  fun n w h => parcels_word32 _ _ n w (by simp) h
theorem sadd (b : SReg) (a : SReg) (d : SReg) (mk : Bool) : Statement (.sadd b a d mk) :=
  fun n w h => parcels_word32 _ _ n w (by simp) h
theorem ssub (b : SReg) (a : SReg) (d : SReg) (mk : Bool) : Statement (.ssub b a d mk) :=
  fun n w h => parcels_word32 _ _ n w (by simp) h
theorem smul (b : SReg) (a : SReg) (d : SReg) (mk : Bool) : Statement (.smul b a d mk) :=
  fun n w h => parcels_word32 _ _ n w (by simp) h
theorem smulh (nat : Bool) (b : SReg) (a : SReg) (d : SReg) (mk : Bool) : Statement (.smulh nat b a d mk) :=
  fun n w h => parcels_word32 _ _ n w (by simp) h
theorem sdiv (nat : Bool) (b : SReg) (a : SReg) (d : SReg) (mk : Bool) : Statement (.sdiv nat b a d mk) :=
  fun n w h => parcels_word32 _ _ n w (by simp) h
theorem srem (nat : Bool) (b : SReg) (a : SReg) (d : SReg) (mk : Bool) : Statement (.srem nat b a d mk) :=
  fun n w h => parcels_word32 _ _ n w (by simp) h
theorem sand (b : SReg) (a : SReg) (d : SReg) (mk : Bool) : Statement (.sand b a d mk) :=
  fun n w h => parcels_word32 _ _ n w (by simp) h
theorem sor (b : SReg) (a : SReg) (d : SReg) (mk : Bool) : Statement (.sor b a d mk) :=
  fun n w h => parcels_word32 _ _ n w (by simp) h
theorem sxor (b : SReg) (a : SReg) (d : SReg) (mk : Bool) : Statement (.sxor b a d mk) :=
  fun n w h => parcels_word32 _ _ n w (by simp) h
theorem sshl (b : SReg) (a : SReg) (d : SReg) (mk : Bool) : Statement (.sshl b a d mk) :=
  fun n w h => parcels_word32 _ _ n w (by simp) h
theorem sshr (arith : Bool) (b : SReg) (a : SReg) (d : SReg) (mk : Bool) : Statement (.sshr arith b a d mk) :=
  fun n w h => parcels_word32 _ _ n w (by simp) h
theorem smin (nat : Bool) (b : SReg) (a : SReg) (d : SReg) (mk : Bool) : Statement (.smin nat b a d mk) :=
  fun n w h => parcels_word32 _ _ n w (by simp) h
theorem smax (nat : Bool) (b : SReg) (a : SReg) (d : SReg) (mk : Bool) : Statement (.smax nat b a d mk) :=
  fun n w h => parcels_word32 _ _ n w (by simp) h
theorem sbit (fn : SBitFn) (a : SReg) (d : SReg) (mk : Bool) : Statement (.sbit fn a d mk) :=
  fun n w h => parcels_word32 _ _ n w (by simp) h
theorem smov (a : SReg) (d : SReg) (mk : Bool) : Statement (.smov a d mk) := fun n w h => parcels_word32 _ _ n w (by simp) h
theorem scmp (nat : Bool) (b : SReg) (a : SReg) (mk : Bool) : Statement (.scmp nat b a mk) :=
  fun n w h => parcels_word32 _ _ n w (by simp) h
theorem ssel (c : BrCond) (b : SReg) (a : SReg) (d : SReg) (mk : Bool) : Statement (.ssel c b a d mk) :=
  fun n w h => parcels_word32 _ _ n w (by simp) h
theorem saddImm (imm : BitVec 10) (a : SReg) (d : SReg) (mk : Bool) : Statement (.saddImm imm a d mk) :=
  fun n w h => parcels_word32 _ _ n w (by simp) h
theorem sandImm (imm : BitVec 10) (a : SReg) (d : SReg) (mk : Bool) : Statement (.sandImm imm a d mk) :=
  fun n w h => parcels_word32 _ _ n w (by simp) h
theorem sorImm (imm : BitVec 10) (a : SReg) (d : SReg) (mk : Bool) : Statement (.sorImm imm a d mk) :=
  fun n w h => parcels_word32 _ _ n w (by simp) h
theorem sxorImm (imm : BitVec 10) (a : SReg) (d : SReg) (mk : Bool) : Statement (.sxorImm imm a d mk) :=
  fun n w h => parcels_word32 _ _ n w (by simp) h
theorem scmpImm (imm : BitVec 12) (a : SReg) (nat : Bool) (mk : Bool) : Statement (.scmpImm imm a nat mk) :=
  fun n w h => parcels_word32 _ _ n w (by simp) h
theorem sli (imm : BitVec 16) (h : Fin 4) (d : SReg) (mk : Bool) : Statement (.sli imm h d mk) :=
  fun n w h => parcels_word32 _ _ n w (by simp) h
theorem smovV (lane : Fin 32) (a : VReg) (d : SReg) (mk : Bool) : Statement (.smovV lane a d mk) :=
  fun n w h => parcels_word32 _ _ n w (by simp) h
theorem smovM (a : MReg) (d : SReg) (mk : Bool) : Statement (.smovM a d mk) := fun n w h => parcels_word32 _ _ n w (by simp) h
theorem smovCcRead (d : SReg) (mk : Bool) : Statement (.smovCcRead d mk) := fun n w h => parcels_word32 _ _ n w (by simp) h
theorem smovCcWrite (a : SReg) (mk : Bool) : Statement (.smovCcWrite a mk) := fun n w h => parcels_word32 _ _ n w (by simp) h
theorem mlog (op : MaskOp) (b : MReg) (a : MReg) (d : MReg) (mk : Bool) : Statement (.mlog op b a d mk) :=
  fun n w h => parcels_word32 _ _ n w (by simp) h
theorem mlogNot (a : MReg) (d : MReg) (mk : Bool) : Statement (.mlogNot a d mk) := fun n w h => parcels_word32 _ _ n w (by simp) h
theorem mcnt (fn : MaskCount) (a : MReg) (d : SReg) (mk : Bool) : Statement (.mcnt fn a d mk) :=
  fun n w h => parcels_word32 _ _ n w (by simp) h
theorem mset (a : SReg) (md : MReg) (mk : Bool) : Statement (.mset a md mk) := fun n w h => parcels_word32 _ _ n w (by simp) h
theorem msetAll (md : MReg) (mk : Bool) : Statement (.msetAll md mk) := fun n w h => parcels_word32 _ _ n w (by simp) h
theorem msetNone (md : MReg) (mk : Bool) : Statement (.msetNone md mk) := fun n w h => parcels_word32 _ _ n w (by simp) h
theorem msetFirst (md : MReg) (mk : Bool) : Statement (.msetFirst md mk) := fun n w h => parcels_word32 _ _ n w (by simp) h
theorem br (off : BitVec 20) (c : BrCond) (mk : Bool) : Statement (.br off c mk) :=
  fun n w h => parcels_word32 _ _ n w (by simp) h
theorem bmz (off : BitVec 20) (z : Bool) (m : MReg) (mk : Bool) : Statement (.bmz off z m mk) :=
  fun n w h => parcels_word32 _ _ n w (by simp) h
theorem call (off : BitVec 24) (mk : Bool) : Statement (.call off mk) := fun n w h => parcels_word32 _ _ n w (by simp) h
theorem fork (off : BitVec 20) (m : MReg) (mk : Bool) : Statement (.fork off m mk) :=
  fun n w h => parcels_word32 _ _ n w (by simp) h
theorem nop (mk : Bool) : Statement (.nop mk) := fun n w h => parcels_word32 _ _ n w (by simp) h
theorem join (mk : Bool) : Statement (.join mk) := fun n w h => parcels_word32 _ _ n w (by simp) h
theorem exit (mk : Bool) : Statement (.exit mk) := fun n w h => parcels_word32 _ _ n w (by simp) h
theorem killpt (mk : Bool) : Statement (.killpt mk) := fun n w h => parcels_word32 _ _ n w (by simp) h
theorem ret (t : SReg) (mk : Bool) : Statement (.ret t mk) := fun n w h => parcels_word32 _ _ n w (by simp) h
theorem yieldWave (u : Bool) (lm : SReg) (mk : Bool) : Statement (.yieldWave u lm mk) :=
  fun n w h => parcels_word32 _ _ n w (by simp) h
theorem rep (stride : Fin 4) (stepB : Bool) (stepA : Bool) (stepD : Bool) (count : Fin 64) (mk : Bool) : Statement (.rep stride stepB stepA stepD count mk) :=
  fun n w h => have p := parcels_word32 (mk := mk) _ _ n w (by simp) h; ⟨p.1, p.2.1, nofun⟩
theorem ld (sc : Scope) (o : Bool) (w : Width) (xs : Bool) (x : VReg) (k : KReg) (d : VReg) (mk : Bool) : Statement (.ld sc o w xs x k d mk) :=
  fun n w h => parcels_word32 _ _ n w (by simp) h
theorem ldScalar (sc : Scope) (o : Bool) (w : Width) (xs : Bool) (x : SReg) (k : KReg) (d : SReg) (mk : Bool) : Statement (.ldScalar sc o w xs x k d mk) :=
  fun n w h => parcels_word32 _ _ n w (by simp) h
theorem st (sc : Scope) (o : Bool) (w : Width) (xs : Bool) (x : VReg) (k : KReg) (d : VReg) (mk : Bool) : Statement (.st sc o w xs x k d mk) :=
  fun n w h => parcels_word32 _ _ n w (by simp) h
theorem stScalar (sc : Scope) (o : Bool) (w : Width) (xs : Bool) (x : SReg) (k : KReg) (d : SReg) (mk : Bool) : Statement (.stScalar sc o w xs x k d mk) :=
  fun n w h => parcels_word32 _ _ n w (by simp) h
theorem lds (off : Fin 128) (w : Width) (xs : Bool) (x : VReg) (d : VReg) (mk : Bool) : Statement (.lds off w xs x d mk) :=
  fun n w h => parcels_word32 _ _ n w (by simp) h
theorem sts (off : Fin 128) (w : Width) (xs : Bool) (x : VReg) (d : VReg) (mk : Bool) : Statement (.sts off w xs x d mk) :=
  fun n w h => parcels_word32 _ _ n w (by simp) h
theorem ldp (off : BitVec 12) (w : ParamWidth) (scalar : Bool) (p : Fin 8) (d : Fin 64) (mk : Bool) : Statement (.ldp off w scalar p d mk) :=
  fun n w h => parcels_word32 _ _ n w (by simp) h
theorem atom (sc : Scope) (wide : Bool) (op : AtomOp) (x : VReg) (k : KReg) (d : VReg) (mk : Bool) : Statement (.atom sc wide op x k d mk) :=
  fun n w h => parcels_word32 _ _ n w (by simp) h
theorem atomAr (sc : Scope) (wide : Bool) (op : AtomOp) (x : VReg) (k : KReg) (d : VReg) (mk : Bool) : Statement (.atomAr sc wide op x k d mk) :=
  fun n w h => parcels_word32 _ _ n w (by simp) h
theorem atoms (wide : Bool) (op : AtomOp) (x : VReg) (d : VReg) (mk : Bool) : Statement (.atoms wide op x d mk) :=
  fun n w h => parcels_word32 _ _ n w (by simp) h
theorem fence (sc : Scope) (kind : FenceKind) (mk : Bool) : Statement (.fence sc kind mk) :=
  fun n w h => parcels_word32 _ _ n w (by simp) h
theorem waita (sc : Scope) (eq : Bool) (b : SReg) (a : SReg) (k : KReg) (mk : Bool) : Statement (.waita sc eq b a k mk) :=
  fun n w h => parcels_word32 _ _ n w (by simp) h
theorem cmake (b : SReg) (a : SReg) (kd : KReg) (mk : Bool) : Statement (.cmake b a kd mk) :=
  fun n w h => parcels_word32 _ _ n w (by simp) h
theorem cnarrow (b : SReg) (a : SReg) (ks : KReg) (kd : KReg) (mk : Bool) : Statement (.cnarrow b a ks kd mk) :=
  fun n w h => parcels_word32 _ _ n w (by simp) h
theorem cload (a : SReg) (ks : KReg) (kd : KReg) (mk : Bool) : Statement (.cload a ks kd mk) :=
  fun n w h => parcels_word32 _ _ n w (by simp) h
theorem cstore (a : SReg) (ks : KReg) (kd : KReg) (mk : Bool) : Statement (.cstore a ks kd mk) :=
  fun n w h => parcels_word32 _ _ n w (by simp) h
theorem cinfo (sel : CapField) (a : SReg) (ks : KReg) (mk : Bool) : Statement (.cinfo sel a ks mk) :=
  fun n w h => parcels_word32 _ _ n w (by simp) h
theorem cpy (t : SReg) (p : SReg) (ks : KReg) (kd : KReg) (mk : Bool) : Statement (.cpy t p ks kd mk) :=
  fun n w h => parcels_word32 _ _ n w (by simp) h
theorem gath (t : SReg) (p : SReg) (ks : KReg) (mk : Bool) : Statement (.gath t p ks mk) :=
  fun n w h => parcels_word32 _ _ n w (by simp) h
theorem bld (t : SReg) (p : SReg) (ks : KReg) (mk : Bool) : Statement (.bld t p ks mk) :=
  fun n w h => parcels_word32 _ _ n w (by simp) h
theorem coll (t : SReg) (p : SReg) (ks : KReg) (kd : KReg) (mk : Bool) : Statement (.coll t p ks kd mk) :=
  fun n w h => parcels_word32 _ _ n w (by simp) h
theorem ewait (t : SReg) (mk : Bool) : Statement (.ewait t mk) := fun n w h => parcels_word32 _ _ n w (by simp) h
theorem mma (ac : Bool) (p : Bool) (fw : VReg) (sb : SReg) (rg : Fin 8) (t : AReg) (mk : Bool) : Statement (.mma ac p fw sb rg t mk) :=
  fun n w h => parcels_word32 _ _ n w (by simp) h
theorem mmas (ac : Bool) (p : Bool) (fw : VReg) (sb : SReg) (rg : Fin 8) (t : AReg) (mk : Bool) : Statement (.mmas ac p fw sb rg t mk) :=
  fun n w h => parcels_word32 _ _ n w (by simp) h
theorem mmac (ac : Bool) (p : Bool) (fw : VReg) (sb : SReg) (rg : Fin 8) (t : AReg) (mk : Bool) : Statement (.mmac ac p fw sb rg t mk) :=
  fun n w h => parcels_word32 _ _ n w (by simp) h
theorem mmax (ac : Bool) (p : Bool) (fw : VReg) (sb : SReg) (rg : Fin 8) (t : AReg) (mk : Bool) : Statement (.mmax ac p fw sb rg t mk) :=
  fun n w h => parcels_word32 _ _ n w (by simp) h
theorem aclr (t : AReg) (mk : Bool) : Statement (.aclr t mk) := fun n w h => parcels_word32 _ _ n w (by simp) h
theorem ald (fmt : ElemFmt) (v : VReg) (rg : Fin 8) (t : AReg) (mk : Bool) : Statement (.ald fmt v rg t mk) :=
  fun n w h => parcels_word32 _ _ n w (by simp) h
theorem ast (fmt : ElemFmt) (v : VReg) (rg : Fin 8) (t : AReg) (mk : Bool) : Statement (.ast fmt v rg t mk) :=
  fun n w h => parcels_word32 _ _ n w (by simp) h
theorem stga (ph : Bool) (sl : Fin 64) (rg : Fin 8) (mk : Bool) : Statement (.stga ph sl rg mk) :=
  fun n w h => parcels_word32 _ _ n w (by simp) h
theorem stgw (ph : Bool) (sl : Fin 64) (rg : Fin 8) (mk : Bool) : Statement (.stgw ph sl rg mk) :=
  fun n w h => parcels_word32 _ _ n w (by simp) h
theorem post (mode : PostMode) (y : SReg) (v : VReg) (k : KReg) (mk : Bool) : Statement (.post mode y v k mk) :=
  fun n w h => parcels_word32 _ _ n w (by simp) h
theorem resv (y : SReg) (v : SReg) (k : KReg) (mk : Bool) : Statement (.resv y v k mk) :=
  fun n w h => parcels_word32 _ _ n w (by simp) h
theorem publ (v : VReg) (k : KReg) (mk : Bool) : Statement (.publ v k mk) := fun n w h => parcels_word32 _ _ n w (by simp) h
theorem autld (b : SReg) (a : SReg) (k : KReg) (mk : Bool) : Statement (.autld b a k mk) :=
  fun n w h => parcels_word32 _ _ n w (by simp) h
theorem autctl (op : AutCtlOp) (b : SReg) (a : SReg) (mk : Bool) : Statement (.autctl op b a mk) :=
  fun n w h => parcels_word32 _ _ n w (by simp) h
theorem autq (q : AutQuery) (b : SReg) (a : SReg) (mk : Bool) : Statement (.autq q b a mk) :=
  fun n w h => parcels_word32 _ _ n w (by simp) h
theorem qopen (a : SReg) (k : KReg) (mk : Bool) : Statement (.qopen a k mk) := fun n w h => parcels_word32 _ _ n w (by simp) h
theorem qarr (b : SReg) (a : SReg) (mk : Bool) : Statement (.qarr b a mk) := fun n w h => parcels_word32 _ _ n w (by simp) h
theorem qstat (b : SReg) (a : SReg) (mk : Bool) : Statement (.qstat b a mk) := fun n w h => parcels_word32 _ _ n w (by simp) h
theorem qscale (b : SReg) (a : SReg) (mk : Bool) : Statement (.qscale b a mk) := fun n w h => parcels_word32 _ _ n w (by simp) h
theorem bar (cnt : SReg) (sc : Scope) (id : Fin 32) (mk : Bool) : Statement (.bar cnt sc id mk) :=
  fun n w h => parcels_word32 _ _ n w (by simp) h
theorem bara (cnt : SReg) (sc : Scope) (id : Fin 32) (mk : Bool) : Statement (.bara cnt sc id mk) :=
  fun n w h => parcels_word32 _ _ n w (by simp) h
theorem barw (sc : Scope) (id : Fin 32) (mk : Bool) : Statement (.barw sc id mk) :=
  fun n w h => parcels_word32 _ _ n w (by simp) h
theorem part (t : TileCode) (mk : Bool) : Statement (.part t mk) := fun n w h => parcels_word32 _ _ n w (by simp) h
theorem trap (code : Fin 32) (mk : Bool) : Statement (.trap code mk) := fun n w h => parcels_word32 _ _ n w (by simp) h
theorem rett (mk : Bool) : Statement (.rett mk) := fun n w h => parcels_word32 _ _ n w (by simp) h
theorem mfsr (n : SysReg) (d : SReg) (mk : Bool) : Statement (.mfsr n d mk) := fun n w h => parcels_word32 _ _ n w (by simp) h
theorem mtsr (n : SysReg) (d : SReg) (mk : Bool) : Statement (.mtsr n d mk) := fun n w h => parcels_word32 _ _ n w (by simp) h
theorem oinv (d : SReg) (mk : Bool) : Statement (.oinv d mk) := fun n w h => parcels_word32 _ _ n w (by simp) h
theorem bkpt (code : Fin 16) (mk : Bool) : Statement (.bkpt code mk) := fun n w h => parcels_word32 _ _ n w (by simp) h
theorem cntrd (n : Fin 8) (d : SReg) (mk : Bool) : Statement (.cntrd n d mk) := fun n w h => parcels_word32 _ _ n w (by simp) h
theorem vaddH (b : Fin 32) (d : Fin 32) (mk : Bool) : Statement (.vaddH b d mk) := fun n w h => parcels_word16 _ _ _ n w h
theorem vsubH (b : Fin 32) (d : Fin 32) (mk : Bool) : Statement (.vsubH b d mk) := fun n w h => parcels_word16 _ _ _ n w h
theorem vmulH (b : Fin 32) (d : Fin 32) (mk : Bool) : Statement (.vmulH b d mk) := fun n w h => parcels_word16 _ _ _ n w h
theorem vandH (b : Fin 32) (d : Fin 32) (mk : Bool) : Statement (.vandH b d mk) := fun n w h => parcels_word16 _ _ _ n w h
theorem vorH (b : Fin 32) (d : Fin 32) (mk : Bool) : Statement (.vorH b d mk) := fun n w h => parcels_word16 _ _ _ n w h
theorem vxorH (b : Fin 32) (d : Fin 32) (mk : Bool) : Statement (.vxorH b d mk) := fun n w h => parcels_word16 _ _ _ n w h
theorem vshlH (b : Fin 32) (d : Fin 32) (mk : Bool) : Statement (.vshlH b d mk) := fun n w h => parcels_word16 _ _ _ n w h
theorem vshrH (b : Fin 32) (d : Fin 32) (mk : Bool) : Statement (.vshrH b d mk) := fun n w h => parcels_word16 _ _ _ n w h
theorem vminH (b : Fin 32) (d : Fin 32) (mk : Bool) : Statement (.vminH b d mk) := fun n w h => parcels_word16 _ _ _ n w h
theorem vmaxH (b : Fin 32) (d : Fin 32) (mk : Bool) : Statement (.vmaxH b d mk) := fun n w h => parcels_word16 _ _ _ n w h
theorem vfaddH (b : Fin 32) (d : Fin 32) (mk : Bool) : Statement (.vfaddH b d mk) := fun n w h => parcels_word16 _ _ _ n w h
theorem vfsubH (b : Fin 32) (d : Fin 32) (mk : Bool) : Statement (.vfsubH b d mk) := fun n w h => parcels_word16 _ _ _ n w h
theorem vfmulH (b : Fin 32) (d : Fin 32) (mk : Bool) : Statement (.vfmulH b d mk) := fun n w h => parcels_word16 _ _ _ n w h
theorem vfmaxH (b : Fin 32) (d : Fin 32) (mk : Bool) : Statement (.vfmaxH b d mk) := fun n w h => parcels_word16 _ _ _ n w h
theorem vfminH (b : Fin 32) (d : Fin 32) (mk : Bool) : Statement (.vfminH b d mk) := fun n w h => parcels_word16 _ _ _ n w h
theorem vmovH (b : Fin 32) (d : Fin 32) (mk : Bool) : Statement (.vmovH b d mk) := fun n w h => parcels_word16 _ _ _ n w h
theorem moduleReset : Statement .moduleReset := fun _ _ h => nomatch h
theorem hostTrafficBeforeRun : Statement .hostTrafficBeforeRun := fun _ _ h => nomatch h
theorem hostMemAccess (pa : Nat) (op : BusOp) : Statement (.hostMemAccess pa op) := fun _ _ h => nomatch h
theorem hostHeadStore (block : Nat) (value : BitVec 64) : Statement (.hostHeadStore block value) := fun _ _ h => nomatch h
theorem hostTailCas (block : Nat) (compare : BitVec 64) (value : BitVec 64) : Statement (.hostTailCas block compare value) :=
  fun _ _ h => nomatch h
theorem oinvreq (ctx : Nat) (revoke : Bool) (obj : BitVec 24) : Statement (.oinvreq ctx revoke obj) := fun _ _ h => nomatch h
theorem shootDownAck (ctx : Nat) : Statement (.shootDownAck ctx) := fun _ _ h => nomatch h
theorem replay (ctx : Nat) (obj : BitVec 24) : Statement (.replay ctx obj) := fun _ _ h => nomatch h
theorem teamkill (ctx : Nat) (die : Fin 4) (team : BitVec 32) : Statement (.teamkill ctx die team) := fun _ _ h => nomatch h
theorem contextSave (ctx : Nat) : Statement (.contextSave ctx) := fun _ _ h => nomatch h
theorem contextRestore (ctx : Nat) : Statement (.contextRestore ctx) := fun _ _ h => nomatch h
theorem contextTearDown (ctx : Nat) : Statement (.contextTearDown ctx) := fun _ _ h => nomatch h
theorem preemptRequest (ctx : Nat) (die : Fin 4) (core : Nat) : Statement (.preemptRequest ctx die core) := fun _ _ h => nomatch h
theorem forcedSave (team : Nat) (wave : Nat) : Statement (.forcedSave team wave) := fun _ _ h => nomatch h
theorem saveImageWrite (ctx : Nat) : Statement (.saveImageWrite ctx) := fun _ _ h => nomatch h
theorem debugStop (ctx : Nat) : Statement (.debugStop ctx) := fun _ _ h => nomatch h
theorem debugStopComplete (team : Nat) : Statement (.debugStopComplete team) := fun _ _ h => nomatch h
theorem debugResume (ctx : Nat) (intact : Bool) (edits : List DebugEdit) : Statement (.debugResume ctx intact edits) :=
  fun _ _ h => nomatch h
theorem debugDump (ctx : Nat) : Statement (.debugDump ctx) := fun _ _ h => nomatch h
theorem sampctlWrite (value : BitVec 64) : Statement (.sampctlWrite value) := fun _ _ h => nomatch h
theorem cntselWrite (die : Fin 4) (core : Nat) (j : Fin 8) (value : BitVec 64) : Statement (.cntselWrite die core j value) :=
  fun _ _ h => nomatch h
theorem registerWrite (offset : Nat) (value : BitVec 64) : Statement (.registerWrite offset value) := fun _ _ h => nomatch h
theorem pcSample (die : Fin 4) (core : Nat) (quarter : Fin 4) : Statement (.pcSample die core quarter) := fun _ _ h => nomatch h
theorem droopEvent (die : Fin 4) (quad : Nat) : Statement (.droopEvent die quad) := fun _ _ h => nomatch h
theorem droopRecovery (die : Fin 4) (quad : Nat) : Statement (.droopRecovery die quad) := fun _ _ h => nomatch h
theorem podJoin (module : BitVec 13) (ctx : Nat) (peers : List (Nat × Nat)) : Statement (.podJoin module ctx peers) :=
  fun _ _ h => nomatch h
theorem podModuleLoss (module : Nat) : Statement (.podModuleLoss module) := fun _ _ h => nomatch h
theorem softError (die : Fin 4) (slice : Nat) (num : Nat) : Statement (.softError die slice num) := fun _ _ h => nomatch h
theorem sectorFill (die : Fin 4) (core : Nat) (ctx : Nat) (cap : BitVec 128) (off : Nat) : Statement (.sectorFill die core ctx cap off) :=
  fun _ _ h => nomatch h
theorem sectorWriteback (die : Fin 4) (core : Nat) (index : Nat) (evict : Bool) : Statement (.sectorWriteback die core index evict) :=
  fun _ _ h => nomatch h
theorem partialWrite (pa : Nat) (dom : Nat) (bytes : List (BitVec 8)) : Statement (.partialWrite pa dom bytes) :=
  fun _ _ h => nomatch h
theorem l2Eviction (die : Fin 4) (slice : Nat) : Statement (.l2Eviction die slice) := fun _ _ h => nomatch h
theorem tentativeStore (team : Nat) (wave : Nat) : Statement (.tentativeStore team wave) := fun _ _ h => nomatch h
theorem storeQueueDrain (team : Nat) (wave : Nat) : Statement (.storeQueueDrain team wave) := fun _ _ h => nomatch h
theorem walkerFill (die : Fin 4) (core : Nat) (ctx : Nat) (obj : Nat) (off : Nat) (mgen : BitVec 16) : Statement (.walkerFill die core ctx obj off mgen) :=
  fun _ _ h => nomatch h
theorem systemEventWrite (die : Fin 4) (index : Nat) : Statement (.systemEventWrite die index) := fun _ _ h => nomatch h
theorem ingestionStep (die : Fin 4) (ctx : Nat) (obj : Nat) : Statement (.ingestionStep die ctx obj) := fun _ _ h => nomatch h
theorem timeout (die : Fin 4) (ctx : Nat) (rod : Nat) : Statement (.timeout die ctx rod) := fun _ _ h => nomatch h
theorem launch (die : Fin 4) : Statement (.launch die) := fun _ _ h => nomatch h
theorem teamPlacement (die : Fin 4) : Statement (.teamPlacement die) := fun _ _ h => nomatch h
theorem postRecordWrite (die : Fin 4) (index : Nat) : Statement (.postRecordWrite die index) := fun _ _ h => nomatch h
theorem waveRetire (team : Nat) (wave : Nat) : Statement (.waveRetire team wave) := fun _ _ h => nomatch h
theorem markerWaitComplete (team : Nat) (wave : Nat) : Statement (.markerWaitComplete team wave) := fun _ _ h => nomatch h
theorem serviceEntry (team : Nat) (wave : Nat) : Statement (.serviceEntry team wave) := fun _ _ h => nomatch h
theorem matrixPass (die : Fin 4) (core : Nat) (bad1 : Bool) (bad2 : Bool) (follower : Bool × Bool) : Statement (.matrixPass die core bad1 bad2 follower) :=
  fun _ _ h => nomatch h
theorem mmaxStep (die : Fin 4) (core : Nat) (bad1 : Bool) (bad2 : Bool) : Statement (.mmaxStep die core bad1 bad2) :=
  fun _ _ h => nomatch h
theorem accumulatorExecute (die : Fin 4) (core : Nat) : Statement (.accumulatorExecute die core) := fun _ _ h => nomatch h
theorem engineAdmission (team : Nat) (wave : Nat) (slot : Fin 4) : Statement (.engineAdmission team wave slot) :=
  fun _ _ h => nomatch h
theorem engineCompletion (die : Fin 4) (core : Nat) (index : Nat) : Statement (.engineCompletion die core index) :=
  fun _ _ h => nomatch h
theorem engineFaultEnd (die : Fin 4) (core : Nat) (index : Nat) : Statement (.engineFaultEnd die core index) :=
  fun _ _ h => nomatch h
theorem collContribution (part : Contrib) : Statement (.collContribution part) := fun _ _ h => nomatch h
theorem collResultDelivery (die : Fin 4) (core : Nat) (index : Nat) : Statement (.collResultDelivery die core index) :=
  fun _ _ h => nomatch h
theorem quorumArrival (team : Nat) (wave : Nat) (slot : Fin 4) : Statement (.quorumArrival team wave slot) :=
  fun _ _ h => nomatch h
theorem quorumDeadline (die : Fin 4) (num : Nat) : Statement (.quorumDeadline die num) := fun _ _ h => nomatch h
theorem killRequest (ctx : Nat) (die : Fin 4) (team : BitVec 32) : Statement (.killRequest ctx die team) := fun _ _ h => nomatch h
theorem codeObjectLoad (ctx : Nat) (code : CodeImage) : Statement (.codeObjectLoad ctx code) := fun _ _ h => nomatch h
theorem unassignedEncoding : Statement .unassignedEncoding := fun _ _ h => nomatch h
theorem fetchOutsideText : Statement .fetchOutsideText := fun _ _ h => nomatch h
theorem companionMemAccess (pa : Nat) (op : BusOp) : Statement (.companionMemAccess pa op) := fun _ _ h => nomatch h
theorem walaroRemoteRequest (ctx : Nat) (obj : Nat) (off : Nat) (gen : Nat) (op : Option BusOp) : Statement (.walaroRemoteRequest ctx obj off gen op) :=
  fun _ _ h => nomatch h
theorem contextCreation (ctx : Nat) (spec : CtxSpec) : Statement (.contextCreation ctx spec) := fun _ _ h => nomatch h
theorem moduleFlashWrite (slot : Fin 2) (image : Option FlashImage) : Statement (.moduleFlashWrite slot image) :=
  fun _ _ h => nomatch h
theorem hostLinkTraining (width : Nat) (rate : Nat) : Statement (.hostLinkTraining width rate) := fun _ _ h => nomatch h

end Sys2Proof.Laws.Parcels
end

