-- ==== Sys2Proof/Laws/Registers.lean ====
section
/-! SUPPORT. The registers of the issuing split: a read after a write of any register, and what a block of vector registers holds once
it is written. -/

namespace Sys2Proof.Machine

/-! ## Service mode is left alone -/

@[simp] theorem Iss.setS_inService (x : Iss) (n : SReg) (w : W64) : (x.setS n w).inService = x.inService := by
  simp [Iss.inService]

@[simp] theorem Iss.setM_inService (x : Iss) (n : MReg) (w : Mask) : (x.setM n w).inService = x.inService := by
  simp [Iss.inService]

@[simp] theorem Iss.setK_inService (x : Iss) (n : KReg) (c : Cap) : (x.setK n c).inService = x.inService := by
  simp [Iss.inService]

@[simp] theorem Iss.setV_inService (x : Iss) (n : VReg) (lanes : Mask) (f : Fin 32 → W32) :
    (x.setV n lanes f).inService = x.inService := rfl

/-! ## A read after a write -/

theorem Iss.s_setS (x : Iss) (n r : SReg) (w : W64) : (x.setS n w).s r = if r = n then w else x.s r := by
  unfold Iss.s
  rw [Iss.setS_inService]
  unfold Iss.setS
  by_cases hs : x.inService = true
  · by_cases hn : 48 ≤ n.val
    · by_cases hr : 48 ≤ r.val
      · have he : r = n ↔ (Fin.ofNat 16 (r.val - 48)) = Fin.ofNat 16 (n.val - 48) := by
          simp only [Fin.ext_iff, Fin.ofNat]
          omega
        simp only [hs, hn, hr, decide_true, Bool.and_true, if_true]
        by_cases h : r = n
        · subst h; simp
        · rw [if_neg h]
          exact Vector.getElem_set_ne _ _ fun e => h (he.2 (Fin.ext e.symm))
      · have h : r ≠ n := fun e => hr (e ▸ hn)
        simp [hs, hn, hr, h]
    · by_cases hr : 48 ≤ r.val
      · have h : r ≠ n := fun e => hn (e ▸ hr)
        simp [hs, hn, hr, h]
      · simp only [hs, hn, hr, decide_false, Bool.and_false, Bool.false_eq_true, if_false]
        by_cases h : r = n
        · subst h; simp
        · rw [if_neg h]
          exact Vector.getElem_set_ne n.isLt r.isLt fun e => h (Fin.ext e.symm)
  · simp only [hs, Bool.false_and, Bool.false_eq_true, if_false]
    by_cases h : r = n
    · subst h; simp
    · rw [if_neg h]
      exact Vector.getElem_set_ne n.isLt r.isLt fun e => h (Fin.ext e.symm)

@[simp] theorem Iss.s_setS_self (x : Iss) (n : SReg) (w : W64) : (x.setS n w).s n = w := by
  rw [Iss.s_setS, if_pos rfl]

@[simp] theorem Iss.m_zero (x : Iss) : x.m 0 = 0xFFFFFFFF := rfl

theorem Iss.m_setM (x : Iss) (n r : MReg) (w : Mask) (hn : n ≠ 0) :
    (x.setM n w).m r = if r = n then w else x.m r := by
  unfold Iss.m Iss.setM
  rw [if_neg hn]
  by_cases h0 : r = 0
  · rw [if_pos h0, if_pos h0, if_neg fun e : r = n => hn (e ▸ h0)]
  · rw [if_neg h0, if_neg h0]
    by_cases h : r = n
    · subst h; simp
    · rw [if_neg h]
      exact Vector.getElem_set_ne n.isLt r.isLt fun e => h (Fin.ext e.symm)

@[simp] theorem Iss.setM_zero (x : Iss) (w : Mask) : x.setM 0 w = x := rfl

theorem Iss.k_setK (x : Iss) (n r : KReg) (c : Cap) : (x.setK n c).k r = if r = n then c else x.k r := by
  unfold Iss.k
  rw [Iss.setK_inService]
  unfold Iss.setK
  by_cases hs : x.inService = true
  · by_cases hn : n = 15
    · subst hn
      by_cases hr : r = 15
      · subst hr; simp [hs]
      · simp [hs, hr]
    · by_cases hr : r = 15
      · have h : r ≠ n := fun e => hn (e ▸ hr)
        simp [hs, hn, hr, Ne.symm hn]
      · simp only [hs, hn, hr, decide_false, Bool.and_false, Bool.false_eq_true, if_false]
        by_cases h : r = n
        · subst h; simp
        · rw [if_neg h]
          exact Vector.getElem_set_ne n.isLt r.isLt fun e => h (Fin.ext e.symm)
  · simp only [hs, Bool.false_and, Bool.false_eq_true, if_false]
    by_cases h : r = n
    · subst h; simp
    · rw [if_neg h]
      exact Vector.getElem_set_ne n.isLt r.isLt fun e => h (Fin.ext e.symm)

theorem Iss.v_setV (x : Iss) (n r : VReg) (lanes : Mask) (f : Fin 32 → W32) (L : Fin 32) :
    (x.setV n lanes f).v r L = if r = n ∧ lanes.getLsbD L.val = true then f L else x.v r L := by
  unfold Iss.v Iss.setV
  by_cases h : r = n
  · subst h
    by_cases hl : lanes.getLsbD L.val = true <;> simp [hl]
  · rw [if_neg fun e => h e.1]
    exact congrArg (fun w : Vector W32 32 => w[L])
      (Vector.getElem_set_ne n.isLt r.isLt fun e => h (Fin.ext e.symm))

/-! ## Pending-write bits (R51) -/

@[simp] theorem Pending.markAll_nil (p : Pending) : p.markAll [] = p := rfl

@[simp] theorem Pending.markAll_cons (p : Pending) (r : Reg) (rs : List Reg) :
    p.markAll (r :: rs) = (p.mark r).markAll rs := rfl

theorem Pending.markAll_append (p : Pending) (rs qs : List Reg) : p.markAll (rs ++ qs) = (p.markAll rs).markAll qs :=
  List.foldl_append

/-- No bit is set after a clear. -/
@[simp] theorem Pending.has_clear (r : Reg) : Pending.clear.has r = false := by
  cases r with
  | f flag => cases flag <;> rfl
  | v n => exact BitVec.getLsbD_zero
  | s n => exact BitVec.getLsbD_zero
  | m n => exact BitVec.getLsbD_zero
  | k n => exact BitVec.getLsbD_zero
  | a n => exact BitVec.getLsbD_zero

end Sys2Proof.Machine
end

