-- ==== Sys2Proof/Tests/Slice0.lean ====
section
/-! SUPPORT. Tests: words put together from the encoding tables decode to their instructions, ill-formed terms and reserved words
are refused, and for every statement concrete states and operands meet what it assumes, at the boundaries of its clauses.

The first theorem group holds one word for every encoded constructor, its fields taken from the opcode table. A theorem
`witness_X` holds the hypotheses of `Obligations.X`, case by case, on small states built by the helpers here. -/

namespace Sys2Proof.Tests

open Sys2Proof Sys2Proof.Machine Sys2Proof.Claims

/-! ## Decoding -/

/-- Words put together from the fields of the opcode table: VADD to VADD_IMM. -/
theorem test_words_00 :
    decodeTableWord 32 0xF10B2807 = some (.vadd .n64 4 16 44 40 true) ∧
    decodeTableWord 32 0xF50D240B = some (.vsub .n64 5 16 52 36 true) ∧
    decodeTableWord 32 0xDC4C080D = some (.vmul .i64 7 4 48 8 false) ∧
    decodeTableWord 32 0xD1CB2411 = some (.vmin .i64 4 28 44 36 false) ∧
    decodeTableWord 32 0xED472815 = some (.vmax .n64 3 20 28 40 false) ∧
    decodeTableWord 32 0x33031819 = some (.vshl .n32 4 48 12 24 false) ∧
    decodeTableWord 32 0x3642181D = some (.vshr .n32 5 36 8 24 false) ∧
    decodeTableWord 32 0x04472C21 = some (.vand 1 4 28 44 false) ∧
    decodeTableWord 32 0x28441C21 = some (.vor 2 4 16 28 false) ∧
    decodeTableWord 32 0x51CD2421 = some (.vxor 4 28 52 36 false) ∧
    decodeTableWord 32 0xCF442425 = some (.vcmp .i64 3 52 16 .gt 4 false) ∧
    decodeTableWord 32 0x07030429 = some (.vsel 1 48 12 4 false) ∧
    decodeTableWord 32 0xC046142F = some (.vmad 48 4 24 20 true) ∧
    decodeTableWord 32 0xA7662C31 = some (.vaddImm 2678 24 44 false) := by decide

/-- Words put together from the fields of the opcode table: VMOV to VFMAX. -/
theorem test_words_01 :
    decodeTableWord 32 0x10041835 = some (.vmov 4 16 24 false) ∧
    decodeTableWord 32 0x0C130835 = some (.vmovBcast 3 12 8 false) ∧
    decodeTableWord 32 0x1421EC35 = some (.vmovMask 5 7 44 false) ∧
    decodeTableWord 32 0x04502435 = some (.vidx 1 .tile 36 false) ∧
    decodeTableWord 32 0x5C9B2835 = some (.vbit .i16x2 7 .popc 44 40 false) ∧
    decodeTableWord 32 0x31421039 = some (.vshfl .up 4 20 8 16 false) ∧
    decodeTableWord 32 0x0C13283F = some (.vvote 3 .any 12 40 true) ∧
    decodeTableWord 32 0x3C6A243D = some (.vred 7 .and 40 36 false) ∧
    decodeTableWord 32 0x6C23043D = some (.vscan true 3 .mins 12 4 false) ∧
    decodeTableWord 32 0x44C10843 = some (.vfadd .bf16x2 1 12 4 8 true) ∧
    decodeTableWord 32 0x67072C45 = some (.vfsub .f16x2 1 48 28 44 false) ∧
    decodeTableWord 32 0x71C22C4B = some (.vfmul .f16x2 4 28 8 44 true) ∧
    decodeTableWord 32 0x7709184F = some (.vfmin .f16x2 5 48 36 24 true) ∧
    decodeTableWord 32 0x65C43451 = some (.vfmax .f16x2 1 28 16 52 false) := by decide

/-- Words put together from the fields of the opcode table: VFCMP to SREM. -/
theorem test_words_02 :
    decodeTableWord 32 0x2B4C1757 = some (.vfcmp .f64 2 52 48 .lt 7 true) ∧
    decodeTableWord 32 0xA08B3059 = some (.vfma 40 8 44 48 false) ∧
    decodeTableWord 32 0xD14B305D = some (.vfmaF64 52 20 44 48 false) ∧
    decodeTableWord 32 0x6C512863 = some (.vsfn .f16x2 3 .sinpi 4 40 true) ∧
    decodeTableWord 32 0x78C62867 = some (.vcvt .rup 6 .f64 .e4m3 24 40 true) ∧
    decodeTableWord 32 0x0A4D2869 = some (.smxu 2 36 52 40 false) ∧
    decodeTableWord 32 0x280A1469 = some (.smxf 2 40 20 false) ∧
    decodeTableWord 32 0x8106246D = some (.cmprs .n12m24 16 24 36 false) ∧
    decodeTableWord 32 0x00870471 = some (.sadd 8 28 4 false) ∧
    decodeTableWord 32 0x05433071 = some (.ssub 20 12 48 false) ∧
    decodeTableWord 32 0x088D3073 = some (.smul 8 52 48 true) ∧
    decodeTableWord 32 0x11CD2473 = some (.smulh true 28 52 36 true) ∧
    decodeTableWord 32 0x1B070871 = some (.sdiv true 48 28 8 false) ∧
    decodeTableWord 32 0x21421871 = some (.srem true 20 8 24 false) := by decide

/-- Words put together from the fields of the opcode table: SAND to SOR_IMM. -/
theorem test_words_03 :
    decodeTableWord 32 0x24CC3471 = some (.sand 12 48 52 false) ∧
    decodeTableWord 32 0x2B0D2C71 = some (.sor 48 52 44 false) ∧
    decodeTableWord 32 0x2C832871 = some (.sxor 8 12 40 false) ∧
    decodeTableWord 32 0x30492871 = some (.sshl 4 36 40 false) ∧
    decodeTableWord 32 0x38862473 = some (.sshr true 8 24 36 true) ∧
    decodeTableWord 32 0x41CC3473 = some (.smin true 28 48 52 true) ∧
    decodeTableWord 32 0x45412471 = some (.smax false 20 4 36 false) ∧
    decodeTableWord 32 0x54053073 = some (.sbit .ctz 20 48 true) ∧
    decodeTableWord 32 0x5C0C2471 = some (.smov 48 36 false) ∧
    decodeTableWord 32 0x64CD0073 = some (.scmp true 12 52 true) ∧
    decodeTableWord 32 0xD18D3071 = some (.ssel .ge 24 52 48 false) ∧
    decodeTableWord 32 0x64441C75 = some (.saddImm 401 16 28 false) ∧
    decodeTableWord 32 0xC21D0875 = some (.sandImm 776 52 8 false) ∧
    decodeTableWord 32 0x39A90C75 = some (.sorImm 230 36 12 false) := by decide

/-- Words put together from the fields of the opcode table: SXOR_IMM to MSET_FIRST. -/
theorem test_words_04 :
    decodeTableWord 32 0x95F41475 = some (.sxorImm 599 16 20 false) ∧
    decodeTableWord 32 0xD7830179 = some (.scmpImm 3448 12 true false) ∧
    decodeTableWord 32 0x18239C7D = some (.sli 6179 2 28 false) ∧
    decodeTableWord 32 0x01A31881 = some (.smovV 26 12 24 false) ∧
    decodeTableWord 32 0x20019481 = some (.smovM 6 20 false) ∧
    decodeTableWord 32 0x40000881 = some (.smovCcRead 8 false) ∧
    decodeTableWord 32 0x60040083 = some (.smovCcWrite 16 true) ∧
    decodeTableWord 32 0x6061C487 = some (.mlog .andn 6 7 4 true) ∧
    decodeTableWord 32 0x8000C385 = some (.mlogNot 3 3 false) ∧
    decodeTableWord 32 0xE000A885 = some (.mcnt .last 2 40 false) ∧
    decodeTableWord 32 0x000C028B = some (.mset 48 2 true) ∧
    decodeTableWord 32 0x20000289 = some (.msetAll 2 false) ∧
    decodeTableWord 32 0x40000789 = some (.msetNone 7 false) ∧
    decodeTableWord 32 0x6000038B = some (.msetFirst 3 true) := by decide

/-- Words put together from the fields of the opcode table: BR to ST. -/
theorem test_words_05 :
    decodeTableWord 32 0xC71EA28F = some (.br 815594 .ne true) ∧
    decodeTableWord 32 0x5770FC91 = some (.bmz 358159 true 4 false) ∧
    decodeTableWord 32 0x55CFE397 = some (.call 5623779 true) ∧
    decodeTableWord 32 0xEE6CB699 = some (.fork 976587 6 false) ∧
    decodeTableWord 32 0x0000009F = some (.nop true) ∧
    decodeTableWord 32 0x0000019F = some (.join true) ∧
    decodeTableWord 32 0x0000029D = some (.exit false) ∧
    decodeTableWord 32 0x0000039D = some (.killpt false) ∧
    decodeTableWord 32 0x0001C49D = some (.ret 28 false) ∧
    decodeTableWord 32 0x0005459F = some (.yieldWave true 20 true) ∧
    decodeTableWord 32 0x00049DA3 = some (.rep 2 false true false 29 true) ∧
    decodeTableWord 32 0xB443B0A5 = some (.ld .sys true .b32 false 16 14 48 false) ∧
    decodeTableWord 32 0x97A2D8AB = some (.ldScalar .pod true .b64 true 40 11 24 true) ∧
    decodeTableWord 32 0x9530C8AD = some (.st .pod true .b32 true 12 3 8 false) := by decide

/-- Words put together from the fields of the opcode table: ST_SCALAR to CINFO. -/
theorem test_words_06 :
    decodeTableWord 32 0x6772E4B3 = some (.stScalar .pkg false .b64 true 28 11 36 true) ∧
    decodeTableWord 32 0x0ED128B7 = some (.lds 7 .b64 true 4 40 true) ∧
    decodeTableWord 32 0x80A634B5 = some (.sts 64 .b32 false 24 52 false) ∧
    decodeTableWord 32 0x760544BB = some (.ldp 1888 .b64 false 5 4 true) ∧
    decodeTableWord 32 0x39914CBF = some (.atom .quad true .cas 36 5 12 true) ∧
    decodeTableWord 32 0x4530B4C3 = some (.atomAr .die false .minn 12 2 52 true) ∧
    decodeTableWord 32 0x008314C7 = some (.atoms false .xchg 12 20 true) ∧
    decodeTableWord 32 0x800020C9 = some (.fence .pod .all false) ∧
    decodeTableWord 32 0x6A2431CB = some (.waita .pkg false 40 36 3 true) ∧
    decodeTableWord 32 0x11C090CD = some (.cmake 4 28 9 false) ∧
    decodeTableWord 32 0x5089A1CF = some (.cnarrow 20 8 9 10 true) ∧
    decodeTableWord 32 0x018C62CD = some (.cload 24 12 6 false) ∧
    decodeTableWord 32 0x010A13CF = some (.cstore 16 10 1 true) ∧
    decodeTableWord 32 0x15C404CF = some (.cinfo .gen 28 4 true) := by decide

/-- Words put together from the fields of the opcode table: CPY to STGW. -/
theorem test_words_07 :
    decodeTableWord 32 0x9086F0D1 = some (.cpy 36 8 6 15 false) ∧
    decodeTableWord 32 0x22C301D1 = some (.gath 8 44 3 false) ∧
    decodeTableWord 32 0x418C02D3 = some (.bld 16 24 12 true) ∧
    decodeTableWord 32 0xD10593D3 = some (.coll 52 16 5 9 true) ∧
    decodeTableWord 32 0x300004D1 = some (.ewait 12 false) ∧
    decodeTableWord 32 0x118E12D5 = some (.mma true false 12 28 1 2 false) ∧
    decodeTableWord 32 0x2E8C34D5 = some (.mmas false true 52 24 3 4 false) ∧
    decodeTableWord 32 0x510269D7 = some (.mmac true false 8 4 6 9 true) ∧
    decodeTableWord 32 0x758A75D5 = some (.mmax true false 44 20 7 5 false) ∧
    decodeTableWord 32 0x00000DDB = some (.aclr 13 true) ∧
    decodeTableWord 32 0x20B235DB = some (.ald .e5m2 36 3 5 true) ∧
    decodeTableWord 32 0x408C2DD9 = some (.ast .e4m3 24 2 13 false) ∧
    decodeTableWord 32 0x002210DD = some (.stga true 4 1 false) ∧
    decodeTableWord 32 0x003441DD = some (.stgw true 40 4 false) := by decide

/-- Words put together from the fields of the opcode table: POST to PART. -/
theorem test_words_08 :
    decodeTableWord 32 0x121CE0E1 = some (.post .part 8 28 14 false) ∧
    decodeTableWord 32 0x062491E3 = some (.resv 24 36 9 true) ∧
    decodeTableWord 32 0x001CA2E3 = some (.publ 28 10 true) ∧
    decodeTableWord 32 0x051030E5 = some (.autld 20 16 3 false) ∧
    decodeTableWord 32 0x191001E5 = some (.autctl .dis 36 16 false) ∧
    decodeTableWord 32 0x130802E5 = some (.autq .beads 12 8 false) ∧
    decodeTableWord 32 0x003050EB = some (.qopen 48 5 true) ∧
    decodeTableWord 32 0x0C0C01E9 = some (.qarr 48 12 false) ∧
    decodeTableWord 32 0x020C02E9 = some (.qstat 8 12 false) ∧
    decodeTableWord 32 0x052803EB = some (.qscale 20 40 true) ∧
    decodeTableWord 32 0x014B80ED = some (.bar 20 .sys 24 false) ∧
    decodeTableWord 32 0x034471ED = some (.bara 52 .die 7 false) ∧
    decodeTableWord 32 0x000652EF = some (.barw .pkg 5 true) ∧
    decodeTableWord 32 0x140003EF = some (.part .l32 true) := by decide

/-- Words put together from the fields of the opcode table: TRAP to VSHL_H. -/
theorem test_words_09 :
    decodeTableWord 32 0x0001B0F1 = some (.trap 27 false) ∧
    decodeTableWord 32 0x000001F1 = some (.rett false) ∧
    decodeTableWord 32 0x000102F1 = some (.mfsr .wstat 16 false) ∧
    decodeTableWord 32 0x000083F3 = some (.mtsr .wstat 8 true) ∧
    decodeTableWord 32 0x000244F1 = some (.oinv 36 false) ∧
    decodeTableWord 32 0x000055F1 = some (.bkpt 5 false) ∧
    decodeTableWord 32 0x0018C6F1 = some (.cntrd 6 12 false) ∧
    decodeTableWord 16 0x6582 = some (.vaddH 12 22 true) ∧
    decodeTableWord 16 0x27C4 = some (.vsubH 4 31 false) ∧
    decodeTableWord 16 0x80CA = some (.vmulH 16 3 true) ∧
    decodeTableWord 16 0x860C = some (.vandH 16 24 false) ∧
    decodeTableWord 16 0xC2D0 = some (.vorH 24 11 false) ∧
    decodeTableWord 16 0xF454 = some (.vxorH 30 17 false) ∧
    decodeTableWord 16 0x4C5A = some (.vshlH 9 17 true) := by decide

/-- Words put together from the fields of the opcode table: VSHR_H to VMOV_H. -/
theorem test_words_10 :
    decodeTableWord 16 0x6C5C = some (.vshrH 13 17 false) ∧
    decodeTableWord 16 0x9F60 = some (.vminH 19 29 false) ∧
    decodeTableWord 16 0xF3A4 = some (.vmaxH 30 14 false) ∧
    decodeTableWord 16 0x9FEA = some (.vfaddH 19 31 true) ∧
    decodeTableWord 16 0xE7EE = some (.vfsubH 28 31 true) ∧
    decodeTableWord 16 0x0C70 = some (.vfmulH 1 17 false) ∧
    decodeTableWord 16 0xE9F4 = some (.vfmaxH 29 7 false) ∧
    decodeTableWord 16 0xDFF8 = some (.vfminH 27 31 false) ∧
    decodeTableWord 16 0x4E3E = some (.vmovH 9 24 true) := by decide

/-! ### Limits on fields -/

/-- Instructions outside the limits of R80 and of their entries, one or more for each check. -/
def illFormed : List Instr :=
  [.vadd .i64 0 3 2 2 false, .vadd .i64 0 2 3 2 false, .vadd .i64 0 2 2 3 false, .vshr .n64 0 2 2 63 false,
    .vcmp .i16x2 0 2 3 .eq 0 false, .vcmp .i32 0 2 3 .uo 0 false, .vcmp .i64 0 3 2 .eq 0 false, .vcmp .i64 0 2 3 .eq 0 false,
    .vbit .i64 0 .popc 3 2 false, .vbit .i64 0 .popc 2 3 false, .vfadd .f64 0 3 2 2 false, .vfmax .f64 0 2 2 1 false,
    .vfcmp .bf16x2 0 2 3 .eq 0 false, .vfcmp .f64 0 3 2 .eq 0 false, .vfmaF64 1 2 4 6 false, .vfmaF64 2 1 4 6 false,
    .vfmaF64 2 4 1 6 false, .vfmaF64 2 4 6 1 false,
    .vcvt .rne 0 .f32 .f32 1 2 false, .vcvt .rne 0 .f32 .f64 1 2 false, .vcvt .rne 0 .f64 .f32 2 1 false, .smxu 0 5 1 5 false,
    .smxu 0 5 1 3 false, .ld .core false .b64 false 0 1 3 false, .ld .core false .b128 false 0 1 2 false,
    .st .core false .b64 false 0 1 3 false, .st .core false .b128 false 0 1 2 false, .ldScalar .core false .b128 false 0 1 4 false,
    .stScalar .core false .b128 false 0 1 4 false, .lds 0 .b64 false 0 3 false, .sts 0 .b128 false 0 2 false,
    .ldp 2 .b32 false 0 4 false, .ldp 16 .b128 true 0 4 false, .ldp 8 .b64 false 0 3 false, .ldp 16 .b128 false 0 2 false,
    .atom .core true .add 0 1 3 false, .atomAr .core true .fadd 0 1 4 false, .atoms false .cas 0 3 false, .atoms true .cas 0 2 false,
    .cpy 0 62 0 1 false, .gath 0 61 1 false, .bld 0 62 1 false, .coll 0 60 1 1 false, .ald .fp64 3 0 0 false, .ast .fp64 3 0 0 false,
    .post .all 0 51 1 false, .vaddH 0 0 false]

theorem test_ill_formed : (illFormed.all fun i => !i.wellFormed) = true := by decide

/-- Words of no instruction: the parcel 0 (R76), majors 0 and 0x3F, which Table 4.1 does not assign, an SMOV whose unused B is not zero
(R79), a VADD of 64 bits (T 6) with an odd B (R80), and a CPY whose block passes s63 (R80). -/
theorem test_reserved_words :
    decodeTableWord 16 0 = none ∧ decodeTableWord 32 1 = none ∧ decodeTableWord 32 0x000000FD = none ∧
    decodeTableWord 32 0b010111_000001_000010_000001_011100_0_1 = none ∧
    decodeTableWord 32 0b110_000_000011_000010_000010_000001_0_1 = none ∧
    decodeTableWord 32 0b110_000_000010_000010_000010_000001_0_1 = some (.vadd .i64 0 2 2 2 false) ∧
    decodeTableWord 32 0x03E000D1 = none := by decide

/-! ## Small states -/

/-- A wave of one full split at offset 0, in service mode or not, changed by `f`, its split by `g`. -/
def wave (f : Wave → Wave) (g : Split → Split) : Wave :=
  f { Wave.launched 0 0 0 0 0 0 Context.none (Vector.replicate 16 0) 0 0xFFFFFFFF with
    splits := (Vector.replicate 4 none).set 0 (some (g (Split.launched 0 0xFFFFFFFF))) }

/-- Its team, changed by `h`. -/
def team (f : Wave → Wave) (g : Split → Split) (h : Team → Team) : Team :=
  h { Team.plain Context.none 2 with waves := [wave f g] }

/-- A running module with that one team, changed by `k`. -/
def S (f : Wave → Wave := id) (g : Split → Split := id) (h : Team → Team := id) (k : State → State := id) : State :=
  k { State.reset with phase := .running, teams := [team f g h] }

/-- That split taken out. -/
def X (f : Wave → Wave := id) (g : Split → Split := id) (h : Team → Team := id) (k : State → State := id) : Iss :=
  ⟨S f g h k, team f g h, wave f g, 0, g (Split.launched 0 0xFFFFFFFF), (g (Split.launched 0 0xFFFFFFFF)).waitsFor⟩

/-- An instruction issues where the split is live, is no replay for no lane and passes the checks of R52. -/
theorem issues_of {i : Instr} {s : State} {x : Iss} (h : checkout s = some x)
    (hb : ((x.inService || x.sp.only != some 0) && (checkIssue (infoOf i) x).isNone) = true) : Issues i s x := by
  simp only [Bool.and_eq_true, Bool.or_eq_true, bne_iff_ne, ne_eq, Option.isNone_iff_eq_none] at hb
  exact ⟨h, hb.1, hb.2⟩

/-- Another split of the wave. -/
def other (j : Fin 4) (sp : Split) (w : Wave) : Wave := { w with splits := w.splits.set j (some sp) }

/-- A wave in service mode. -/
def svc (w : Wave) : Wave := { w with svc := some 0 }

/-- A wave with a service handler; one in service mode whose handler has a text in code object 2; one in service mode with its handler waiting. -/
def handler (w : Wave) : Wave := { w with tvecObj := 1 }
def handling (w : Wave) : Wave := { svc w with tvecObj := 2 }
def svcWaits (v : Wait) (w : Wave) : Wave := { svc w with svcWait := some v }

/-- A wave parked on object 6. -/
def parkedOn (w : Wave) : Wave := { w with park := some (.replayable 0 1 6) }

/-- A matrix instruction of the wave stands in the sequencer of core 0. -/
def pass : SeqItem := (X).seqItem 0 4 0

/-- Core 0 of die 0 changed. -/
def core0 (f : Core → Core) (s : State) : State := { s with cores := [f (Core.fresh 0 0)] }

/-! ## Hypotheses of the statements, clause by clause -/

theorem witness_ScalarEntry : ∃ f, scalarEffect (.sdiv true 1 2 3 false) = some f ∧ Issues (.sdiv true 1 2 3 false) S X :=
  ⟨_, rfl, issues_of rfl (by decide)⟩

theorem witness_MoveAndMaskEntries : ∃ f, moveEffect (.msetFirst 0 true) = some f ∧ Issues (.msetFirst 0 true) S X :=
  ⟨_, rfl, issues_of rfl (by decide)⟩

theorem witness_VectorIntegerEntry :
    (intForm (.vshr .n64 0 4 2 62 false) = some (.shr, .n64, 0, 2, 4, 62) ∧ Issues (.vshr .n64 0 4 2 62 false) S X) ∧
    Issues (.vmad 1 2 3 3 false) S X ∧ Issues (.vaddImm 0xFFF 3 3 false) S X :=
  ⟨⟨rfl, issues_of rfl (by decide)⟩, issues_of rfl (by decide), issues_of rfl (by decide)⟩

/-- A wave whose v1 is a signalling NaN in lane 31 and which traps invalid, or does not. -/
def nanWave (trap : Bool) (w : Wave) : Wave :=
  { w with
    v := w.v.set 1 ((Vector.replicate 32 0).set 31 0x7F800001)
    enables := if trap then 1 else 0 }

theorem witness_VectorFloatEntry :
    (∃ e, Issues (.vfadd .f32 0 2 1 3 false) (S (nanWave false)) (X (nanWave false)) ∧
      fpEffect (X (nanWave false)) (.vfadd .f32 0 2 1 3 false) = some e ∧
      trappedIn (X (nanWave false)) e.lanes e.exc = 0) ∧
    (∃ e, Issues (.vfadd .f32 0 2 1 3 false) (S (nanWave true)) (X (nanWave true)) ∧
      fpEffect (X (nanWave true)) (.vfadd .f32 0 2 1 3 false) = some e ∧
      trappedIn (X (nanWave true)) e.lanes e.exc ≠ 0) ∧
    (fltFormat .bf16x2).width = 16 ∧ FpSnan fp32 0x7F800001 ∧ ¬ FpSnan fp32 0x7FC00000 ∧ FpInf fp32 0xFF800000 ∧
    fpUnits fp32 0x80000001 = -1 ∧ fpUnits fp32 0x00800001 = 2 ^ 23 + 1 ∧ staysBelow .rne 1 0 (fpLimit bf16) (2 * 2 ^ 253) = true ∧
    staysBelow .rdn (-(fpLimit bf16 : Int)) 0 (fpLimit bf16) (2 * 2 ^ 253) = false ∧
    (CvtFmt.i32 ≠ .f32 ∧ CvtNan .e4m3 0xFF ∧ ¬ CvtNan .e2m1 15 ∧ CvtInf .e5m2 0x7C ∧ ¬ CvtSnan .e5m2 0x7D ∧ CvtSnan .f32 0x7F800001) ∧
    (cvtStays .e4m3 .rne (464 * 2 ^ 9) 0 = true ∧ cvtStays .e4m3 .rne (464 * 2 ^ 9 + 1) 0 = false ∧
      cvtStays .e2m1 .rtz 12 0 = true ∧ cvtStays .e2m1 .rtz 16 0 = false) ∧
    RoundsToInt .rne 5 1 2 ∧ RoundsToInt .rup (-5) 1 (-2) ∧ RoundsToInt .rtz (-5) 1 (-2) :=
  ⟨⟨_, issues_of rfl (by decide), rfl, by decide +kernel⟩, ⟨_, issues_of rfl (by decide), rfl, by decide +kernel⟩,
    rfl, by decide, by decide, by decide, by decide, by decide, by decide +kernel, by decide +kernel,
    by decide, by decide +kernel, by unfold RoundsToInt; decide, by unfold RoundsToInt; decide, by unfold RoundsToInt; decide⟩

/-- 1 − 2^−24 and 1 − 2^−26, the examples of R411: the exact product of 1 + 2^−13 and 1 − 2^−13 rounds to 1 with inexact, and
VFMA with −1 gives −2^−26 with no flag. -/
theorem test_fma_rounds_once : fpBin fp32 .rne .mul 0x3F800400 0x3F7FF800 = (0x3F800000, ⟨false, false, false, false, true⟩) ∧
    fpFma fp32 .rne 0x3F800400 0x3F7FF800 0xBF800000 = (0xB2800000, Exc.none) := by decide

theorem witness_VectorBitEntry : Issues (.vbit .i8x4 1 .bswap 3 3 false) S X := issues_of rfl (by decide)

theorem witness_LaneMoveEntries : ∃ d A f, laneEffect (.vshfl .up 0 1 2 2 false) = some (d, A, f) ∧
    Issues (.vshfl .up 0 1 2 2 false) S X := ⟨_, _, _, rfl, issues_of rfl (by decide)⟩

theorem witness_VectorCompareEntry : Instr.wellFormed (.vcmp .n64 0 2 4 .ge 0 false) = true ∧
    Issues (.vcmp .n64 0 2 4 .ge 0 false) S X := ⟨rfl, issues_of rfl (by decide)⟩

theorem witness_VoteEntry : Issues (.vvote 0 .uniform 1 2 false) S X := issues_of rfl (by decide)

theorem witness_IntegerReductionAndScan : ∃ f, intRed .maxs = some f ∧ Issues (.vred 0 .maxs 1 2 false) S X ∧
    Issues (.vscan true 0 .maxs 1 2 false) S X := ⟨_, rfl, issues_of rfl (by decide), issues_of rfl (by decide)⟩

theorem witness_BranchEntries :
    (Issues (.br 0x80000 .eq true) (S fun w => { w with cc := { w.cc with z := true } })
        (X fun w => { w with cc := { w.cc with z := true } }) ∧
      condHolds .eq (X fun w => { w with cc := { w.cc with z := true } }).wv.cc) ∧
    (Issues (.br 0x80000 .eq true) S X ∧ ¬ condHolds .eq X.wv.cc) ∧
    (Issues (.bmz 1 true 1 false) S X ∧ (true = true ∧ X.m 1 &&& X.sp.mask = 0 ∨ true = false ∧ X.m 1 &&& X.sp.mask ≠ 0)) ∧
    (Issues (.bmz 1 false 1 false) S X ∧
      ¬ (false = true ∧ X.m 1 &&& X.sp.mask = 0 ∨ false = false ∧ X.m 1 &&& X.sp.mask ≠ 0)) ∧
    Issues (.call 0x800000 false) S X ∧ Issues (.ret 63 false) S X := by
  refine ⟨⟨issues_of rfl (by decide), rfl⟩, ⟨issues_of rfl (by decide), Bool.false_ne_true⟩,
    ⟨issues_of rfl (by decide), by decide⟩, ⟨issues_of rfl (by decide), by decide⟩, issues_of rfl (by decide),
    issues_of rfl (by decide)⟩

/-- A wave with m1 as given. -/
def mask1 (m : Mask) (w : Wave) : Wave := { w with m := w.m.set 1 m }

/-- The wave's other three slots taken. -/
def fullSlots (w : Wave) : Wave :=
  other 1 (Split.launched 0 1) (other 2 (Split.launched 0 1) (other 3 (Split.launched 0 1) w))

theorem witness_ForkEntry :
    (Issues (.fork 1 1 false) S X ∧ X.mask &&& X.m 1 = 0) ∧
    (Issues (.fork 1 0 false) S X ∧ X.mask &&& X.m 0 ≠ 0 ∧ X.mask &&& X.m 0 = X.sp.mask) ∧
    (Issues (.fork 1 1 false) (S (mask1 1)) (X (mask1 1)) ∧ (X (mask1 1)).mask &&& (X (mask1 1)).m 1 ≠ 0 ∧
      (X (mask1 1)).mask &&& (X (mask1 1)).m 1 ≠ (X (mask1 1)).sp.mask ∧ (1 : Fin 4) ≠ (X (mask1 1)).slot ∧
      (X (mask1 1)).wv.splits[(1 : Fin 4)] = none ∧
      ∀ k : Fin 4, k < 1 → k ≠ (X (mask1 1)).slot → (X (mask1 1)).wv.splits[k] ≠ none) ∧
    (Issues (.fork 1 1 false) (S (fullSlots ∘ mask1 1)) (X (fullSlots ∘ mask1 1)) ∧
      ∀ k : Fin 4, k ≠ (X (fullSlots ∘ mask1 1)).slot → (X (fullSlots ∘ mask1 1)).wv.splits[k] ≠ none) :=
  ⟨⟨issues_of rfl (by decide), by decide⟩, ⟨issues_of rfl (by decide), by decide, by decide⟩,
    ⟨issues_of rfl (by decide), by decide, by decide, by decide, by decide, by decide⟩,
    ⟨issues_of rfl (by decide), by decide⟩⟩

/-- cc.K and cc.P of a wave. -/
def kp (k p : Bool) (w : Wave) : Wave := { w with cc := { w.cc with k := k, p := p } }

/-- Another split, parked. -/
def parker : Wave → Wave := other 1 { Split.launched 8 2 with status := .parked }

/-- Another split, standing at a JOIN at a PC. -/
def joiner (pc : BitVec 48) : Wave → Wave := other 1 { Split.launched pc 2 with status := .atJoin }

theorem witness_JoinEntry :
    (Issues (.join false) (S (other 3 (Split.launched 8 2))) (X (other 3 (Split.launched 8 2))) ∧
      ∃ (j : Fin 4) (sp : Split), j ≠ (X (other 3 (Split.launched 8 2))).slot ∧
        (X (other 3 (Split.launched 8 2))).wv.splits[j] = some sp ∧ sp.status ≠ .atJoin) ∧
    (Issues (.join false) S X ∧ ∀ j : Fin 4, j ≠ X.slot → X.wv.splits[j] = none) ∧
    (Issues (.join false) (S (joiner 0)) (X (joiner 0)) ∧
      ∀ j : Fin 4, j ≠ 0 → ((X (joiner 0)).wv.splits[j]).all (fun sp => sp.status = .atJoin ∧ sp.pc = 0) = true) ∧
    (Issues (.join false) (S (joiner 8)) (X (joiner 8)) ∧
      (∀ j : Fin 4, j ≠ 0 → ((X (joiner 8)).wv.splits[j]).all (fun sp => sp.status = .atJoin) = true) ∧
      ∃ (j : Fin 4) (sp : Split), j ≠ 0 ∧ (X (joiner 8)).wv.splits[j] = some sp ∧ sp.pc ≠ (X (joiner 8)).sp.pc) :=
  ⟨⟨issues_of rfl (by decide), 3, _, by decide, rfl, by decide⟩, ⟨issues_of rfl (by decide), by decide⟩,
    ⟨issues_of rfl (by decide), by decide⟩, ⟨issues_of rfl (by decide), by decide, 1, _, by decide, rfl, by decide⟩⟩

theorem witness_ExitEntry :
    (Issues (.exit false) S X ∧ (X.sp.only = none ∧ X.sp.repOnly = none) ∧ X.wv.cc.k = false ∧
      ∀ j : Fin 4, j ≠ X.slot → X.wv.splits[j] = none) ∧
    (Issues (.exit false) (S (parker ∘ kp true false)) (X (parker ∘ kp true false)) ∧ (X (parker ∘ kp true false)).wv.cc.k = true ∧
      (X (parker ∘ kp true false)).wv.status = .running ∧ (X (parker ∘ kp true false)).wv.svc = none ∧
      (∃ (j : Fin 4) (sp : Split), j ≠ 0 ∧ (X (parker ∘ kp true false)).wv.splits[j] = some sp) ∧
      ∀ j : Fin 4, j ≠ 0 → ((X (parker ∘ kp true false)).wv.splits[j]).all (fun sp => sp.status = .parked) = true) ∧
    (Issues (.exit false) (S (other 3 (Split.launched 8 2))) (X (other 3 (Split.launched 8 2))) ∧
      ∃ (j : Fin 4) (sp : Split), j ≠ 0 ∧ (X (other 3 (Split.launched 8 2))).wv.splits[j] = some sp ∧
        sp.status ≠ .atJoin) ∧
    (Issues (.exit false) (S (joiner 8)) (X (joiner 8)) ∧ (∃ j : Fin 4, j ≠ 0 ∧ (X (joiner 8)).wv.splits[j] ≠ none) ∧
      ∀ j : Fin 4, j ≠ 0 → ((X (joiner 8)).wv.splits[j]).all (fun sp => sp.status = .atJoin) = true) :=
  ⟨⟨issues_of rfl (by decide), ⟨rfl, rfl⟩, rfl, by decide⟩,
    ⟨issues_of rfl (by decide), rfl, rfl, rfl, ⟨1, _, by decide, rfl⟩, by decide⟩,
    ⟨issues_of rfl (by decide), 3, _, by decide, rfl, by decide⟩, ⟨issues_of rfl (by decide), ⟨1, by decide, by decide⟩, by decide⟩⟩

theorem witness_KillPointEntries :
    (Issues (.killpt false) (S (kp true false)) (X (kp true false)) ∧ (X (kp true false)).wv.cc.k = true) ∧
    (Issues (.killpt false) S X ∧ X.wv.cc.k = false) ∧
    (Issues (.yieldWave true 1 false) (S (kp true false)) (X (kp true false))) ∧
    (Issues (.yieldWave true 1 false) (S (kp false true)) (X (kp false true)) ∧ (X (kp false true)).wv.cc.p = true) ∧
    (Issues (.yieldWave false 1 false) S X ∧ X.wv.cc.p = false) ∧ Issues (.yieldWave true 1 false) S X :=
  ⟨⟨issues_of rfl (by decide), rfl⟩, ⟨issues_of rfl (by decide), rfl⟩, issues_of rfl (by decide),
    ⟨issues_of rfl (by decide), rfl⟩, ⟨issues_of rfl (by decide), rfl⟩, issues_of rfl (by decide)⟩

/-- Context 0 running, with a code object of a text. -/
def code (text : List Byte) (s : State) : State :=
  { s with contexts := s.contexts.set 0 { Context.none with
      state := .running
      code := [{ obj := 2, texts := Vector.replicate 4 text, rings := [], safe := [] }] } }

/-- REP with a count of 1, then two parcels. -/
def repText (w : Nat) : List Byte := leBytes 4 (repWord 0 true true true 1) ++ leBytes 4 w

/-- VADD i32 v1, v2, v3. -/
def vaddWord : Nat := 0x00308105

theorem witness_RepEntry :
    (Issues (.rep 0 true true true 1 false) (S (k := code (leBytes 4 1))) (X (k := code (leBytes 4 1))) ∧
      wordAt (X (k := code (leBytes 4 1))).text ((X (k := code (leBytes 4 1))).pc.toNat + 4) = .outside 4) ∧
    (Issues (.rep 0 true true true 1 false) (S (k := code (repText 0x9D))) (X (k := code (repText 0x9D))) ∧
      wordAt (X (k := code (repText 0x9D))).text ((X (k := code (repText 0x9D))).pc.toNat + 4) = .bits 0x9D ∧
      repTarget 0x9D = false) ∧
    (Issues (.rep 0 true true true 1 false) (S (h := fun t => { t with vregs := 2 }) (k := code (repText vaddWord)))
        (X (h := fun t => { t with vregs := 2 }) (k := code (repText vaddWord))) ∧
      wordAt (X (k := code (repText vaddWord))).text 4 = .bits vaddWord ∧ repTarget vaddWord = true ∧
      ∃ n ≤ 1, ∀ t, repeatOf (repWord 0 true true true 1) vaddWord n = some t →
        (infoOf t).inPool (X (h := fun t => { t with vregs := 2 }) (k := code (repText vaddWord))).tm.vregs = false) ∧
    (Issues (.rep 0 true true true 1 false) (S (k := code (repText vaddWord))) (X (k := code (repText vaddWord))) ∧
      (X (k := code (repText vaddWord))).sp.repActive = false ∧
      ∀ n ≤ 1, ∃ t, repeatOf (repWord 0 true true true 1) vaddWord n = some t ∧
        (infoOf t).inPool (X (k := code (repText vaddWord))).tm.vregs = true ∧
        (infoOf t).roleOk (X (k := code (repText vaddWord))) = true) := by
  refine ⟨⟨issues_of rfl (by decide), by decide⟩, ⟨issues_of rfl (by decide), by decide, by decide⟩,
    ⟨issues_of rfl (by decide), by decide, by decide, 1, by decide, ?_⟩, ⟨issues_of rfl (by decide), rfl, ?_⟩⟩
  · intro t h
    have h1 : repeatOf (repWord 0 true true true 1) vaddWord 1 = some (.vadd .i32 0 4 3 2 false) := by decide
    rw [h1] at h
    cases h
    decide
  · intro n hn
    match n, hn with
    | 0, _ => exact ⟨.vadd .i32 0 3 2 1 false, by decide, by decide, by decide⟩
    | 1, _ => exact ⟨.vadd .i32 0 4 3 2 false, by decide, by decide, by decide⟩

/-- A split at a repeat of a REP of two. -/
def inRep (n : BitVec 6) (sp : Split) : Split := { sp with repActive := true, repNext := n, repCount := 1 }

theorem witness_AfterAnInstruction : (X svc).inService = true ∧ X.inService = false ∧ X.sp.repActive = false ∧
    ((X (g := inRep 0)).sp.repActive = true ∧ (X (g := inRep 0)).sp.repNext.toNat < (X (g := inRep 0)).sp.repCount.toNat) ∧
    (X (g := inRep 1)).sp.repCount.toNat ≤ (X (g := inRep 1)).sp.repNext.toNat := by decide

/-- The hypotheses of R52's checks for an instruction whose word is `w`, and which of them passes. -/
def Check (i : Instr) (w : Nat) (f : Wave → Wave) (g : Split → Split) (h : Team → Team)
    (inPool mayRun roleFits noRaw noWaw : Bool) : Prop :=
  let x := X f g h
  encode i = some (4, w) ∧ checkout (S f g h) = some x ∧ (x.inService || x.sp.only != some 0) = true ∧
  (x.inService = true → InSubset w) ∧
  decide (∀ n ∈ (infoOf i).vectors, n < x.tm.vregs) = inPool ∧
  decide ((infoOf i).priv = .any ∨ (infoOf i).priv = .service ∧ x.inService = true) = mayRun ∧
  decide (roleAllows x.wv.role (infoOf i).cls = true ∧ ((infoOf i).array = true → x.tm.array = true)) = roleFits ∧
  decide (∀ r ∈ regsRead i x, x.sp.pend.has r = false) = noRaw ∧
  decide (∀ r ∈ (infoOf i).writes, x.sp.pend.has r = true → r ∈ regsRead i x) = noWaw

/-- v2 or v1 pending. -/
def pendV (w : W64) (sp : Split) : Split := { sp with pend := { sp.pend with v := w } }

theorem witness_ChecksAtIssue :
    (encode (.vadd .i32 0 3 2 1 false) = some (4, vaddWord) ∧ checkout (S svc) = some (X svc) ∧ (X svc).inService = true ∧
      ¬ InSubset vaddWord) ∧
    Check (.vadd .i32 0 3 2 1 false) vaddWord id id (fun t => { t with vregs := 3 }) false true true true true ∧
    Check (.rett false) 0x1F1 id id id true false true true true ∧ Check (.rett false) 0x1F1 svc id id true true true true true ∧
    Check (.vadd .i32 0 3 2 1 false) vaddWord (fun w => { w with role := 2 }) id id true true false true true ∧
    Check (.vadd .i32 0 3 2 1 false) vaddWord id (pendV 4) id true true true false true ∧
    Check (.sadd 3 2 1 false) 0x308171 svc (fun sp => { sp with pend := { sp.pend with s := 4 } }) id true true true false true ∧
    Check (.sadd 3 2 1 false) 0x308171 svc (fun sp => { sp with pend := { sp.pend with s := 2 } }) id true true true true false ∧
    Check (.bld 1 8 0 false) 75498193 id (fun sp => { sp with pend := { sp.pend with k := 1 } }) id true true true false true ∧
    Check (.vadd .i32 0 3 2 1 false) vaddWord id (pendV 2) id true true true true false ∧
    Check (.vadd .i32 0 3 2 1 false) vaddWord id id id true true true true true := by
  refine ⟨⟨rfl, rfl, rfl, by unfold InSubset; decide⟩, ?_, ?_, ?_, ?_, ?_, ?_, ?_, ?_, ?_, ?_⟩
  all_goals exact ⟨rfl, rfl, rfl, by unfold InSubset; decide, rfl, rfl, rfl, rfl, rfl⟩

/-- The taken-out split stands in its state. -/
def Stands (x : Iss) : Prop :=
  x.st.teams[x.st.cur.team]? = some x.tm ∧ x.tm.waves[x.st.cur.wave]? = some x.wv ∧ x.st.cur.slot = x.slot

/-- The wave's MMA still stands in the sequencer. -/
def busyCore : State → State := core0 fun c => { c with queue := [pass] }

/-- A wave with nothing in its sequencer, which is not parked, may enter service mode; a parked one may not, nor may one with results
in flight. -/
theorem may_enter {f : Wave → Wave} {g : Split → Split} {h : Team → Team} (hp : (wave f g).park = none) : MayEnter (X f g h) :=
  ⟨(fun _ hc => nomatch hc), hp⟩

theorem results_busy : ¬ ResultsWritten (X (k := busyCore)) :=
  fun h => h _ List.mem_cons_self rfl pass List.mem_cons_self rfl rfl

theorem witness_TrapEntry :
    (Stands (X handler) ∧ (X handler).inService = false ∧ MayEnter (X handler) ∧ (X handler).wv.tvecObj ≠ 0) ∧
    (Stands (X (k := busyCore)) ∧ ¬ MayEnter (X (k := busyCore))) ∧ (Stands (X parkedOn) ∧ ¬ MayEnter (X parkedOn)) ∧
    (Stands X ∧ MayEnter X ∧ X.wv.tvecObj = 0 ∧ X.wv.cc.k = false ∧ (X (kp true false)).wv.cc.k = true) ∧
    (Stands (X svc) ∧ (X svc).wv.svc = some (X svc).slot ∧ (X svc).wv.cc.k = false ∧ (X (svc ∘ kp true false)).wv.cc.k = true) :=
  ⟨⟨⟨rfl, rfl, rfl⟩, rfl, may_enter rfl, by decide⟩, ⟨⟨rfl, rfl, rfl⟩, fun h => results_busy h.1⟩,
    ⟨⟨rfl, rfl, rfl⟩, fun h => nomatch h.2⟩, ⟨⟨rfl, rfl, rfl⟩, may_enter rfl, rfl, rfl, rfl⟩, ⟨rfl, rfl, rfl⟩, rfl, rfl, rfl⟩

/-- A debugger is attached to context 0, or not. -/
def attached (s : State) : State :=
  { s with contexts := s.contexts.set 0 { Context.none with dbg := { Debug.zero with attach := true } } }

theorem witness_TrapAndBkptEntries :
    (Issues (.trap 31 false) (S handler) (X handler) ∧ (X handler).inService = false ∧ MayEnter (X handler) ∧
      (X handler).wv.tvecObj ≠ 0) ∧
    (Issues (.trap 31 false) (S svc) (X svc) ∧ (X svc).inService = true) ∧
    (Issues (.bkpt 15 false) (S handler) (X handler) ∧
      ((X handler).st.ctx (X handler).tm.ctx).dbg.attach = false) ∧
    (Issues (.bkpt 15 false) (S (k := attached)) (X (k := attached)) ∧
      ((X (k := attached)).st.ctx (X (k := attached)).tm.ctx).dbg.attach = true) :=
  ⟨⟨issues_of rfl (by decide), rfl, may_enter rfl, by decide⟩, ⟨issues_of rfl (by decide), rfl⟩, ⟨issues_of rfl (by decide), rfl⟩,
    ⟨issues_of rfl (by decide), rfl⟩⟩

theorem witness_RettEntry :
    (Issues (.rett true) (S svc) (X svc) ∧ (X svc).wv.cc.k = false) ∧
    (Issues (.rett true) (S (svc ∘ kp true false)) (X (svc ∘ kp true false)) ∧ (X (svc ∘ kp true false)).wv.cc.k = true) :=
  ⟨⟨issues_of rfl (by decide), rfl⟩, ⟨issues_of rfl (by decide), rfl⟩⟩

/-- Lanes 0 and 1 faulting, lane 1 with the lower cause. -/
def faults01 : List LaneFault := [⟨0, 0x24, 1, 2⟩, ⟨1, 0x20, 3, 4⟩]

theorem witness_LaneFaultEndings :
    ((⟨1, 0x20, 3, 4⟩ : LaneFault) ∈ faults01 ∧
      (∀ g ∈ faults01, 0x20 < g.cause ∨ 0x20 = g.cause ∧ (1 : Fin 32) ≤ g.lane) ∧
      (∀ g ∈ faults01, g.lane = 1 → g.cause = 0x20 → g = ⟨1, 0x20, 3, 4⟩)) ∧
    ((∀ g ∈ faults01, (X (g := fun sp => { sp with mask := 3 })).sp.mask.getLsbD g.lane.val = true) ∧
      maskOf (fun L => faults01.any fun g => g.lane == L) = (X (g := fun sp => { sp with mask := 3 })).sp.mask ∧
      (X (g := fun sp => { sp with mask := 3 })).wv.cc.k = false) ∧
    ((X (kp true false) fun sp => { sp with mask := 3 }).wv.cc.k = true ∧
      (X (kp true false) fun sp => { sp with mask := 3 }).st.teams[0]? ≠ none ∧
      0 < (X (kp true false) fun sp => { sp with mask := 3 }).tm.waves.length ∧
      (X (kp true false) fun sp => { sp with mask := 3 }).wv.status = .running ∧
      (X (kp true false) fun sp => { sp with mask := 3 }).wv.svc = none ∧
      ∀ k : Fin 4, k ≠ (X (kp true false) fun sp => { sp with mask := 3 }).slot →
        (X (kp true false) fun sp => { sp with mask := 3 }).wv.splits[k] = none) ∧
    (X.inService = false ∧ X.sp.repActive = false ∧ (∀ g ∈ faults01, X.sp.mask.getLsbD g.lane.val = true) ∧
      maskOf (fun L => faults01.any fun g => g.lane == L) ≠ X.sp.mask ∧ X.wv.splits[(1 : Fin 4)] = none ∧
      ∀ k : Fin 4, k < 1 → k = X.slot) ∧
    ((∀ k : Fin 4, k ≠ (X (fullSlots ∘ handler)).slot → (X (fullSlots ∘ handler)).wv.splits[k] ≠ none) ∧
      MayEnter (X (fullSlots ∘ handler)) ∧ (X (fullSlots ∘ handler)).wv.tvecObj ≠ 0) := by
  unfold MayEnter ResultsWritten; decide

/-- A split whose replay runs for no lane, at repeat `n` of a REP of two or in none. -/
def skips (n : Option (BitVec 6)) (sp : Split) : Split :=
  let q := match n with | some k => inRep k sp | none => sp
  { q with only := some 0 }

theorem witness_ReplayablePark : ((X svc).inService = true ∧ (X svc).wv.cc.k = false ∧ ResultsWritten (X svc)) ∧ (X.inService = false ∧ X.wv.cc.k = false ∧ ResultsWritten X) ∧
    ((X (k := busyCore)).wv.cc.k = false ∧ ¬ ResultsWritten (X (k := busyCore))) ∧ (X (kp true false)).wv.cc.k = true ∧
    ((encode (.vadd .i32 0 3 2 1 false)).isSome = true ∧
      (∀ (st : Fin 4) (a b c : Bool) (n : Fin 64) (mk : Bool), (.vadd .i32 0 3 2 1 false : Instr) ≠ .rep st a b c n mk) ∧
      checkout (S (g := skips none)) = some (X (g := skips none)) ∧ (X (g := skips none)).inService = false ∧
      (X (g := skips none)).sp.only = some 0 ∧ (X (g := skips none)).sp.repActive = false) ∧
    (checkout (S (g := skips (some 0))) = some (X (g := skips (some 0))) ∧ (X (g := skips (some 0))).sp.repActive = true ∧
      (X (g := skips (some 0))).sp.only = some 0 ∧
      (X (g := skips (some 0))).sp.repNext.toNat < (X (g := skips (some 0))).sp.repCount.toNat) ∧
    ((X (g := skips (some 1))).sp.repActive = true ∧ (infoOf (.vadd .i32 0 3 2 1 false)).len = 4 ∧
      (X (g := skips (some 1))).sp.repCount.toNat ≤ (X (g := skips (some 1))).sp.repNext.toNat) ∧
    (wordAt (X (g := skips none) (k := code [0, 0])).text 0 = .bits 0 ∧ decodeWord 0 = .error .illegalParcel) ∧
    (wordAt (X (g := skips (some 0)) (k := code (leBytes 4 0x800000A1))).text 0 = .bits 0x800000A1 ∧ isRep 0x800000A1 = true ∧
      decodeWord 0x800000A1 = .error .illegalField) :=
  ⟨⟨rfl, rfl, fun _ hc => nomatch hc⟩, ⟨rfl, rfl, fun _ hc => nomatch hc⟩, ⟨rfl, results_busy⟩, rfl,
    ⟨rfl, (fun _ _ _ _ _ _ h => nomatch h), rfl, rfl, rfl, rfl⟩, ⟨rfl, rfl, rfl, by decide⟩, by decide, ⟨by decide, rfl⟩,
    by decide, by decide, rfl⟩

theorem witness_FetchFaults :
    (checkout (S (k := code [0, 0])) = some (X (k := code [0, 0])) ∧
      wordAt (X (k := code [0, 0])).text 0 = .bits 0 ∧ decodeWord 0 = .error .illegalParcel) ∧
    (wordAt (X (k := code [1, 0, 0, 0])).text 0 = .bits 1 ∧ decodeWord 1 = .error .illegalOp) ∧
    (wordAt (X (k := code [5, 0, 0])).text 0 = .outside 2 ∧ wordAt X.text 0 = .outside 0) ∧
    (checkout (S handling (k := code [0, 0])) = some (X handling (k := code [0, 0])) ∧ (X handling).inService = true ∧
      wordAt (X handling (k := code [0, 0])).text (X handling).wv.svcPc.toNat = .bits 0 ∧
      wordAt (X handling (k := code (leBytes 4 vaddWord))).text 0 = .bits vaddWord ∧ vaddWord % 2 ^ 16 ≠ 0 ∧ ¬ InSubset vaddWord ∧
      wordAt (X handling (k := code (leBytes 4 0x11F1))).text 0 = .bits 0x11F1 ∧ InSubset 0x11F1 ∧
      decodeWord 0x11F1 = .error .illegalField ∧ wordAt (X handling).text 0 = .outside 0) :=
  ⟨⟨rfl, by decide, rfl⟩, ⟨by decide, rfl⟩, ⟨by decide, by decide⟩, rfl, rfl, by decide, by decide, by decide,
    by unfold InSubset; decide, by decide, by unfold InSubset; decide, rfl, by decide⟩

theorem witness_RegisterWrites : X.inService = false ∧ (X svc).inService = true ∧
    (svc = svc → 48 ≤ (63 : SReg).val) ∧ (60 + 4 ≤ 64 ∧ 0 < 4) ∧ (62 : VReg).val < 63 := by
  refine ⟨rfl, rfl, fun _ => by decide, by decide, by decide⟩

/-! ### Memory -/

/-- Physical base of the LP6 tier, and of the page of object 4. -/
def lp6 : Nat := 0x10000000000
def page4 : Nat := lp6 + 0x100000

/-- The entry of object 4: every right, tentative allowed, one page of the LP6 tier. -/
def entry4 : Entry := ⟨0x10000, 31, false, true, false, 1, 0, true, 1, 3, 1, lp6 + 0x1000⟩

/-- Entries for objects 4, 5 and 6: 5 without rights but to read; 6 with no page present. -/
def table : Memory :=
  let leaf := fun (present : Nat) => leBytes 8 ((lp6 / 65536 + 16) * 2 ^ 32 + present * 2 ^ 60)
  let e := entry4
  ((((Memory.empty.writeBytes (lp6 + 128) e.toBytes).writeBytes (lp6 + 160) { e with rights := 1, tent := false }.toBytes).writeBytes
    (lp6 + 192) { e with leafPa := lp6 + 0x1010 }.toBytes).writeBytes (lp6 + 0x1000) (leaf 1)).writeBytes (lp6 + 0x1010) (leaf 0)

/-- Context 0 running over that table, with some bytes in object 4. -/
def mapped (bs : List Byte) (s : State) : State :=
  { s with
    phys := table.writeBytes page4 bs
    contexts := s.contexts.set 0 { Context.none with state := .running, tableBase := lp6, tableLen := 16, allowT := 1000 } }

/-- The whole of object 4 with rights. -/
def cap4 (rights : Nat) : Cap := capMake 4 0 0x10000 rights false 1

/-- A capability of an old generation; one of object 6, whose page is not there; one of an object of module 4. -/
def oldCap : Cap := capMake 4 0 0x10000 15 false 2
def cap6 : Cap := capMake 6 0 0x10000 15 false 1
def capR (rights : Nat) : Cap := capMake 0x801004 0 0x10000 rights false 1

/-- Bytes laid over zeros at places. -/
def bytesAt (n : Nat) : List (Nat × List Byte) → List Byte
  | [] => zeros n
  | (o, bs) :: ps => overlay (bytesAt n ps) o bs

/-- A descriptor of two members, one needed, two steps of 256 bytes in object 4, results posted to object 4. -/
def descAt (quota : Nat) : List (Nat × List Byte) :=
  [(0, capBytes (capMake 4 0 0x10000 31 false 1)), (16, capBytes (cap4 15)), (32, leBytes 8 (1 + 2 ^ 7 + 2 ^ 32)),
    (40, leBytes 5 256), (48, leBytes 4 quota)]
def desc (quota : Nat) : List Byte := bytesAt 320 (descAt quota)

/-- Quorum 0 of die 0 with the team bound as member 0; with that descriptor. -/
def bound0 : Quorum :=
  ⟨0, 0, .opened, 0, zeros 320, 0, 0, 0, [(0, 0, 0)], 0, -1, 0, 0, zeros 64, []⟩
def bound (quota : Nat) : Quorum := { bound0 with desc := desc quota }

/-- The team is that quorum's member 0. -/
def member0 (t : Team) : Team := { t with member := some (0x80000000, 0) }
def quorum0 (s : State) : State := s.setDie 0 { s.dies[0] with quorums := [bound0] }

/-- A quorum of two members, both needed by tick 1. -/
def quorum2 : Quorum := { bound0 with
  desc := bytesAt 320 [(32, leBytes 8 (1 + 2 * 2 ^ 7 + 2 ^ 32))], mark := 0 }
def open2 (s : State) : State := s.setDie 0 { s.dies[0] with quorums := [quorum2] }

/-- A stream block: TAIL, HEAD, INGEST equal to HEAD, and a CONFIG with LOGN = 1. -/
def block (tail head cfg : Nat) : List Byte := leBytes 8 tail ++ leBytes 8 head ++ leBytes 8 head ++ leBytes 8 cfg
def cfg (kind maxd : Nat) : Nat := 2 ^ 63 + 2 ^ 36 + kind * 2 ^ 41 + maxd * 2 ^ 45

/-- The split in some status. -/
def stands (st : SplitStatus) (sp : Split) : Split := { sp with status := st }

/-- k1 as given, in a wave with scalars as given. -/
def k1 (c : Cap) (w : Wave) : Wave := { w with k := w.k.set 1 c }
def sreg (n : Fin 64) (v : W64) (w : Wave) : Wave := { w with s := w.s.set n v }

/-- A store of two bytes to object 4, tentative for member 0 of quorum 0, or not. -/
def store4 (m : Option (W32 × Nat)) : QueuedStore := ⟨1, 4, 1, 254, page4 + 254, false, m, [1, 2], none⟩

/-- Only lane 31 active. -/
def lane31 (sp : Split) : Split := { sp with mask := 0x80000000 }

theorem noDbg {x : Iss} {s : State} (h : (s.ctx x.tm.ctx).dbg.attach = false) : NoDebugger x s := h

theorem got {p : State × Got} {g : Got} (h : p.2 = g) : p = (p.1, g) := by rw [← h]

/-- The wave that loads and stores through k1 in lane 31, v1 and s1 zero. -/
def M : State := S (k1 (cap4 15)) lane31 id (mapped [7, 8])
def MX : Iss := X (k1 (cap4 15)) lane31 id (mapped [7, 8])

/-- The same wave with the image of its own capability at offset 16, and s2 = 16. -/
def C : State := S (sreg 2 16 ∘ k1 (cap4 15)) id id (mapped (zeros 16 ++ capBytes (cap4 15)))
def CX : Iss := X (sreg 2 16 ∘ k1 (cap4 15)) id id (mapped (zeros 16 ++ capBytes (cap4 15)))

/-- One active lane: the run of its access. -/
theorem runs31 {f : State → Fin 32 → State × Got} {x : Iss} {g : Got} (hm : ascending x.mask = [31])
    (h : (f x.st 31).2 = g ∧ ((f x.st 31).1.ctx x.tm.ctx).dbg.attach = false) :
    ∃ s', LaneRun f (fun _ => g) (ascending x.mask) x.st s' ∧ NoDebugger x s' :=
  ⟨_, hm ▸ .lane 31 [] _ _ _ (got h.1) (.done _), h.2⟩

theorem loads {x : Iss} {cap : Cap} {o w : Nat} {g : Got} (h : (x.load x.st cap 0 o w).2 = g ∧
      ((x.load x.st cap 0 o w).1.ctx x.tm.ctx).dbg.attach = false) :
    ∃ s', x.load x.st cap 0 o w = (s', g) ∧ NoDebugger x s' :=
  ⟨_, got h.1, h.2⟩

theorem stores {x : Iss} {cap : Cap} {o w : Nat} {bs : List Byte} {rel : Option Scope} {g : Got}
    (h : (x.store x.st cap 0 o w bs rel).2 = g ∧
      ((x.store x.st cap 0 o w bs rel).1.ctx x.tm.ctx).dbg.attach = false) :
    ∃ s', x.store x.st cap 0 o w bs rel = (s', g) ∧ NoDebugger x s' :=
  ⟨_, got h.1, h.2⟩

theorem asc31 : ascending MX.mask = [31] := by decide

/-- No L1 holds a sector of it, no poison, its home empty. -/
theorem quiet4 {s : State} {pa : Nat} (h : s.phys.wf = true ∧ (s.cores.all fun c => c.l1.isEmpty) = true ∧
      pa / 256 * 256 ∉ s.badPhys ∧ homeOf pa = some .lp6) : QuietHome s pa :=
  ⟨h.1, fun c hc => List.isEmpty_iff.mp (List.all_eq_true.mp h.2.1 c hc), h.2.2.1, .lp6, h.2.2.2, fun _ e => nomatch e⟩

theorem walk_of {s : State} {ctx obj off pa : Nat} {p : Entry → Leaf → Bool}
    (h : (match s.walk ctx obj off with | .ok q e l => decide (q = pa) && p e l | _ => false) = true) :
    ∃ e l, s.walk ctx obj off = .ok pa e l ∧ p e l = true := by
  generalize s.walk ctx obj off = w at h ⊢
  cases w with
  | ok q e l =>
    simp only [Bool.and_eq_true, decide_eq_true_eq] at h
    obtain ⟨rfl, h2⟩ := h
    exact ⟨e, l, rfl, h2⟩
  | _ => cases h

/-- Some bytes at the base of object 4 are found there. -/
theorem lands {x : Iss} {s : State} {cap : Cap} {right w : Nat} (hc : Checked cap right 0 w)
    (h : remoteObj (capObj cap) = false ∧ (s.core x.tm.die x.wv.core).otb = [] ∧ entry4.cgen = (cap.extractLsb' 112 16).toNat ∧
      (match s.walk x.tm.ctx (capObj cap) ((cap.extractLsb' 24 40).toNat + 0) with
        | .ok q e _ => decide (q = page4) && decide (e = entry4)
        | _ => false) = true) : Lands x s cap right 0 w page4 entry4 := by
  obtain ⟨e, l, h1, h2⟩ := walk_of h.2.2.2
  simp only [decide_eq_true_eq] at h2
  subst h2
  exact ⟨hc, h.1, h.2.1, ⟨l, h1⟩, h.2.2.1⟩

/-- A record of a POST of the wave that cannot be written: its object has no page. -/
def owing (s : State) : State :=
  s.setDie 0 { s.dies[0] with records := [⟨0, 6, some 0, 0, zeros 64, 0, 0, true, none, some 0⟩] }

/-- The wave with another capability in k1; with the tentative one, its team member 0 of a quorum of that quota, its version of the first
sector written or not, or not there. -/
def MK (c : Cap) : State := S (k1 c) lane31 id (mapped [7, 8])
def MKX (c : Cap) : Iss := X (k1 c) lane31 id (mapped [7, 8])
def versions (quota : Nat) (v : Option (BitVec 256)) (s : State) : State :=
  { mapped [7, 8] s with
    dies := s.dies.set 0 { Die.fresh with quorums := [bound quota] }
    lp6 := match v with
      | some m => [⟨page4, 1, 0x80000000, 0, Vector.replicate 4 (some (zeros 256)), Vector.replicate 4 m, Vector.replicate 4 false⟩]
      | none => [] }
def MV (quota : Nat) (v : Option (BitVec 256)) : State := S (k1 (cap4 31)) lane31 member0 (versions quota v)
def MVX (quota : Nat) (v : Option (BitVec 256)) : Iss := X (k1 (cap4 31)) lane31 member0 (versions quota v)

theorem witness_MemoryLoads :
    (NoneOwed MX ∧ NoneOwed CX) ∧
    (Issues (.ld .core false .b32 true 1 1 2 false) M MX ∧ (∃ s' : State,
      LaneRun (fun u L => MX.load u (MX.k 1) L.val ((MX.v 1 L).toNat * 4) 4) (fun _ => .bytes [7, 8, 0, 0]) (ascending MX.mask) MX.st s' ∧
      NoDebugger MX s') ∧ laneFaults MX.mask (fun _ => .bytes [7, 8, 0, 0]) 1 (fun _ => 0) = [] ∧
      lanesLeft MX.mask (fun _ => .bytes [7, 8, 0, 0]) (MX.k 1) 0 (fun _ => 0) = none) ∧
    (Issues (.ld .core false .b32 true 1 0 2 false) M MX ∧ (∃ s' : State,
      LaneRun (fun u L => MX.load u (MX.k 0) L.val ((MX.v 1 L).toNat * 4) 4) (fun _ => .fault 0x23) (ascending MX.mask) MX.st s' ∧
      NoDebugger MX s') ∧ laneFaults MX.mask (fun _ => .fault 0x23) 0 (fun _ => 0) ≠ []) ∧
    (Issues (.ld .core false .b32 true 1 1 2 false) (MK cap6) (MKX cap6) ∧ (∃ s' : State,
      LaneRun (fun u L => (MKX cap6).load u ((MKX cap6).k 1) L.val (((MKX cap6).v 1 L).toNat * 4) 4) (fun _ => .unfinished 0x26 3)
        (ascending (MKX cap6).mask) (MKX cap6).st s' ∧ NoDebugger (MKX cap6) s') ∧
      lanesLeft (MKX cap6).mask (fun _ => .unfinished 0x26 3) cap6 0 (fun _ => 0) ≠ none) ∧
    (Issues (.ldScalar .sys true .b64 true 1 1 2 false) M MX ∧ ∃ s' : State,
      MX.load MX.st (MX.k 1) 0 ((MX.s 1).toNat * 8) 8 = (s', .bytes ([7, 8] ++ zeros 6)) ∧ NoDebugger MX s') ∧
    (Issues (.ldScalar .sys true .b64 true 1 0 2 false) M MX ∧ ∃ s' : State,
      MX.load MX.st (MX.k 0) 0 ((MX.s 1).toNat * 8) 8 = (s', .fault 0x23)) ∧
    (Issues (.ldScalar .sys true .b64 true 1 1 2 false) (MK cap6) (MKX cap6) ∧ ∃ s' : State,
      (MKX cap6).load (MKX cap6).st ((MKX cap6).k 1) 0 (((MKX cap6).s 1).toNat * 8) 8 = (s', .unfinished 0x26 3)) ∧
    (Issues (.cload 1 1 2 false) M MX ∧ ∃ s' : State,
      MX.load MX.st (MX.k 1) 0 (MX.s 1).toNat 16 = (s', .bytes ([7, 8] ++ zeros 14)) ∧ NoDebugger MX s' ∧
      s'.validateImage MX.tm.ctx (capOfBytes ([7, 8] ++ zeros 14)) = some 0x23) ∧
    (Issues (.cload 2 1 2 false) C CX ∧ ∃ s' : State,
      CX.load CX.st (CX.k 1) 0 (CX.s 2).toNat 16 = (s', .bytes (capBytes (cap4 15))) ∧ NoDebugger CX s' ∧
      s'.validateImage CX.tm.ctx (capOfBytes (capBytes (cap4 15))) = none) ∧
    (Issues (.cload 1 0 2 false) M MX ∧ ∃ s' : State, MX.load MX.st (MX.k 0) 0 (MX.s 1).toNat 16 = (s', .fault 0x23)) ∧
    (Issues (.cload 1 1 2 false) (MK cap6) (MKX cap6) ∧ ∃ s' : State,
      (MKX cap6).load (MKX cap6).st ((MKX cap6).k 1) 0 ((MKX cap6).s 1).toNat 16 = (s', .unfinished 0x26 3)) ∧
    (Reaches MX M (cap4 15) 0 0 4 page4 entry4 ∧ QuietHome M page4) ∧
    (IsNewest [store4 none] (page4 + 255) 2 ∧ ∀ q ∈ [store4 none], ¬ Supplies q (page4 + 256)) ∧
    (Lands (MVX 256 (some 1)) (MV 256 (some 1)) (cap4 31) 0 0 4 page4 entry4 ∧ QuietHome (MV 256 (some 1)) page4 ∧
      (cap4 31).getLsbD 108 = true ∧ (MVX 256 (some 1)).wv.stores = [] ∧ (MVX 256 (some 1)).tm.member = some (0x80000000, 0) ∧
      (MV 256 (some 1)).versionWritten 0x80000000 0 page4 = true ∧ (MV 256 (some 1)).versionOf 0x80000000 0 page4 = some (zeros 256)) ∧
    ((MV 256 (some 0)).versionWritten 0x80000000 0 page4 = false ∧ (MKX (cap4 31)).tm.member = none) ∧
    (Checked (capR 15) 0 0 4 ∧ remoteObj (capObj (capR 15)) = true) := by
  refine ⟨⟨rfl, rfl⟩, ⟨issues_of rfl (by decide), runs31 asc31 (by decide +kernel), by decide +kernel, by decide +kernel⟩,
    ⟨issues_of rfl (by decide), runs31 asc31 (by decide +kernel), by decide +kernel⟩,
    ⟨issues_of rfl (by decide), runs31 asc31 (by decide +kernel), by decide +kernel⟩,
    ⟨issues_of rfl (by decide), loads (by decide +kernel)⟩,
    ⟨issues_of rfl (by decide), _, got (by decide +kernel)⟩, ⟨issues_of rfl (by decide), _, got (by decide +kernel)⟩,
    ⟨issues_of rfl (by decide), _, got (by decide +kernel), noDbg (by decide +kernel), by decide +kernel⟩,
    ⟨issues_of rfl (by decide), _, got (by decide +kernel), noDbg (by decide +kernel), by decide +kernel⟩,
    ⟨issues_of rfl (by decide), _, got (by decide +kernel)⟩, ⟨issues_of rfl (by decide), _, got (by decide +kernel)⟩,
    ⟨⟨by decide, lands (by unfold Checked; decide) (by decide +kernel)⟩, quiet4 (by decide +kernel)⟩,
    ⟨⟨[], [], _, rfl, by unfold Supplies; decide, rfl, fun _ h => nomatch h⟩, by unfold Supplies; decide⟩,
    ⟨lands (by unfold Checked; decide) (by decide +kernel), quiet4 (by decide +kernel), by decide, rfl, rfl, by decide +kernel,
      by decide +kernel⟩, by decide +kernel, by unfold Checked; decide, by decide⟩

/-- The two halves of the first sector of object 4, stored by one instruction. -/
def halves : List QueuedStore :=
  [⟨1, 4, 1, 128, page4 + 128, false, none, zeros 128, none⟩, ⟨1, 4, 1, 0, page4, false, none, zeros 128, none⟩]

/-- Object 4 is a stream, of that kind. -/
def streamed (kind : Nat) (s : State) : State :=
  let u := mapped (block 0 0 (cfg kind 1)) s
  u.setCtx 0 { u.ctx 0 with streams := [4] }

/-- The team is bound to the quorum of that state as its member 0, whose slot holds the first bytes of object 4. -/
def Binds (quota : Nat) (v : Option (BitVec 256)) : Prop :=
  BoundAs (MVX quota v) (MV quota v) 0x80000000 0 (bound quota) ∧ SlotHolds (bound quota) 0 4 0 4 ∧
    Lands (MVX quota v) (MV quota v) (cap4 31) 1 0 4 page4 entry4 ∧ (∀ c ∈ (MV quota v).cores, c.l1 = [])

theorem binds {quota : Nat} {v : Option (BitVec 256)}
    (h : ((MV quota v).quorum 0 0x80000000 = some (bound quota) ∧ (bound quota).isBound 0 0 0 = true) ∧
      remoteObj (capObj (cap4 31)) = false ∧ ((MV quota v).core 0 0).otb = [] ∧ entry4.cgen = ((cap4 31).extractLsb' 112 16).toNat ∧
      (match (MV quota v).walk 0 (capObj (cap4 31)) (((cap4 31).extractLsb' 24 40).toNat + 0) with
        | .ok q e _ => decide (q = page4) && decide (e = entry4)
        | _ => false) = true)
    (hs : SlotHolds (bound quota) 0 4 0 4) : Binds quota v :=
  ⟨⟨rfl, h.1.1, h.1.2⟩, hs, lands (by unfold Checked; decide) h.2, fun _ hc => nomatch hc⟩

theorem witness_MemoryStores :
    (Issues (.st .sys true .b128 false 1 1 4 false) M MX ∧ (∃ s' : State,
      LaneRun (fun u L => MX.store u (MX.k 1) L.val ((MX.v 1 L).toNat * 1) 16 (leBytes 16 (blockNat MX 4 4 L)) (some .sys))
        (fun _ => .queued ⟨1, 4, 1, 0, page4, false, none, zeros 16, some .sys⟩) (ascending MX.mask) MX.st s' ∧ NoDebugger MX s') ∧
      laneFaults MX.mask (fun _ => .queued (store4 none)) 1 (fun _ => 0) = [] ∧
      lanesLeft MX.mask (fun _ => .queued (store4 none)) (MX.k 1) 1 (fun _ => 0) = none) ∧
    (Issues (.st .sys true .b128 false 1 0 4 false) M MX ∧ ∃ s' : State,
      LaneRun (fun u L => MX.store u (MX.k 0) L.val ((MX.v 1 L).toNat * 1) 16 (leBytes 16 (blockNat MX 4 4 L)) (some .sys))
        (fun _ => .fault 0x23) (ascending MX.mask) MX.st s' ∧ NoDebugger MX s') ∧
    (Issues (.st .sys true .b128 false 1 1 4 false) (MK cap6) (MKX cap6) ∧ ∃ s' : State,
      LaneRun (fun u L => (MKX cap6).store u ((MKX cap6).k 1) L.val (((MKX cap6).v 1 L).toNat * 1) 16
        (leBytes 16 (blockNat (MKX cap6) 4 4 L)) (some .sys))
        (fun _ => .unfinished 0x26 3) (ascending (MKX cap6).mask) (MKX cap6).st s' ∧ NoDebugger (MKX cap6) s') ∧
    (Issues (.stScalar .core false .b8 false 1 1 4 false) M MX ∧ ∃ s' : State,
      MX.store MX.st (MX.k 1) 0 ((MX.s 1).toNat * 1) 1 (leBytes 1 (MX.s 4).toNat) none =
        (s', .queued ⟨1, 4, 1, 0, page4, false, none, [0], none⟩) ∧ NoDebugger MX s') ∧
    (Issues (.cstore 1 1 2 false) M MX ∧ ∃ s' : State,
      MX.store MX.st (MX.k 1) 0 (MX.s 1).toNat 16 (leBytes 16 (MX.k 2).toNat) none =
        (s', .queued ⟨1, 4, 1, 0, page4, false, none, zeros 16, none⟩) ∧ NoDebugger MX s') ∧
    (Issues (.stScalar .core false .b8 false 1 0 4 false) M MX ∧ ∃ s' : State,
      MX.store MX.st (MX.k 0) 0 ((MX.s 1).toNat * 1) 1 (leBytes 1 (MX.s 4).toNat) none = (s', .fault 0x23)) ∧
    (Issues (.cstore 1 1 2 false) (MK cap6) (MKX cap6) ∧ ∃ s' : State,
      (MKX cap6).store (MKX cap6).st ((MKX cap6).k 1) 0 ((MKX cap6).s 1).toNat 16 (leBytes 16 ((MKX cap6).k 2).toNat) none =
        (s', .unfinished 0x26 3)) ∧
    (Lands MX M (cap4 15) 1 0 4 page4 entry4 ∧ (∀ c ∈ M.cores, c.l1 = []) ∧ ¬ BlockBars M 0 4 0 4 page4 ∧
      (cap4 15).getLsbD 108 = false) ∧
    (Lands MX (S (k := streamed 0)) (cap4 15) 1 0 8 page4 entry4 ∧ BlockBars (S (k := streamed 0)) 0 4 0 8 page4 ∧
      ¬ BlockBars (S (k := streamed 0)) 0 4 8 8 page4) ∧
    (Lands (MKX (cap4 31)) (MK (cap4 31)) (cap4 31) 1 0 4 page4 entry4 ∧ (cap4 31).getLsbD 108 = true ∧
      (MKX (cap4 31)).tm.member = none) ∧
    (Binds 256 (some 0) ∧ ((MV 256 (some 0)).versionOf 0x80000000 0 page4).isSome = true) ∧
    (Binds 255 none ∧ (MV 255 none).versionOf 0x80000000 0 page4 = none ∧ NoVersion (MV 255 none) 0x80000000 0 (bound 255) page4) ∧
    (Binds 256 none ∧ (MV 256 none).versionOf 0x80000000 0 page4 = none ∧ ¬ NoVersion (MV 256 none) 0x80000000 0 (bound 256) page4 ∧
      QuietHome (MV 256 none) page4) ∧
    (Checked (capR 31) 1 0 4 ∧ remoteObj (capObj (capR 31)) = true ∧ (capR 31).getLsbD 108 = true ∧ (capR 15).getLsbD 108 = false ∧
      Checked (capR 15) 1 0 4 ∧ remoteObj (capObj (capR 15)) = true) ∧
    ([store4 none].map fun p => p.bytes.length).sum < 256 ∧
    (halves.all fun q => halves.all fun p => q.sameSector p && decide (p.off % 256 + p.bytes.length ≤ 256)) = true ∧
    ∀ i < 256, ∃ p ∈ halves, p.off % 256 ≤ i ∧ i < p.off % 256 + p.bytes.length := by
  refine ⟨⟨issues_of rfl (by decide), runs31 asc31 (by decide +kernel), by decide +kernel, by decide +kernel⟩,
    ⟨issues_of rfl (by decide), runs31 asc31 (by decide +kernel)⟩, ⟨issues_of rfl (by decide), runs31 asc31 (by decide +kernel)⟩,
    ⟨issues_of rfl (by decide), stores (by decide +kernel)⟩, ⟨issues_of rfl (by decide), stores (by decide +kernel)⟩,
    ⟨issues_of rfl (by decide), _, got (by decide +kernel)⟩, ⟨issues_of rfl (by decide), _, got (by decide +kernel)⟩,
    ⟨lands (by unfold Checked; decide) (by decide +kernel), (fun _ hc => nomatch hc), by unfold BlockBars; decide +kernel, by decide⟩,
    ⟨lands (by unfold Checked; decide) (by decide +kernel), by unfold BlockBars; decide +kernel, by unfold BlockBars; decide +kernel⟩,
    ⟨lands (by unfold Checked; decide) (by decide +kernel), by decide, rfl⟩,
    ⟨binds (by decide +kernel) (by unfold SlotHolds; decide +kernel), by decide +kernel⟩,
    ⟨binds (by decide +kernel) (by unfold SlotHolds; decide +kernel), by decide +kernel, by unfold NoVersion; decide +kernel⟩,
    ⟨binds (by decide +kernel) (by unfold SlotHolds; decide +kernel), by decide +kernel, by unfold NoVersion; decide +kernel,
      quiet4 (by decide +kernel)⟩, by unfold Checked; decide, by decide, by decide +kernel, ?_⟩
  decide +kernel

theorem witness_MemoryAtomics :
    NoneOwed MX ∧ (Reaches MX M (cap4 15) 2 0 4 page4 entry4 ∧ QuietHome M page4 ∧ ¬ ((4 : Nat) ∈ (M.ctx 0).streams ∧ 0 < 64)) ∧
    (atomRule .cas 32 5 1 5 = some 1 ∧ atomRule .cas 32 5 1 6 = none) ∧
    (Instr.wellFormed (.atom .core false .cas 1 1 2 false) = true ∧ Issues (.atom .core false .cas 1 1 2 false) M MX) ∧
    (Instr.wellFormed (.atomAr .core false .cas 1 1 2 false) = true ∧ Issues (.atomAr .core false .cas 1 1 2 false) M MX) ∧
    (∃ s' : State, LaneRun (fun u L => (drained MX).atom u (MX.k 1) .core .cas L.val (MX.v 1 L).toNat 4 (blockNat MX 1 3 L)
      (blockNat MX 1 2 L)) (fun _ => .bytes [7, 8, 0, 0]) (ascending (drained MX).mask) (drained MX).st s' ∧ NoDebugger (drained MX) s') ∧
    (∃ s' : State, LaneRun (fun u L => (drained MX).atom u (MX.k 0) .core .cas L.val (MX.v 1 L).toNat 4 (blockNat MX 1 3 L)
      (blockNat MX 1 2 L)) (fun _ => .fault 0x23) (ascending (drained MX).mask) (drained MX).st s' ∧ NoDebugger (drained MX) s') ∧
    (Reaches MX (S (k := streamed 0)) (cap4 15) 2 0 8 page4 entry4 ∧ (4 : Nat) ∈ ((S (k := streamed 0)).ctx 0).streams ∧
      bitsOf (word64 (S (k := streamed 0)) (page4 + 24)) 41 2 = 0) ∧
    (Reaches MX (S (k := streamed 1)) (cap4 15) 2 0 8 page4 entry4 ∧ (4 : Nat) ∈ ((S (k := streamed 1)).ctx 0).streams ∧
      bitsOf (word64 (S (k := streamed 1)) (page4 + 24)) 41 2 ≠ 0 ∧ QuietHome (S (k := streamed 1)) page4 ∧
      (S (k := streamed 1)).peekNat page4 8 = 0 ∧ 0 ≤ 2 ∧ 2 ≤ word64 (S (k := streamed 1)) (page4 + 8) + 2 ^ 1) ∧
    (Checked (capR 15) 2 0 4 ∧ (capR 15).getLsbD 108 = false ∧ remoteObj (capObj (capR 15)) = true) :=
  ⟨rfl, ⟨⟨by decide, lands (by unfold Checked; decide) (by decide +kernel)⟩, quiet4 (by decide +kernel), by decide +kernel⟩, by decide,
    ⟨rfl, issues_of rfl (by decide)⟩, ⟨rfl, issues_of rfl (by decide)⟩, runs31 asc31 (by decide +kernel), runs31 asc31 (by decide +kernel),
    ⟨⟨by decide, lands (by unfold Checked; decide) (by decide +kernel)⟩, by decide +kernel, by decide +kernel⟩,
    ⟨⟨by decide, lands (by unfold Checked; decide) (by decide +kernel)⟩, by decide +kernel, by decide +kernel, quiet4 (by decide +kernel),
      by decide +kernel, by decide, by decide +kernel⟩, by unfold Checked; decide, by decide, by decide⟩

/-- The causes R147 gives from the capability alone. -/
def refusedFor (cap : Cap) (o w right : Nat) (ok : Bool) : Option Nat :=
  if cap.getLsbD 109 = false then some 0x23
  else if cap.getLsbD (104 + right) = false ∨ ok = false then some 0x21
  else if (cap.extractLsb' 64 40).toNat < o + w then some 0x20
  else if ((cap.extractLsb' 24 40).toNat + o) % w ≠ 0 then some 0x24
  else none

theorem witness_CapabilityChecks :
    refusedFor 0 0 4 0 true = some 0x23 ∧ refusedFor (cap4 1) 0 4 1 true = some 0x21 ∧
    refusedFor (cap4 31) 0 8 2 (!(cap4 31).getLsbD 108) = some 0x21 ∧ refusedFor (cap4 15) 0xFFFD 4 0 true = some 0x20 ∧
    refusedFor (cap4 15) 0xFFFE 2 0 true = none ∧ refusedFor (cap4 15) 2 4 1 true = some 0x24 := by decide +kernel

/-- A wave with that store queued. -/
def storing (m : Option (W32 × Nat)) (w : Wave) : Wave := { w with stores := [store4 m] }

/-- The wave with a tentative store queued, its version of the sector, written or not, in the LP6 tier. -/
def TS (m : BitVec 256) : State := S (storing (some (0x80000000, 0))) id id (versions 256 (some m))

/-- A sector of another line and object in the L1 of core 0. -/
def otherLine (s : State) : State :=
  core0 (fun c => { c with l1 := [⟨1, 5, 0, 1, page4 + 1024, zeros 256, true⟩] }) s
def draining : State := S (storing none) id id (otherLine ∘ mapped [])

theorem witness_StoreDrain :
    (draining.waveAt ⟨0, 0, 0⟩ = some (team (storing none) id id, wave (storing none) id) ∧ draining.owed 0 0 0 = [] ∧
      (wave (storing none) id).status = .running ∧
      remoteObj 4 = false ∧ (4 : Nat) ∉ (draining.ctx 0).streams ∧ draining.phys.wf = true ∧
      (draining.cores.all fun c => c.l1.all fun y => y.pa / 1024 != (page4 + 254) / 1024 && !(store4 none).names y) = true ∧
      (draining.core 0 0).l1.length < 16 ∧ homeOf (page4 + 254) = some .lp6 ∧ 0 < (store4 none).bytes.length ∧
      (page4 + 254) % 256 + (store4 none).bytes.length ≤ 256 ∧ 254 % 256 = (page4 + 254) % 256) ∧
    (∀ m : BitVec 256, (TS m).waveAt ⟨0, 0, 0⟩ = some (team (storing (some (0x80000000, 0))) id id, wave (storing (some (0x80000000, 0))) id)) ∧
    ((TS 0).owed 0 0 0 = [] ∧ (TS 1).owed 0 0 0 = [] ∧ (TS 0).quorum 0 0x80000000 = some (bound 256) ∧ (bound 256).isBound 0 0 0 = true ∧
      (TS 1).quorum 0 0x80000000 = some (bound 256) ∧
      (TS 1).versionOf 0x80000000 0 (page4 + 254) = some (zeros 256) ∧ (TS 1).versionWritten 0x80000000 0 (page4 + 254) = true ∧
      (TS 0).versionWritten 0x80000000 0 (page4 + 254) = false ∧ ((TS 0).versionOf 0x80000000 0 (page4 + 254)).isSome = true ∧
      homeOf (page4 + 254) = some .lp6 ∧ (TS 0).phys.wf = true ∧ (TS 0).cores = []) ∧
    ((X).st.quorum 0 0x80000000 = none ∧ ({ bound0 with bound := [] } : Quorum).isBound 0 0 0 = false) := by
  refine ⟨⟨rfl, by decide +kernel, rfl, rfl, by decide +kernel, by decide +kernel, by decide +kernel, by decide +kernel, by decide, by decide,
    by decide, by decide⟩, fun _ => rfl, ?_, ?_⟩
  all_goals decide +kernel

/-- An engine command of the wave on core 0. -/
def eng : EngineCmd := { (X).engineCmd 0 0 3 0 0 with serial := 5 }
def engines : State → State := core0 fun c => { c with engines := [eng] }

/-- The wave has an engine command outstanding. -/
def Mine (x : Iss) : Prop :=
  ∃ c ∈ x.st.cores, ∃ e ∈ c.engines, e.die = x.tm.die ∧ e.team = x.tm.serial ∧ e.wave = x.wv.number.val

theorem mine_engines (f : Wave → Wave) (h : (wave f id).number = 0) : Mine (X f (k := engines)) :=
  ⟨_, List.mem_cons_self, eng, List.mem_cons_self, rfl, rfl, by show 0 = (wave f id).number.val; rw [h]; rfl⟩

theorem not_mine (f : Wave → Wave) : ¬ Mine (X f) := fun ⟨_, hc, _⟩ => nomatch hc

theorem witness_FenceEntry :
    (Issues (.fence .sys .mem false) S X ∧ NoneOwed X) ∧
    (Issues (.fence .sys .mem false) (S (k := owing)) (X (k := owing)) ∧ ¬ NoneOwed (X (k := owing)).flush) ∧ (Issues (.fence .sys .all false) S X ∧ FenceKind.all ≠ .mem ∧ ¬ Mine (drained X)) ∧
    (Issues (.fence .core .eng false) (S (k := engines)) (X (k := engines)) ∧ FenceKind.eng ≠ .mem ∧
      Mine (X (k := engines))) :=
  ⟨⟨issues_of rfl (by decide), rfl⟩, ⟨issues_of rfl (by decide), by unfold NoneOwed; decide +kernel⟩,
    ⟨issues_of rfl (by decide), by decide, fun ⟨_, hc, _⟩ => nomatch hc⟩, issues_of rfl (by decide), by decide, mine_engines id rfl⟩

/-- The wave's own ticket 5, of an engine command of engine `sub`. -/
def ticket (sub : Nat) : W64 := BitVec.ofNat 64 (2 ^ 63 + sub * 2 ^ 32 + 5)

/-- s1 holds that ticket, and the wave knows how its command stands. -/
def told (o : Outcome) (w : Wave) : Wave := { sreg 1 (ticket 3) w with outcomes := [o], tvecObj := 1 }

/-- R350's form of a ticket of the wave. -/
def IsTicket (x : Iss) (v : W64) : Prop :=
  v.getLsbD 63 = true ∧ v.extractLsb' 45 18 = 0 ∧ (v.extractLsb' 40 5).toNat = x.wv.number.val ∧ v.extractLsb' 32 8 ≤ 3 ∧
    v.extractLsb' 0 32 ≠ 0

/-- EWAIT at a command that stands as `o`. -/
def Ewaits (o : Outcome) (k : State → State) : Prop :=
  Issues (.ewait 1 false) (S (told o) id id k) (X (told o) id id k) ∧ (X (told o) id id k).wv.cc.k = false ∧
    IsTicket (X (told o) id id k) ((X (told o) id id k).s 1) ∧
    (X (told o) id id k).was = none ∧
    ((X (told o) id id k).wv.outcomes.drop ((X (told o) id id k).wv.outcomes.length - 256)).find?
      (fun q => q.serial == (((X (told o) id id k).s 1).extractLsb' 0 32).toNat) = some o

theorem witness_WaitEntries :
    (Issues (.waita .sys true 2 1 1 false) (S (kp true false)) (X (kp true false)) ∧ (X (kp true false)).wv.cc.k = true) ∧
    (Issues (.waita .sys true 2 1 1 false) M MX ∧ MX.wv.cc.k = false ∧ ∃ s' : State,
      MX.load MX.st (MX.k 1) 0 (MX.s 1).toNat 8 = (s', .bytes ([7, 8] ++ zeros 6)) ∧ NoDebugger MX s') ∧
    (Issues (.waita .sys false 2 1 1 false) M MX ∧ (false = true ↔ leNat ([7, 8] ++ zeros 6) = (MX.s 2).toNat)) ∧
    ¬ (true = true ↔ leNat ([7, 8] ++ zeros 6) = (MX.s 2).toNat) ∧
    (Issues (.ewait 1 false) (S (kp true false)) (X (kp true false)) ∧ (X (kp true false)).wv.cc.k = true) ∧
    (Issues (.waita .sys true 2 1 0 false) M MX ∧ ∃ s' : State, MX.load MX.st (MX.k 0) 0 (MX.s 1).toNat 8 = (s', .fault 0x23)) ∧
    (Issues (.waita .sys true 2 1 1 false) (MK cap6) (MKX cap6) ∧ ∃ s' : State,
      (MKX cap6).load (MKX cap6).st ((MKX cap6).k 1) 0 ((MKX cap6).s 1).toNat 8 = (s', .unfinished 0x26 3)) ∧
    (Issues (.waita .sys true 2 1 1 false) (S (g := stands (.waiting (.waita (cap4 15) 0 0))))
        (X (g := stands (.waiting (.waita (cap4 15) 0 0)))) ∧
      (X (g := stands (.waiting (.waita (cap4 15) 0 0)))).was = some (.waita (cap4 15) 0 0)) ∧
    (Issues (.ewait 1 false) S X ∧ X.wv.cc.k = false ∧ X.was = none ∧ ¬ (IsTicket X (X.s 1))) ∧
    (Issues (.ewait 1 false) (S (told ⟨5, 3, true, none⟩) (stands (.waiting (.ewait (ticket 3)))))
        (X (told ⟨5, 3, true, none⟩) (stands (.waiting (.ewait (ticket 3))))) ∧
      (X (told ⟨5, 3, true, none⟩) (stands (.waiting (.ewait (ticket 3))))).was = some (.ewait (ticket 3))) ∧
    Ewaits ⟨5, 3, false, none⟩ id ∧ (Ewaits ⟨5, 3, true, none⟩ id ∧ ¬ Mine (X (told ⟨5, 3, true, none⟩))) ∧
    (Ewaits ⟨5, 3, true, none⟩ engines ∧ Mine (X (told ⟨5, 3, true, none⟩) (k := engines))) ∧
    (Ewaits ⟨5, 3, true, some 0x20⟩ engines ∧ Mine (X (told ⟨5, 3, true, some 0x20⟩) (k := engines)) ∧
      (X (told ⟨5, 3, true, some 0x20⟩) (k := engines)).inService = false ∧
      MayEnter (X (told ⟨5, 3, true, some 0x20⟩) (k := engines)) ∧
      (X (told ⟨5, 3, true, some 0x20⟩) (k := engines)).wv.tvecObj ≠ 0) ∧
    (Ewaits ⟨5, 3, true, some 0x20⟩ id ∧ ¬ Mine (X (told ⟨5, 3, true, some 0x20⟩)) ∧
      MayEnter (X (told ⟨5, 3, true, some 0x20⟩))) := by
  refine ⟨⟨issues_of rfl (by decide), rfl⟩, ⟨issues_of rfl (by decide), rfl, loads (by decide +kernel)⟩,
    ⟨issues_of rfl (by decide), by decide⟩, by decide, ⟨issues_of rfl (by decide), rfl⟩,
    ⟨issues_of rfl (by decide), _, got (by decide +kernel)⟩, ⟨issues_of rfl (by decide), _, got (by decide +kernel)⟩,
    ⟨issues_of rfl (by decide), rfl⟩, ⟨issues_of rfl (by decide), rfl, rfl, by unfold IsTicket; decide⟩, ⟨issues_of rfl (by decide), rfl⟩,
    ⟨issues_of rfl (by decide), rfl, by unfold IsTicket; decide, rfl, by decide⟩,
    ⟨⟨issues_of rfl (by decide), rfl, by unfold IsTicket; decide, rfl, by decide⟩, not_mine _⟩,
    ⟨⟨issues_of rfl (by decide), rfl, by unfold IsTicket; decide, rfl, by decide⟩, mine_engines _ rfl⟩,
    ⟨⟨issues_of rfl (by decide), rfl, by unfold IsTicket; decide, rfl, by decide⟩, mine_engines _ rfl, rfl, ?_, by decide⟩,
    ⟨issues_of rfl (by decide), rfl, by unfold IsTicket; decide, rfl, by decide⟩, not_mine _, may_enter rfl⟩
  unfold MayEnter ResultsWritten; decide

/-- s1 and s2 as given, over the mapped table. -/
def MS (a b : W64) : State := S (sreg 1 a ∘ sreg 2 b ∘ k1 (cap4 15)) id id (mapped [])
def MSX (a b : W64) : Iss := X (sreg 1 a ∘ sreg 2 b ∘ k1 (cap4 15)) id id (mapped [])

/-- The table in HBM4E, the sector of its entry 4 poisoned there. -/
def poisoned (s : State) : State :=
  let t := mapped [] s
  { t with badPhys := [0x10000], contexts := t.contexts.set 0 { t.ctx 0 with tableBase := 0x10000 } }

theorem witness_CapabilityEntries :
    (Issues (.cmake 2 1 3 false) (MS 0 0) (MSX 0 0) ∧ (MSX 0 0).st.entryFault (MSX 0 0).tm.ctx 0 = none ∧
      (MSX 0 0).st.entry (MSX 0 0).tm.ctx 0 = none) ∧
    (Issues (.cmake 2 1 3 false) (S (sreg 1 4) (k := poisoned)) (X (sreg 1 4) (k := poisoned)) ∧
      (X (sreg 1 4) (k := poisoned)).st.entryFault 0 4 = some 0x2A) ∧
    (Issues (.cmake 2 1 3 false) (MS 4 15) (MSX 4 15) ∧ ((MSX 4 15).st.entry 0 4).any (fun e =>
      (!((MSX 4 15).s 2).getLsbD 4 || e.tent) && (List.range 4).all fun n => !((MSX 4 15).s 2).getLsbD n || e.rights.testBit n) =
        true) ∧
    (Issues (.cmake 2 1 3 false) (MS 5 16) (MSX 5 16) ∧ ((MSX 5 16).st.entry 0 5).any (fun e =>
      ((MSX 5 16).s 2).getLsbD 4 && !e.tent) = true) ∧
    (Issues (.cnarrow 2 1 0 3 false) (MS 4 15) (MSX 4 15) ∧ ((MSX 4 15).k 0).getLsbD 109 = false) ∧
    (Issues (.cnarrow 2 1 1 3 false) (MS 1 0x10000) (MSX 1 0x10000) ∧ ((MSX 1 0x10000).k 1).getLsbD 109 = true ∧
      (((MSX 1 0x10000).k 1).extractLsb' 64 40).toNat < 1 + 0x10000) ∧
    (Issues (.cnarrow 2 1 1 3 false) (MS 1 0xFFFF) (MSX 1 0xFFFF) ∧
      1 + 0xFFFF ≤ (((MSX 1 0xFFFF).k 1).extractLsb' 64 40).toNat) ∧
    Issues (.cinfo .gen 2 1 false) (MS 1 0xFFFF) (MSX 1 0xFFFF) := by
  refine ⟨⟨issues_of rfl (by decide), ?_, ?_⟩, ⟨issues_of rfl (by decide), ?_⟩, ⟨issues_of rfl (by decide), ?_⟩,
    ⟨issues_of rfl (by decide), ?_⟩, ⟨issues_of rfl (by decide), ?_⟩, ⟨issues_of rfl (by decide), ?_, ?_⟩, ⟨issues_of rfl (by decide), ?_⟩,
    issues_of rfl (by decide)⟩
  all_goals decide +kernel

/-! ### Matrix -/

/-- The conditions of CMPRS for scalars A and B, a register D, a pattern and a team of so many scratchpad units and vector registers. -/
def cmprsCase (pat : SparsePat) (sa sb d scru vregs : Nat) : Bool × Bool × Bool :=
  let f := sa / 2 ^ 24 % 32
  let src := sa % 2 ^ 24
  let out := sb % 2 ^ 24
  let mreg := sb / 2 ^ 24 % 2 == 1
  let p := patternShape pat
  let kd := keptDepth f
  let inBytes := kd * p.2.1 / p.1 * 64 * elemBits f / 8
  let outBytes := 16384 + 8 * kd * p.2.2
  (2 ^ 29 ≤ sa || 2 ^ 25 ≤ sb || f < 2 || 9 < f || (mreg && vregs < d + kd * p.2.2 / 16) || (!mreg && d != 0) ||
    (src < out + outBytes && out < src + inBytes), src + inBytes ≤ scru * 16384, out + outBytes ≤ scru * 16384)

/-- CMPRS of bf16 at offset 0, its output as s2 says, in a team of some scratchpad units. -/
def K (scru : Nat) (sb : W64) : State := S (sreg 1 (2 * 2 ^ 24) ∘ sreg 2 sb) id (fun t => { t with scru := scru }) id
def KX (scru : Nat) (sb : W64) : Iss := X (sreg 1 (2 * 2 ^ 24) ∘ sreg 2 sb) id (fun t => { t with scru := scru }) id

theorem witness_CompressEntry :
    (Issues (.cmprs .n2m4 2 1 0 false) (S (g := fun sp => { sp with mask := 0 })) (X (g := fun sp => { sp with mask := 0 })) ∧
      (X (g := fun sp => { sp with mask := 0 })).mask = 0) ∧
    (Issues (.cmprs .n2m4 2 1 0 false) (K 1 32767) (KX 1 32767) ∧ (KX 1 32767).mask ≠ 0 ∧
      (cmprsCase .n2m4 (2 * 2 ^ 24) 32767 0 1 64).1 = true) ∧
    (Issues (.cmprs .n2m4 2 1 0 false) (K 1 32768) (KX 1 32768) ∧
      cmprsCase .n2m4 (2 * 2 ^ 24) 32768 0 1 64 = (false, false, false)) ∧
    (Issues (.cmprs .n2m4 2 1 0 false) (K 2 32768) (KX 2 32768) ∧
      cmprsCase .n2m4 (2 * 2 ^ 24) 32768 0 2 64 = (false, true, false)) ∧
    (Issues (.cmprs .n2m4 2 1 48 false) (K 4 (2 ^ 24 + 32768)) (KX 4 (2 ^ 24 + 32768)) ∧
      cmprsCase .n2m4 (2 * 2 ^ 24) (2 ^ 24 + 32768) 48 4 64 = (false, true, true) ∧
      (KX 4 (2 ^ 24 + 32768)).scratch.wf = true ∧
      ∀ r < 16, (KX 4 (2 ^ 24 + 32768)).sp.pend.has (.v (48 + r)) = false) :=
  ⟨⟨issues_of rfl (by decide), by decide⟩, ⟨issues_of rfl (by decide), by decide, by decide⟩,
    ⟨issues_of rfl (by decide), by decide⟩, ⟨issues_of rfl (by decide), by decide⟩,
    issues_of rfl (by decide), by decide, by decide, by decide⟩

/-- v4 holds a format word in every lane, every other register the metadata 0x44444444; ring 0 of the kernel has one slot. -/
def fmt (w : W32) (x : Wave) : Wave :=
  { x with v := (Vector.replicate 64 (Vector.replicate 32 0x44444444)).set 4 (Vector.replicate 32 w) }
def ring0 (bytes : Nat) (s : State) : State :=
  { s with contexts := s.contexts.set 0 { Context.none with
      state := .running
      code := [{ obj := 2, texts := Vector.replicate 4 [], rings := [(0, [some ⟨0, 1, bytes⟩])], safe := [] }] } }

/-- bf16 by bf16, dense and with the 2:4 pattern. -/
def bf16 : W32 := 66
def bf16s : W32 := 131138

def A (w : W32) (d : W64) (k : State → State) (h : Team → Team := id) : State := S (sreg 6 d ∘ fmt w) id h k
def AX (w : W32) (d : W64) (k : State → State) (h : Team → Team := id) : Iss := X (sreg 6 d ∘ fmt w) id h k

/-- The words of the active lanes agree and are valid for operation `op`; nothing they add is pending; the sequencer is free. -/
def WordStands (x : Iss) (op : Nat) (w : W32) (d : W64) : Prop :=
  SequencerFree x ∧ x.heldItem = none ∧ x.mask.getLsbD (0 : Fin 32).val = true ∧ x.s 6 = d ∧
    (∀ L : Fin 32, x.mask.getLsbD L.val = true → x.v 4 L = w) ∧ WordOk op w.toNat ∧
    ∀ r ∈ addedReads op true false 4 2 w.toNat d.toNat ++ secondTile op w.toNat 2, x.sp.pend.has r = false

theorem stands_free {f : Wave → Wave} {k : State → State} {h : Team → Team} (hf : (team f id h).follower = none)
    (hq : queueOf (X f id h k) = []) : SequencerFree (X f id h k) :=
  ⟨by rw [hq]; decide, by rw [hq]; decide, fun e => by
    have e' : (team f id h).follower = some (wave f id).core := e
    rw [hf] at e'; cases e'⟩

/-- Five instructions of the wave stand in its sequencer. -/
def fullQueue : State → State := core0 fun c => { c with queue := List.replicate 5 pass }

/-- An ACLR of tile 2 at the head of the sequencer; an MMA, an MMAS and an AST reading that tile that stand there and wait for their last
checks. -/
def clear2 : SeqItem := { pass with tile := 2, age := 0 }
def held2 : SeqItem := { pass with op := 0, tile := 2, word := bf16, accumulate := true, held := true, age := 1 }
def heldS (image : Nat) : SeqItem := { held2 with op := 1, word := bf16s, image := image }
def heldA : SeqItem := { held2 with op := 6, fmt := 2 }
def queues (qs : List SeqItem) (s : State) : State := { core0 (fun c => { c with queue := qs }) s with free := 2 }

/-- The split waits for the tile of that MMA. -/
def HX2 (qs : List SeqItem) (h : Team → Team := id) : Iss := X id (stands (.waiting (.tile 1))) h (queues qs)

/-- The team's tile 2 is poisoned, by an instruction at 8. -/
def poison2 (t : Team) : Team := { t with poison := [⟨0, 2, 8⟩] }

/-- The item that the MMA puts into the queue. -/
def item2 (x : Iss) : SeqItem := passItem x (.mma true false 4 6 0 2 false) 0 true false 2 bf16 0 0 0

/-- Metadata of the 2:4 pattern: indices 0 and 1, `n` times. -/
def meta01 : Nat → Nat
  | 0 => 0
  | n + 1 => 16 * meta01 n + 4

theorem meta01_bit : ∀ n k : Nat, (meta01 n).testBit k = (decide (k < 4 * n) && decide (k % 4 = 2))
  | 0, k => by simp [meta01]
  | n + 1, k => by
    have h : meta01 (n + 1) = 2 ^ 4 * meta01 n + 4 := rfl
    rw [h, Nat.testBit_two_pow_mul_add _ (by decide : 4 < 2 ^ 4), meta01_bit n]
    have h4 : ∀ k < 4, Nat.testBit 4 k = decide (k = 2) := by decide
    by_cases hk : k < 4
    · rw [if_pos hk, h4 k hk, Bool.eq_iff_iff]; simp; omega
    · rw [if_neg hk, Bool.eq_iff_iff]; simp; omega

/-- Each of its indices. -/
theorem meta01_index {n m : Nat} (h : m < 2 * n) : bitsOf (meta01 n) (2 * m) 2 = m % 2 := by
  apply Nat.eq_of_testBit_eq
  intro i
  have e : (bitsOf (meta01 n) (2 * m) 2).testBit i = (decide (i < 2) && (meta01 n).testBit (2 * m + i)) := by
    unfold bitsOf
    rw [Nat.testBit_mod_two_pow, Nat.testBit_div_two_pow, Nat.add_comm]
  rw [e, meta01_bit]
  by_cases hi : i < 2
  · have : i = 0 ∨ i = 1 := by omega
    rcases this with rfl | rfl
    · have h2 : m % 2 = 0 ∨ m % 2 = 1 := by omega
      rcases h2 with h2 | h2 <;> rw [h2] <;> simp <;> omega
    · have h2 : m % 2 = 0 ∨ m % 2 = 1 := by omega
      rcases h2 with h2 | h2 <;> rw [h2] <;> simp [Nat.testBit] <;> omega
  · have h2 : m % 2 < 2 ^ i := Nat.lt_of_lt_of_le (Nat.mod_lt _ (by decide)) (Nat.le_trans (by decide : 2 ≤ 2 ^ 2) (Nat.pow_le_pow_right (by decide) (by omega)))
    rw [Nat.testBit_lt_two_pow h2]
    simp [hi]

theorem meta01_good : ∀ c < 64, ∀ g : Nat, ¬ MetaBad 131138 (meta01 4096) c g := by
  intro c hc g ⟨e, h1, h2, h3⟩
  have hk : (shapeOf 131138).1 = 2 ∧ (shapeOf 131138).2.1 = 4 ∧ (shapeOf 131138).2.2 = 2 ∧ depthOf 131138 = 128 := by decide
  simp only [hk.1, hk.2.1, hk.2.2.1, hk.2.2.2] at h1 h2 h3
  rw [meta01_index (by omega)] at h3
  rcases h3 with h3 | ⟨h3, h4⟩
  · omega
  · rw [meta01_index (by omega)] at h4
    omega

/-- The metadata of an MMAS, in registers that hold the same word in every lane. -/
theorem image_of {x : Iss} {image k : Nat} {c : W32} (h4 : 4 * k = 16384) (hi : image < 2 ^ (4 * k))
    (hv : ∀ n : Fin 64, 4 < n.val → n.val ≤ 20 → ∀ L : Fin 32, x.v n L = c)
    (hb : ∀ n < 16384, image.testBit n = c.getLsbD (n % 32)) : ImageIs x false 4 131138 0 image := by
  have hk : 8 * imageBytes 131138 false = 16384 := by decide
  refine ⟨by rw [hk, ← h4]; exact hi, fun n hlt => ?_⟩
  rw [hk] at hlt
  rw [if_neg (by decide), hb n hlt, hv _ (by simp only [Fin.ofNat]; omega) (by simp only [Fin.ofNat]; omega)]

theorem meta01_lt : ∀ n : Nat, meta01 n < 2 ^ (4 * n)
  | 0 => by decide
  | n + 1 => by
    have := meta01_lt n
    have h : meta01 (n + 1) = 16 * meta01 n + 4 := rfl
    rw [h, Nat.mul_add, Nat.pow_add]; omega

theorem witness_MatrixIssue :
    (Issues (.mma true false 4 6 0 2 false) (S id (stands (.waiting (.tile 1))) id (queues [clear2, held2])) (HX2 [clear2, held2]) ∧
      (HX2 [clear2, held2]).mask ≠ 0 ∧ (HX2 [clear2, held2]).heldItem = some held2 ∧ Undecided (HX2 [clear2, held2]) held2) ∧
    ((HX2 [held2]).heldItem = some held2 ∧ ¬ Undecided (HX2 [held2]) held2 ∧
      ∀ p ∈ (HX2 [held2]).tm.poison, (p.core, p.tile) ∉ readTiles (HX2 [held2]) held2) ∧
    ((HX2 [held2] poison2).heldItem = some held2 ∧ ¬ Undecided (HX2 [held2] poison2) held2 ∧
      (HX2 [held2] poison2).tm.poison = [⟨0, 2, 8⟩] ∧ (0, 2) ∈ readTiles (HX2 [held2] poison2) held2) ∧
    (Issues (.mmas true false 4 6 0 2 false) (S id (stands (.waiting (.tile 1))) id (queues [heldS 0])) (HX2 [heldS 0]) ∧
      (HX2 [heldS 0]).heldItem = some (heldS 0) ∧ ¬ Undecided (HX2 [heldS 0]) (heldS 0) ∧ (heldS 0).op = 1 ∧
      MetaFails (heldS 0).word.toNat (heldS 0).image 64 0 0) ∧
    ((HX2 [heldS (meta01 4096)]).heldItem = some (heldS (meta01 4096)) ∧
      ∀ c < 64, ∀ g : Nat, ¬ MetaBad (heldS (meta01 4096)).word.toNat (heldS (meta01 4096)).image c g) ∧
    (Undecided (AX bf16 0 (queues [clear2] ∘ ring0 256)) (item2 (AX bf16 0 (queues [clear2] ∘ ring0 256))) ∧
      ¬ Undecided (AX bf16 0 (ring0 256)) (item2 (AX bf16 0 (ring0 256)))) ∧
    (matrixForm (.mma true false 4 6 0 2 false) = some (0, true, false, 4, 6, 0, 2) ∧
      Issues (.mma true false 4 6 0 2 false) (S (g := fun sp => { sp with mask := 0 })) (X (g := fun sp => { sp with mask := 0 })) ∧
      (X (g := fun sp => { sp with mask := 0 })).mask = 0) ∧
    (Issues (.mma true false 4 6 0 2 false) (S (k := fullQueue)) (X (k := fullQueue)) ∧
      ¬ SequencerFree (X (k := fullQueue)) ∧ (X (k := fullQueue)).heldItem = none) ∧
    (Issues (.mma true false 4 6 0 2 false) (S (nanWave false)) (X (nanWave false)) ∧ SequencerFree (X (nanWave false)) ∧
      ∀ L : Fin 32, (0x80000000 : Mask).getLsbD L.val =
        ((X (nanWave false)).mask.getLsbD L.val && (X (nanWave false)).v 1 L != (X (nanWave false)).v 1 0)) ∧
    ¬ WordOk 0 0 ∧
    (Issues (.mma true false 4 6 0 2 false) (A bf16 0 id) (AX bf16 0 id) ∧ WordStands (AX bf16 0 id) 0 bf16 0 ∧
      (AX bf16 0 id).ring 0 0 = none) ∧
    ((∃ r ∈ addedReads 1 true false 4 2 bf16s.toNat 0, (X (g := pendV 32)).sp.pend.has r = true) ∧
      secondTile 0 (2 ^ 10) 2 = [.a 3] ∧ WordOk 3 (2 ^ 10 + 2 ^ 20) ∧ secondTile 3 (2 ^ 10 + 2 ^ 20) 2 = [.a 3]) ∧
    (WordStands (AX bf16 0x8000000000000000 (ring0 256)) 0 bf16 0x8000000000000000 ∧ SlotIs (AX bf16 0x8000000000000000 (ring0 256)) 0 0 0 0 256 ∧
      MxOperand (AX bf16 0x8000000000000000 (ring0 256)) 0 false 4 0 2 66 0x8000000000000000 256) ∧
    (WordStands (AX bf16 0 (ring0 256) fun t => { t with accu := 2 }) 0 bf16 0 ∧
      ¬ MxOperand (AX bf16 0 (ring0 256) fun t => { t with accu := 2 }) 0 false 4 0 2 66 0 256 ∧
      tilesOf 66 2 = [2] ∧ (AX bf16 0 (ring0 256) fun t => { t with accu := 2 }).tm.accu ≤ 2) ∧
    (SlotIs X 2 0 0 0 0 ∧ MxOperand (AX bf16 0 (ring0 255)) 0 false 4 0 2 66 0 255 ∧ MxOperand (AX bf16 0 id) 2 false 4 1 2 66 0 0 ∧
      ¬ MxOperand (AX bf16 0 id) 2 false 4 0 2 66 (3 * 2 ^ 56) 0 ∧ MxOperand (AX bf16 0 id) 2 false 4 0 2 66 (2 * 2 ^ 56) 0) ∧
    (WordStands (AX bf16 0 (ring0 256) poison2) 0 bf16 0 ∧
      (0, 2) ∈ readTiles (AX bf16 0 (ring0 256) poison2) (item2 (AX bf16 0 (ring0 256) poison2))) ∧
    (Issues (.mma true false 4 6 0 2 false) (A bf16 0 (ring0 256)) (AX bf16 0 (ring0 256)) ∧
      SlotIs (AX bf16 0 (ring0 256)) 0 0 0 0 256 ∧ (AX bf16 0 (ring0 256)).tm.poison = [] ∧ 2 < (AX bf16 0 (ring0 256)).tm.accu) ∧
    (Issues (.mmas true false 4 6 0 2 false) (A bf16s 0 (ring0 512)) (AX bf16s 0 (ring0 512)) ∧
      WordStands (AX bf16s 0 (ring0 512)) 1 bf16s 0 ∧ SlotIs (AX bf16s 0 (ring0 512)) 1 0 0 0 512 ∧
      ¬ MxOperand (AX bf16s 0 (ring0 512)) 1 false 4 0 2 131138 0 512 ∧
      ImageIs (AX bf16s 0 (ring0 512)) false 4 131138 0 (meta01 4096)) := by
  have ok : WordOk 0 bf16.toNat := by unfold WordOk bf16; decide
  have oks : WordOk 1 bf16s.toNat := by unfold WordOk bf16s; decide
  have fails : MetaFails 131138 0 64 0 0 :=
    ⟨by decide, ⟨1, by decide, by decide, by decide⟩, (fun h hh => absurd hh (Nat.not_lt_zero h)), fun j hj => absurd hj (Nat.not_lt_zero j)⟩
  refine ⟨⟨issues_of rfl (by decide), by decide, by decide, by unfold Undecided; decide⟩,
    ⟨by decide, by unfold Undecided; decide, by decide⟩, ⟨by decide, by unfold Undecided; decide, rfl, by decide⟩,
    ⟨issues_of rfl (by decide), by decide, by unfold Undecided; decide, rfl, fails⟩,
    ⟨rfl, meta01_good⟩, ⟨by unfold Undecided; decide, by unfold Undecided; decide⟩,
    ⟨rfl, issues_of rfl (by decide), by decide⟩, ⟨issues_of rfl (by decide), (fun h => absurd h.1 (by decide)), rfl⟩,
    ⟨issues_of rfl (by decide), stands_free rfl rfl, by decide +kernel⟩, by unfold WordOk; decide,
    ⟨issues_of rfl (by decide), ⟨stands_free rfl rfl, rfl, by decide, rfl, by decide, ok, by decide⟩, by decide⟩,
    ⟨by decide +kernel, by decide, by unfold WordOk; decide, by decide⟩,
    ⟨⟨stands_free rfl rfl, rfl, by decide, rfl, by decide, ok, by decide⟩, ⟨⟨0, 1, 256⟩, by decide, rfl, rfl⟩,
      by unfold MxOperand PassesSlot; decide +kernel⟩,
    ⟨⟨stands_free rfl rfl, rfl, by decide, rfl, by decide, ok, by decide⟩, by unfold MxOperand PassesSlot; decide +kernel, by decide, by decide⟩,
    ⟨⟨rfl, rfl⟩, by unfold MxOperand PassesSlot; decide +kernel, by unfold MxOperand PassesSlot; decide +kernel,
      by unfold MxOperand PassesSlot; decide +kernel, by unfold MxOperand PassesSlot; decide +kernel⟩,
    ⟨⟨stands_free rfl rfl, rfl, by decide, rfl, by decide, ok, by decide⟩, by decide⟩,
    ⟨issues_of rfl (by decide), ⟨⟨0, 1, 256⟩, by decide, rfl, rfl⟩, rfl, by decide⟩,
    ⟨issues_of rfl (by decide), ⟨stands_free rfl rfl, rfl, by decide, rfl, by decide, oks, by decide +kernel⟩,
      ⟨⟨0, 1, 512⟩, by decide, rfl, rfl⟩, by unfold MxOperand PassesSlot; decide +kernel,
      image_of (c := 0x44444444) (k := 4096) rfl (meta01_lt 4096) (by decide +kernel) ?_⟩⟩
  intro n hn
  rw [meta01_bit]
  have h : ∀ r : Fin 32, (0x44444444 : W32).getLsbD r.val = decide (r.val % 4 = 2) := by decide
  rw [h ⟨n % 32, Nat.mod_lt _ (by decide)⟩]
  have e : n % 32 % 4 = n % 4 := by omega
  simp only [e]
  simp; omega

/-- The item of AST a14 (pair), v0. -/
def ast14 (x : Iss) : SeqItem :=
  { freshItem x (.ast .fp64 0 7 14 false) 6 14 with rg := 7, fmt := 0, vreg := 0 }

theorem witness_AccumulatorIssue :
    (X.heldItem = none ∧ ¬ Undecided X (ast14 X) ∧
      Issues (.ast .fp64 0 7 14 false) (S (k := queues [{ clear2 with tile := 15 }])) (X (k := queues [{ clear2 with tile := 15 }])) ∧
      Undecided (X (k := queues [{ clear2 with tile := 15 }])) (ast14 (X (k := queues [{ clear2 with tile := 15 }])))) ∧
    (Issues (.ast .bf16 0 0 2 false) (S id (stands (.waiting (.tile 1))) id (queues [clear2, heldA])) (HX2 [clear2, heldA]) ∧
      (HX2 [clear2, heldA]).heldItem = some heldA ∧ heldA.op = 6 ∧ Undecided (HX2 [clear2, heldA]) heldA) ∧
    ((HX2 [heldA]).heldItem = some heldA ∧ ¬ Undecided (HX2 [heldA]) heldA ∧ (HX2 [heldA]).tm.poison = []) ∧
    ((HX2 [heldA] poison2).heldItem = some heldA ∧ ¬ Undecided (HX2 [heldA] poison2) heldA ∧
      (0, 2) ∈ readTiles (HX2 [heldA] poison2) heldA) ∧
    (Issues (.aclr 15 false) (S (h := fun t => { t with accu := 15 })) (X (h := fun t => { t with accu := 15 })) ∧
      (X (h := fun t => { t with accu := 15 })).tm.accu ≤ 15) ∧
    (Issues (.aclr 15 false) (S (k := fullQueue)) (X (k := fullQueue)) ∧ 15 < (X (k := fullQueue)).tm.accu ∧
      ¬ SequencerFree (X (k := fullQueue))) ∧
    (Issues (.aclr 15 false) S X ∧ SequencerFree X) ∧
    (Issues (.ald .cb2 0 0 0 false) S X ∧ Issues (.ast .fp64 0 0 1 false) S X) ∧
    (Issues (.ald .fp64 0 7 14 false) (S (h := fun t => { t with accu := 15 })) (X (h := fun t => { t with accu := 15 })) ∧
      (X (h := fun t => { t with accu := 15 })).tm.accu ≤ 14 + 1) ∧
    (Issues (.ald .fp64 0 7 14 false) S X ∧ Issues (.ast .fp64 0 7 14 false) S X ∧ 14 + 1 < X.tm.accu ∧ X.tm.poison = []) ∧
    (Issues (.ast .fp64 0 7 14 false) (S (h := fun t => { t with poison := [⟨0, 15, 8⟩] }))
      (X (h := fun t => { t with poison := [⟨0, 15, 8⟩] })) ∧
      (0, 15) ∈ readTiles (X (h := fun t => { t with poison := [⟨0, 15, 8⟩] })) (ast14 (X (h := fun t => { t with poison := [⟨0, 15, 8⟩] })))) := by
  refine ⟨⟨rfl, by unfold Undecided; decide, issues_of rfl (by decide), by unfold Undecided; decide⟩,
    ⟨issues_of rfl (by decide), by decide, rfl, by unfold Undecided; decide⟩, ⟨by decide, by unfold Undecided; decide, rfl⟩,
    ⟨by decide, by unfold Undecided; decide, by decide⟩, ⟨issues_of rfl (by decide), by decide⟩,
    ⟨issues_of rfl (by decide), by decide, fun h => absurd h.1 (by decide)⟩, ⟨issues_of rfl (by decide), stands_free rfl rfl⟩,
    ⟨issues_of rfl (by decide), issues_of rfl (by decide)⟩,
    ⟨issues_of rfl (by decide), by decide⟩, ⟨issues_of rfl (by decide), issues_of rfl (by decide), by decide, rfl⟩,
    ⟨issues_of rfl (by decide), by decide⟩⟩

/-! ### Engines, barriers, stage rings -/

theorem next_of {o : Host.Outcome State Fault Refusal} (h : (match o with | .next _ => true | _ => false) = true) :
    ∃ u, o = .next u := by
  cases o with
  | next u => exact ⟨u, rfl⟩
  | fault => cases h
  | refused => cases h

theorem pair_of {α β : Type} {p : α × β} {b : β} (h : p.2 = b) : p = (p.1, b) := by rw [← h]

theorem ok_of {α β ε : Type} [DecidableEq β] {p : α × Except ε β} (b : β)
    (h : (match p.2 with | .ok c => decide (c = b) | .error _ => false) = true) : p = (p.1, .ok b) := by
  obtain ⟨a, e | c⟩ := p
  · cases h
  · simp only [decide_eq_true_eq] at h; rw [h]

/-- A CPY of zeros, `n` bytes, to object 4 through k1. -/
def Z (n : W64) (k : State → State := id) : State := S (sreg 10 n ∘ k1 (cap4 15)) id id (k ∘ mapped [])
def ZX (n : W64) (k : State → State := id) : Iss := X (sreg 10 n ∘ k1 (cap4 15)) id id (k ∘ mapped [])

/-- The parameters of its block. -/
def zq (n : W64) (j : Nat) : Nat := ((ZX n).s (Fin.ofNat 64 (8 + j))).toNat

/-- A parameter block at s8 and a capability k1 over the mapped table. -/
def engWave (a b c d e : W64) (cap : Cap) : Wave → Wave := sreg 8 a ∘ sreg 9 b ∘ sreg 10 c ∘ sreg 11 d ∘ sreg 12 e ∘ k1 cap
def G (a b c d e : W64) (cap : Cap) (bs : List Byte) (k : State → State := id) : State :=
  S (engWave a b c d e cap) id id (k ∘ mapped bs)
def GX (a b c d e : W64) (cap : Cap) (bs : List Byte) (k : State → State := id) : Iss :=
  X (engWave a b c d e cap) id id (k ∘ mapped bs)

/-- The parameters of the block at s8. -/
def blockOf (x : Iss) (j : Nat) : Nat := (x.s (Fin.ofNat 64 (8 + j))).toNat

/-- An engine command that issues with a block and capabilities that pass; it is admitted, or waits. -/
def Passes (i : Instr) (sub n : Nat) (ks kd : KReg) (s : State) (x : Iss) (enters : Bool) : Prop :=
  engineForm i = some (sub, n, 1, 8, ks, kd) ∧ Issues i s x ∧ ¬ BlockBad x.tm.scru sub ks (blockOf x) ∧
    ((engineRanges sub ks kd (blockOf x)).all fun r => rangeCause (x.k r.1) r.2.1 r.2.2.1 r.2.2.2 == none) = true ∧ NoneOwed x ∧
    (decide ((engineCount x).1 < 64) && decide ((engineCount x).2 < 16) && !admissionBarred x (x.engineCmd sub 8 n ks kd)) = enters

/-- The read of the one index of a GATH at its admission: the bytes, or why it stops. -/
def indexRead (x : Iss) : EngStop ⊕ List Byte :=
  match ((drained x).st.engineRead x.tm.die x.wv.core x.tm.ctx (serialOf x) [] (x.k 1) 3 (blockOf x 3) 4).2 with
  | .ok bs => .inr bs
  | .error e => .inl e

/-- One row of 16 bytes. -/
def rowWord : W64 := 16 * 2 ^ 32 + 16 * 2 ^ 48

theorem witness_EngineAdmissions :
    (engineForm (.cpy 1 8 0 1 false) = some (0, 3, 1, 8, 0, 1) ∧ Issues (.cpy 1 8 0 1 false) (Z 0x10000000000) (ZX 0x10000000000) ∧
      BlockBad (ZX 0x10000000000).tm.scru 0 0 (zq 0x10000000000)) ∧
    (Issues (.cpy 1 8 0 1 false) (Z 0x10001) (ZX 0x10001) ∧ ¬ BlockBad (ZX 0x10001).tm.scru 0 0 (zq 0x10001) ∧
      engineRanges 0 0 1 (zq 0x10001) = [(1, 1, 0, 0x10001)] ∧ rangeCause ((ZX 0x10001).k 1) 1 0 0x10001 = some 0x20) ∧
    Passes (.cpy 1 8 0 1 false) 0 3 0 1 (Z 0x100 (core0 fun c => { c with engines := List.replicate 16 eng }))
      (ZX 0x100 (core0 fun c => { c with engines := List.replicate 16 eng })) false ∧
    Passes (.cpy 1 8 0 1 false) 0 3 0 1 (Z 0x10000) (ZX 0x10000) true ∧ Passes (.cpy 1 8 0 1 false) 0 3 0 1 (Z 0) (ZX 0) true ∧
    Passes (.bld 1 8 0 false) 2 3 0 0 (G (2 ^ 32) 0 0 0 0 0 []) (GX (2 ^ 32) 0 0 0 0 0 []) true ∧
    Passes (.bld 1 8 1 false) 2 3 1 0 (G 0 0 0 0 0 (cap4 15) []) (GX 0 0 0 0 0 (cap4 15) []) true ∧
    Passes (.coll 1 8 1 1 false) 3 5 1 1 (G 0 256 0 512 0 (cap4 15) []) (GX 0 256 0 512 0 (cap4 15) []) true ∧
    (Passes (.gath 1 8 1 false) 1 4 1 0 (G rowWord 0 16 0 0 (cap4 15) []) (GX rowWord 0 16 0 0 (cap4 15) []) true ∧
      indexRead (GX rowWord 0 16 0 0 (cap4 15) []) = .inr [0, 0, 0, 0] ∧
      0 + 0 * 16 + 16 ≤ (((GX rowWord 0 16 0 0 (cap4 15) []).k 1).extractLsb' 64 40).toNat) ∧
    (Passes (.gath 1 8 1 false) 1 4 1 0 (G rowWord 0 16 0 0 (cap4 15) [0, 16]) (GX rowWord 0 16 0 0 (cap4 15) [0, 16]) true ∧
      indexRead (GX rowWord 0 16 0 0 (cap4 15) [0, 16]) = .inr [0, 16, 0, 0] ∧
      (((GX rowWord 0 16 0 0 (cap4 15) [0, 16]).k 1).extractLsb' 64 40).toNat < 0 + 4096 * 16 + 16) ∧
    (Passes (.gath 1 8 1 false) 1 4 1 0 (G rowWord 0 16 0 0 oldCap []) (GX rowWord 0 16 0 0 oldCap []) true ∧
      indexRead (GX rowWord 0 16 0 0 oldCap []) = .inl (.fault 0x22)) ∧
    (Passes (.gath 1 8 1 false) 1 4 1 0 (G rowWord 0 16 0 0 cap6 []) (GX rowWord 0 16 0 0 cap6 []) true ∧
      indexRead (GX rowWord 0 16 0 0 cap6 []) = .inl (.stall 0x26 3 6 0 3)) ∧
    (¬ BlockBad 1 1 0 (fun j => if j = 0 then 16 * 2 ^ 32 + 16 * 2 ^ 48 else 0) ∧
      ¬ BlockBad 1 2 0 (fun j => if j = 0 then 2 ^ 32 else 0) ∧
      ¬ BlockBad 1 3 1 (fun j => if j = 1 then 256 else 0) ∧ BlockBad 1 3 0 (fun j => if j = 1 then 256 else 0)) := by
  have p : ∀ {i sub n ks kd s x a}, engineForm i = some (sub, n, 1, 8, ks, kd) → Issues i s x →
      ¬ BlockBad x.tm.scru sub ks (blockOf x) →
      (((engineRanges sub ks kd (blockOf x)).all fun r => rangeCause (x.k r.1) r.2.1 r.2.2.1 r.2.2.2 == none) && x.owed.isEmpty &&
        (decide ((engineCount x).1 < 64) && decide ((engineCount x).2 < 16) && !admissionBarred x (x.engineCmd sub 8 n ks kd)) == a)
        = true → Passes i sub n ks kd s x a := by
    intro i sub n ks kd s x a h1 h2 h3 h
    simp only [Bool.and_eq_true, beq_iff_eq] at h
    exact ⟨h1, h2, h3, h.1.1, List.isEmpty_iff.mp h.1.2, h.2⟩
  refine ⟨⟨rfl, issues_of rfl (by decide), ?_⟩, ⟨issues_of rfl (by decide), ?_, ?_, ?_⟩,
    p rfl (issues_of rfl (by decide)) ?_ ?_, p rfl (issues_of rfl (by decide)) ?_ ?_, p rfl (issues_of rfl (by decide)) ?_ ?_,
    p rfl (issues_of rfl (by decide)) ?_ ?_, p rfl (issues_of rfl (by decide)) ?_ ?_, p rfl (issues_of rfl (by decide)) ?_ ?_,
    ⟨p rfl (issues_of rfl (by decide)) ?_ ?_, ?_, ?_⟩, ⟨p rfl (issues_of rfl (by decide)) ?_ ?_, ?_, ?_⟩,
    ⟨p rfl (issues_of rfl (by decide)) ?_ ?_, ?_⟩, ⟨p rfl (issues_of rfl (by decide)) ?_ ?_, ?_⟩, ⟨?_, ?_, ?_, ?_⟩⟩
  all_goals first | decide +kernel | (simp only [BlockBad]; decide +kernel)

/-- The wave's arrival at barrier 3 of its team, in phase 2. -/
def atBarrier (n : Nat) : State → State := fun s =>
  { s with barriers := [⟨0, 0, 0, 3, .core, 0, 2, 2, [(0, 0, n)], 0⟩] }

theorem witness_BarrierEntries :
    (Issues (.barw .core 3 false) (S (k := atBarrier 0)) (X (k := atBarrier 0)) ∧
      (0, 0, 0) ∈ ((X (k := atBarrier 0)).barrier 3 .core).arrivals ∧ (X (k := atBarrier 0)).was = none) ∧
    (Issues (.barw .core 3 false) (S (g := stands (.waiting (.bar 1))) (k := atBarrier 0))
        (X (g := stands (.waiting (.bar 1))) (k := atBarrier 0)) ∧
      (0, 0, 0) ∈ ((X (g := stands (.waiting (.bar 1))) (k := atBarrier 0)).barrier 3 .core).arrivals ∧
      (X (g := stands (.waiting (.bar 1))) (k := atBarrier 0)).was = some (.bar 1) ∧
      1 < ((X (g := stands (.waiting (.bar 1))) (k := atBarrier 0)).barrier 3 .core).phase) ∧
    (Issues (.barw .core 3 false) S X ∧ (0, 0, 0) ∉ (X.barrier 3 .core).arrivals) ∧
    (Issues (.bar 1 .core 3 false) (S (g := fun sp => { sp with status := .waiting (.bar 1) }) (k := atBarrier 1))
        (X (g := fun sp => { sp with status := .waiting (.bar 1) }) (k := atBarrier 1)) ∧
      (X (g := fun sp => { sp with status := .waiting (.bar 1) }) (k := atBarrier 1)).was = some (.bar 1) ∧
      1 < ((X (g := fun sp => { sp with status := .waiting (.bar 1) }) (k := atBarrier 1)).barrier 3 .core).phase) ∧
    (Issues (.bara 1 .core 3 false) (S (k := busyCore)) (X (k := busyCore)) ∧ NoneOwed (X (k := busyCore)) ∧
      ¬ NoPasses (X (k := busyCore))) ∧
    (Issues (.bar 1 .core 3 false) (S (k := atBarrier 1)) (X (k := atBarrier 1)) ∧ NoPasses (X (k := atBarrier 1)) ∧
      (X (k := atBarrier 1)).was = none ∧ (0, 0, 0) ∉ ((X (k := atBarrier 1)).barrier 3 .core).arrivals ∧
      needed (drained (X (k := atBarrier 1))).st (joined (X (k := atBarrier 1)) ((X (k := atBarrier 1)).barrier 3 .core) 0) = 2) ∧
    (Issues (.bar 1 .core 4 false) (S (sreg 1 2)) (X (sreg 1 2)) ∧
      needed (drained (X (sreg 1 2))).st (joined (X (sreg 1 2)) ((X (sreg 1 2)).barrier 4 .core) 2) = 2 ∧
      (joined (X (sreg 1 2)) ((X (sreg 1 2)).barrier 4 .core) 2).arrivals.length = 1) := by
  refine ⟨⟨issues_of rfl (by decide), by decide, rfl⟩, ⟨issues_of rfl (by decide), by decide, rfl, by decide⟩,
    ⟨issues_of rfl (by decide), by decide⟩, ⟨issues_of rfl (by decide), rfl, by decide⟩,
    ⟨issues_of rfl (by decide), rfl, fun h => h _ List.mem_cons_self rfl pass List.mem_cons_self ⟨rfl, rfl⟩⟩,
    ⟨issues_of rfl (by decide), (fun _ hc => nomatch hc), rfl, by decide, by decide⟩, issues_of rfl (by decide), by decide, by decide⟩

/-- Slot 0 of ring 0 in phase 1. -/
def phase1 (t : Team) : Team := { t with cores := [⟨0, Memory.empty, Memory.empty, [(0, 0)]⟩] }

/-- A second wave that waits in an STGW to slot 0 of ring 0 at place 4, and the first at place 5, or not yet. -/
def rival (t : Team) : Team := { t with waves := t.waves ++ [{ wave id (stands (.waiting (.stgw 0 4))) with number := 1 }] }
def inTurn (w : Wait) : Split → Split := stands (.waiting w)

theorem witness_StagingEntries :
    (Issues (.stgw true 0 0 false) (S id (inTurn (.stgw 0 5)) rival (ring0 256)) (X id (inTurn (.stgw 0 5)) rival (ring0 256)) ∧
      (X id (inTurn (.stgw 0 5)) rival (ring0 256)).ring 0 0 ≠ none ∧ NoneOwed (X id (inTurn (.stgw 0 5)) rival (ring0 256)) ∧
      NoPasses (X id (inTurn (.stgw 0 5)) rival (ring0 256)) ∧ NoCommands (X id (inTurn (.stgw 0 5)) rival (ring0 256)) ∧
      (X id (inTurn (.stgw 0 5)) rival (ring0 256)).was = some (.stgw 0 5) ∧
      4 ∈ (X id (inTurn (.stgw 0 5)) rival (ring0 256)).queuedAt 0) ∧
    ((X (h := rival) (k := ring0 256)).was = none ∧ (X (h := rival) (k := ring0 256)).queuedAt 0 ≠ []) ∧
    ((X id (inTurn (.stgw 0 5)) id (engines ∘ ring0 256)).was = some (.stgw 0 5) ∧
      ¬ NoCommands (X id (inTurn (.stgw 0 5)) id (engines ∘ ring0 256))) ∧
    ((X (k := ring0 256)).queuedAt 0 = [] ∧ (X (k := ring0 256)).phase 0 0 ≠ true) ∧
    (Issues (.stga true 0 0 false) S X ∧ X.ring 0 0 = none) ∧
    (Issues (.stga true 0 0 false) (S (h := phase1) (k := ring0 256)) (X (h := phase1) (k := ring0 256)) ∧
      (X (h := phase1) (k := ring0 256)).ring 0 0 ≠ none ∧ (X (h := phase1) (k := ring0 256)).phase 0 0 = true) ∧
    (Issues (.stga true 0 0 false) (S (k := ring0 256)) (X (k := ring0 256)) ∧ (X (k := ring0 256)).phase 0 0 ≠ true) ∧
    (Issues (.stgw true 0 0 false) (S (k := engines ∘ ring0 256)) (X (k := engines ∘ ring0 256)) ∧
      (X (k := engines ∘ ring0 256)).ring 0 0 ≠ none ∧ ¬ NoCommands (X (k := engines ∘ ring0 256))) ∧
    (Issues (.stgw true 0 0 false) (S (h := phase1) (k := ring0 256)) (X (h := phase1) (k := ring0 256)) ∧
      NoPasses (X (h := phase1) (k := ring0 256)) ∧ NoCommands (X (h := phase1) (k := ring0 256)) ∧
      (X (h := phase1) (k := ring0 256)).queuedAt 0 = [] ∧
      (∃ c ∈ (X (h := phase1) (k := ring0 256)).tm.cores, c.core = (X (h := phase1) (k := ring0 256)).wv.core) ∧
      ∀ c ∈ (X (h := phase1) (k := ring0 256)).tm.cores, c.phases.Nodup) := by
  refine ⟨⟨issues_of rfl (by decide), by decide, rfl, (fun _ hc => nomatch hc), (fun _ hc => nomatch hc), rfl, by decide⟩,
    ⟨rfl, by decide⟩, ⟨rfl, fun h => h _ List.mem_cons_self eng List.mem_cons_self ⟨rfl, rfl, rfl⟩⟩, by decide,
    ⟨issues_of rfl (by decide), by decide⟩, ⟨issues_of rfl (by decide), by decide, by decide⟩,
    ⟨issues_of rfl (by decide), by decide⟩,
    ⟨issues_of rfl (by decide), by decide, fun h => h _ List.mem_cons_self eng List.mem_cons_self ⟨rfl, rfl, rfl⟩⟩,
    issues_of rfl (by decide), (fun _ hc => nomatch hc), (fun _ hc => nomatch hc), by decide, ⟨_, List.mem_cons_self, rfl⟩, by decide⟩

/-! ### Streams -/

/-- Object 4 as that stream, s1 and v2 as given, lane 31 active. -/
def P (a : W64) (v : W32) (bs : List Byte) : State :=
  S (fun w => { sreg 1 a (k1 (cap4 15) w) with v := w.v.set 2 (Vector.replicate 32 v) }) lane31 id (mapped bs)
def PX (a : W64) (v : W32) (bs : List Byte) : Iss :=
  X (fun w => { sreg 1 a (k1 (cap4 15) w) with v := w.v.set 2 (Vector.replicate 32 v) }) lane31 id (mapped bs)

/-- The block reached. -/
def reached (x : Iss) : State × Reach :=
  (drained x).st.reach x.tm.die x.wv.core x.tm.ctx (x.k 1) ((x.k 1).extractLsb' 24 40).toNat

theorem blockAt {x : Iss} {right : Nat}
    (h : ((x.k 1).getLsbD 109 = true ∧ (x.k 1).getLsbD (104 + right) = true ∧ 64 ≤ ((x.k 1).extractLsb' 64 40).toNat ∧
      ((x.k 1).extractLsb' 24 40).toNat % 16 = 0) ∧
      ((reached x).2.physical ((x.k 1).extractLsb' 24 40).toNat).map Prod.fst = some page4 ∧
      ((reached x).1.peekSector page4).2 = false) : BlockAt x 1 right (reached x).1 page4 :=
  ⟨h.1.1, h.1.2.1, h.1.2.2.1, h.1.2.2.2, (reached x).2, rfl, h.2⟩

/-- TAIL, HEAD, CONFIG and whether the stream is valid, as the instruction finds them. -/
def found (x : Iss) : Nat × Nat × Nat × Bool :=
  let s := (reached x).1
  (word64 s page4, word64 s (page4 + 8), word64 s (page4 + 24),
    decide ((x.k 1).extractLsb' 24 40 = 0 ∧ 64 + 64 * 2 ^ logn s page4 ≤ ((x.k 1).extractLsb' 64 40).toNat ∧
      bitsOf (word64 s (page4 + 24)) 63 1 = 1))

theorem witness_StreamEntries : NoneOwed (PX 1 0 (block 0 0 0)) ∧
    (Issues (.resv 3 1 1 false) (P 1 0 (block 0 0 0)) (PX 1 0 (block 0 0 0)) ∧
      BlockAt (PX 1 0 (block 0 0 0)) 1 2 (reached (PX 1 0 (block 0 0 0))).1 page4 ∧
      found (PX 1 0 (block 0 0 0)) = (0, 0, 0, false)) ∧
    (Issues (.resv 3 1 1 false) (P 1 0 (block 2 0 (cfg 2 1))) (PX 1 0 (block 2 0 (cfg 2 1))) ∧
      found (PX 1 0 (block 2 0 (cfg 2 1))) = (2, 0, cfg 2 1, true) ∧ 0 + 2 < 2 + 1) ∧
    (Issues (.resv 3 1 1 false) (P 2 0 (block 0 0 (cfg 2 1))) (PX 2 0 (block 0 0 (cfg 2 1))) ∧
      BlockAt (PX 2 0 (block 0 0 (cfg 2 1))) 1 2 (reached (PX 2 0 (block 0 0 (cfg 2 1)))).1 page4 ∧
      found (PX 2 0 (block 0 0 (cfg 2 1))) = (0, 0, cfg 2 1, true) ∧ 0 + 2 ≤ 0 + 2) ∧
    (Issues (.post .all 3 2 1 false) (P 0 0 (block 0 0 (cfg 0 0))) (PX 0 0 (block 0 0 (cfg 0 0))) ∧
      BlockAt (PX 0 0 (block 0 0 (cfg 0 0))) 1 1 (reached (PX 0 0 (block 0 0 (cfg 0 0)))).1 page4 ∧
      bitsOf (cfg 0 0) 45 3 < (PX 0 0 (block 0 0 (cfg 0 0))).tm.depth + 1) ∧
    (Issues (.post .all 3 2 1 false) (P 0 0xE0 (block 0 0 (cfg 0 1))) (PX 0 0xE0 (block 0 0 (cfg 0 1))) ∧
      0xE0 ≤ ((PX 0 0xE0 (block 0 0 (cfg 0 1))).v 2 31).toNat % 256) ∧
    (Issues (.post .trap 3 2 1 false) (P 0 0 (block 2 0 (cfg 0 1))) (PX 0 0 (block 2 0 (cfg 0 1))) ∧
      Issues (.post .all 3 2 1 false) (P 0 0 (block 2 0 (cfg 0 1))) (PX 0 0 (block 2 0 (cfg 0 1))) ∧
      Issues (.post .part 3 2 1 false) (P 0 0 (block 2 0 (cfg 0 1))) (PX 0 0 (block 2 0 (cfg 0 1))) ∧
      found (PX 0 0 (block 2 0 (cfg 0 1))) = (2, 0, cfg 0 1, true) ∧
      IsLowest 0 (PX 0 0 (block 2 0 (cfg 0 1))).mask 0) ∧
    (Issues (.post .all 3 2 1 false) (P 0 0xDF (block 1 0 (cfg 0 1))) (PX 0 0xDF (block 1 0 (cfg 0 1))) ∧
      found (PX 0 0xDF (block 1 0 (cfg 0 1))) = (1, 0, cfg 0 1, true) ∧
      ((PX 0 0xDF (block 1 0 (cfg 0 1))).v 2 31).toNat % 256 < 0xE0 ∧
      IsLowest 0x80000000 (PX 0 0xDF (block 1 0 (cfg 0 1))).mask 1) ∧
    (Issues (.publ 2 1 false) (P 0 0 (block 1 0 (cfg 2 1))) (PX 0 0 (block 1 0 (cfg 2 1))) ∧ bitsOf (cfg 2 1) 41 2 ≠ 1) ∧
    (Issues (.publ 2 1 false) (P 0 0 (block 1 0 (cfg 1 1))) (PX 0 0 (block 1 0 (cfg 1 1))) ∧
      BlockAt (PX 0 0 (block 1 0 (cfg 1 1))) 1 1 (reached (PX 0 0 (block 1 0 (cfg 1 1)))).1 page4 ∧
      found (PX 0 0 (block 1 0 (cfg 1 1))) = (1, 0, cfg 1 1, true)) := by
  refine ⟨rfl, ⟨issues_of rfl (by decide), blockAt (by decide +kernel), ?_⟩, ⟨issues_of rfl (by decide), ?_, by decide⟩,
    ⟨issues_of rfl (by decide), blockAt (by decide +kernel), ?_, by decide⟩,
    ⟨issues_of rfl (by decide), blockAt (by decide +kernel), by decide⟩, ⟨issues_of rfl (by decide), by decide⟩,
    ⟨issues_of rfl (by decide), issues_of rfl (by decide), issues_of rfl (by decide), ?_, ?_⟩,
    ⟨issues_of rfl (by decide), ?_, by decide, ?_⟩, ⟨issues_of rfl (by decide), by decide⟩,
    ⟨issues_of rfl (by decide), blockAt (by decide +kernel), ?_⟩⟩
  all_goals first | decide +kernel | (unfold IsLowest; decide +kernel)

/-! ### The Frame, quorums, system registers -/

/-- The capability of a whole structure read, and what was read of it. -/
def readOf (x : Iss) (k : KReg) (n : Nat) : State × Except RangeStop (List Byte) :=
  (drained x).st.readRange x.tm.die x.wv.core x.tm.ctx (x.k k) (n / 256 + 2) 0 n

/-- A whole structure is read as some bytes, and something holds of the state that the reading leaves. -/
def readsAs (x : Iss) (k : KReg) (n : Nat) (bs : List Byte) (p : State → Bool) : Bool :=
  (x.k k).getLsbD 109 && (x.k k).getLsbD 104 && decide (n ≤ ((x.k k).extractLsb' 64 40).toNat) &&
    decide (((x.k k).extractLsb' 24 40).toNat % 16 = 0) && x.owed.isEmpty &&
    match readOf x k n with
    | (s, .ok b) => b == bs && p s
    | (_, .error _) => false

theorem structIs {x : Iss} {k : KReg} {n : Nat} {bs : List Byte} {p : State → Bool} (h : readsAs x k n bs p = true) :
    ∃ s', StructIs x k n s' bs ∧ p s' = true := by
  unfold readsAs at h
  generalize hr : readOf x k n = r at h
  obtain ⟨s, e | b⟩ := r
  · simp at h
  · simp only [Bool.and_eq_true, decide_eq_true_eq, beq_iff_eq] at h
    obtain ⟨⟨⟨⟨⟨h1, h2⟩, h3⟩, h4⟩, h5⟩, rfl, h6⟩ := h
    exact ⟨s, ⟨h1, h2, h3, h4, List.isEmpty_iff.mp h5, hr⟩, h6⟩

/-- An automaton image: one state, one stream (object 4), and one START transition that accepts and launches code object 2. -/
def imageAt : List (Nat × List Byte) :=
  [(0, leBytes 4 0x41554D58), (4, [1, 0, 1, 1, 1]), (12, [1]), (24, [4]), (64, leBytes 4 0x200), (68, [0x40]),
    (1088, [2]), (1096, leBytes 8 (32 + 64 * 2 ^ 16 + 2 ^ 24))]
def image : List Byte := bytesAt 1472 imageAt

/-- Object 4 is a stream with those bytes from offset 128, code object 2 has a text, k1 names the bytes from 128. -/
def withStruct (ps : List (Nat × List Byte)) (s : State) : State :=
  let u := mapped (block 0 0 (cfg 2 1)) s
  let t := { u with phys := ps.foldl (fun (m : Memory) (p : Nat × List Byte) => m.writeBytes (page4 + 128 + p.1) p.2) u.phys }
  t.setCtx 0 { t.ctx 0 with
    streams := [4], code := [{ obj := 2, texts := Vector.replicate 4 [0], rings := [], safe := [] }] }

def struct1 (w : Wave) : Wave := k1 (capMake 4 128 0x8000 15 false 1) w

/-- A loaded rod of context 0, its handle 0x801. -/
def rod1 : Rod := ⟨0, 1, 1, image, false, true, 2, 0, 5, 6, 0, 0, none, []⟩
def rods (n : Nat) (s : State) : State := s.setDie 0 { s.dies[0] with rods := List.replicate n rod1 }

def I (bs : List (Nat × List Byte)) (k : State → State := id) : State := S (sreg 3 1 ∘ struct1) id id (fun s => k (withStruct bs s))
def IX (bs : List (Nat × List Byte)) (k : State → State := id) : Iss := X (sreg 3 1 ∘ struct1) id id (fun s => k (withStruct bs s))

/-- s1 the handle of that rod, s3 an argument of AUTCTL. -/
def H (v : W64) : State := S (sreg 3 v ∘ sreg 1 0x801) id id (rods 1)
def HX (v : W64) : Iss := X (sreg 3 v ∘ sreg 1 0x801) id id (rods 1)

/-- What AUTLD looks at of what it read: the failing offset and the rods of the Frame it goes to. -/
def loadsAs (img : List Byte) (fault : Option Nat) (rods : Nat) (s : State) : Bool :=
  s.imageFault 0 img == fault && (s.dies[s.imageHome 0 img]).rods.length == rods

theorem witness_AutomatonEntries :
    (Issues (.autld 3 2 1 false) (I []) (IX []) ∧ ∃ s', StructIs (IX []) 1 1472 s' (zeros 1472) ∧
      loadsAs (zeros 1472) (some 0) 0 s' = true) ∧
    (Issues (.autld 3 2 1 false) (I imageAt) (IX imageAt) ∧ (IX imageAt).tm.ctx < 64 ∧ ∃ s', StructIs (IX imageAt) 1 1472 s' image ∧
      loadsAs image none 0 s' = true) ∧
    (Issues (.autld 3 2 1 false) (I imageAt (rods 512)) (IX imageAt (rods 512)) ∧
      ∃ s', StructIs (IX imageAt (rods 512)) 1 1472 s' image ∧ loadsAs image none 512 s' = true) ∧
    (Issues (.autctl .quota 3 1 false) (H 65536) (HX 65536) ∧ RodIs (HX 65536) ((HX 65536).s 1) 0 rod1 ∧
      ¬ (((HX 65536).s 3).extractLsb' 0 17).toNat = 0 ∧ ¬ 65536 < (((HX 65536).s 3).extractLsb' 0 17).toNat) ∧
    (Issues (.autctl .quota 3 1 false) (H 65537) (HX 65537) ∧ RodIs (HX 65537) ((HX 65537).s 1) 0 rod1 ∧
      65536 < (((HX 65537).s 3).extractLsb' 0 17).toNat) ∧
    (((HX 0).s 3).extractLsb' 0 17).toNat = 0 ∧ (((HX 0x60001).s 3).extractLsb' 17 2).toNat = 3 ∧
    (Issues (.autctl .unload 3 0 false) (H 0) (HX 0) ∧ (HX 0).st.rodOf 0 ((HX 0).s 0) = none) ∧
    (Issues (.autq .drops 3 1 false) (H 0) (HX 0) ∧ RodIs (HX 0) ((HX 0).s 1) 0 rod1) ∧
    Issues (.autq .beads 3 0 false) (H 0) (HX 0) := by
  refine ⟨⟨issues_of rfl (by decide), structIs (by decide +kernel)⟩,
    ⟨issues_of rfl (by decide), by decide, structIs (by decide +kernel)⟩, ⟨issues_of rfl (by decide), structIs (by decide +kernel)⟩,
    ⟨issues_of rfl (by decide), ?_, by decide, by decide⟩, ⟨issues_of rfl (by decide), ?_, by decide⟩, by decide, by decide,
    ⟨issues_of rfl (by decide), by decide +kernel⟩, ⟨issues_of rfl (by decide), ?_⟩, issues_of rfl (by decide)⟩
  all_goals (unfold RodIs; decide +kernel)

/-- All registers of die 0 in use. -/
def allOpen (s : State) : State :=
  s.setDie 0 { s.dies[0] with quorums := List.replicate 1024 { bound0 with ctx := 1 } }

def Q (bs : List (Nat × List Byte)) (k : State → State := id) (d : Nat := 0) : State :=
  S (sreg 3 1 ∘ struct1) id (fun t => { t with depth := d }) (fun s => k (withStruct bs s))
def QX (bs : List (Nat × List Byte)) (k : State → State := id) (d : Nat := 0) : Iss :=
  X (sreg 3 1 ∘ struct1) id (fun t => { t with depth := d }) (fun s => k (withStruct bs s))

/-- An allowance of nothing. -/
def noAllowance (s : State) : State := s.setCtx 0 { s.ctx 0 with allowT := 0 }

/-- What QOPEN looks at of what it read: the failing offset, MAXD, what is left of the allowance and the registers in use. -/
def opensAs (d : List Byte) (fault maxd : Option Nat) (left used : Nat) (s : State) : Bool :=
  firstFailure (s.descChecks 0 d) == fault && (s.postable 0 (descStream d)).map Block.maxd == maxd &&
    (s.ctx 0).allowT - (descQuota d + s.quotas 0) == left && (s.dies[(0 : Fin 4)]).quorums.length == used

/-- Quorum 0 is open, the team its member 0 (or not), s1 its handle. -/
def R (m : Option (W32 × Nat)) (kill : Bool := false) : State :=
  S (fun w => { sreg 1 0x80000000 w with cc := { w.cc with k := kill } }) id (fun t => { t with member := m })
    fun s => s.setDie 0 { s.dies[0] with quorums := [bound0] }
def RX (m : Option (W32 × Nat)) (kill : Bool := false) : Iss :=
  X (fun w => { sreg 1 0x80000000 w with cc := { w.cc with k := kill } }) id (fun t => { t with member := m })
    fun s => s.setDie 0 { s.dies[0] with quorums := [bound0] }

theorem witness_QuorumEntries :
    (Issues (.qopen 2 1 false) (Q []) (QX []) ∧ ∃ s', StructIs (QX []) 1 320 s' (zeros 320) ∧
      opensAs (zeros 320) (some 0) none 1000 0 s' = true) ∧
    (Issues (.qopen 2 1 false) (Q (descAt 256)) (QX (descAt 256)) ∧ (QX (descAt 256)).tm.depth + 1 = 1 ∧
      ∃ s', StructIs (QX (descAt 256)) 1 320 s' (desc 256) ∧ opensAs (desc 256) none (some 1) 744 0 s' = true) ∧
    (Issues (.qopen 2 1 false) (Q (descAt 256) id 1) (QX (descAt 256) id 1) ∧ (QX (descAt 256) id 1).tm.depth + 1 = 2 ∧
      ∃ s', StructIs (QX (descAt 256) id 1) 1 320 s' (desc 256) ∧ opensAs (desc 256) none (some 1) 744 0 s' = true) ∧
    (Issues (.qopen 2 1 false) (Q (descAt 256) noAllowance) (QX (descAt 256) noAllowance) ∧
      ∃ s', StructIs (QX (descAt 256) noAllowance) 1 320 s' (desc 256) ∧ opensAs (desc 256) none (some 1) 0 0 s' = true) ∧
    (Issues (.qopen 2 1 false) (Q (descAt 256) allOpen) (QX (descAt 256) allOpen) ∧
      ∃ s', StructIs (QX (descAt 256) allOpen) 1 320 s' (desc 256) ∧ opensAs (desc 256) none (some 1) 744 1024 s' = true) ∧
    (Issues (.qarr 2 1 false) (R none) (RX none) ∧ (RX none).st.quorum 0 0x80000000 = some bound0 ∧ (RX none).tm.member = none) ∧
    (Issues (.qarr 2 0 false) (R none) (RX none) ∧ (RX none).st.quorum 0 0 = none) ∧
    (Issues (.qarr 2 1 false) (R (some (0x80000000, 0))) (RX (some (0x80000000, 0))) ∧
      (RX (some (0x80000000, 0))).tm.member = some (((RX none).s 1).setWidth 32, (((RX none).s 2).extractLsb' 0 6).toNat) ∧
      (0, (0 : Fin 4).val, (0 : W32)) ∈ bound0.bound ∧ (RX (some (0x80000000, 0))).wv.cc.k = false ∧
      (RX (some (0x80000000, 0))).was = none ∧ NoneOwed (RX (some (0x80000000, 0)))) ∧
    (Issues (.qarr 2 1 false) (S (sreg 1 0x80000000) id member0 open2) (X (sreg 1 0x80000000) id member0 open2) ∧
      (X (sreg 1 0x80000000) id member0 open2).st.quorum 0 0x80000000 = some quorum2 ∧
      (X (sreg 1 0x80000000) id member0 open2).tm.member = some (0x80000000, 0) ∧ (0, (0 : Fin 4).val, (0 : W32)) ∈ quorum2.bound ∧
      (X (sreg 1 0x80000000) id member0 open2).was = none ∧ NoneOwed (X (sreg 1 0x80000000) id member0 open2) ∧
      (X (sreg 1 0x80000000) id member0 open2).wv.stores = [] ∧ (X (sreg 1 0x80000000) id member0 open2).wv.cc.k = false ∧
      quorum2.state = .opened ∧ ((X (sreg 1 0x80000000) id member0 open2).st.ctx 0).clocks = none ∧
      (((X (sreg 1 0x80000000) id member0 open2).st.dies[handleDie 0x80000000]).ticks : Int) < quorum2.due ∧
      (quorum2.arrived ||| BitVec.ofNat 64 (2 ^ 0)).cpop.toNat ≠ descKreq quorum2.desc) ∧
    (Issues (.qarr 2 1 false) (S (sreg 1 0x80000000) (stands (.waiting (.quorumAnswer false))) member0 quorum0)
        (X (sreg 1 0x80000000) (stands (.waiting (.quorumAnswer false))) member0 quorum0) ∧
      (X (sreg 1 0x80000000) (stands (.waiting (.quorumAnswer false))) member0 quorum0).was = some (.quorumAnswer false) ∧
      (X (sreg 1 0x80000000) (stands (.waiting (.quorumAnswer false))) member0 quorum0).wv.cc.k = false) ∧
    (Issues (.qarr 2 1 false) (R (some (0x80000000, 0)) true) (RX (some (0x80000000, 0)) true) ∧
      (RX (some (0x80000000, 0)) true).wv.cc.k = true) ∧
    (Issues (.qarr 2 1 false) (S (sreg 1 0x80000000) (stands (.waiting (.quorumAnswer true))) member0 quorum0)
        (X (sreg 1 0x80000000) (stands (.waiting (.quorumAnswer true))) member0 quorum0) ∧
      (X (sreg 1 0x80000000) (stands (.waiting (.quorumAnswer true))) member0 quorum0).was = some (.quorumAnswer true)) ∧
    (Issues (.qstat 2 1 false) (R none) (RX none) ∧ bound0.status < 256 ∧ bound0.late < 256 ∧ bound0.killing.length < 256) ∧
    Issues (.qscale 2 1 false) (R none) (RX none) ∧ Issues (.qscale 2 0 false) (R none) (RX none) := by
  refine ⟨⟨issues_of rfl (by decide), structIs (by decide +kernel)⟩,
    ⟨issues_of rfl (by decide), by decide, structIs (by decide +kernel)⟩,
    ⟨issues_of rfl (by decide), by decide, structIs (by decide +kernel)⟩, ⟨issues_of rfl (by decide), structIs (by decide +kernel)⟩,
    ⟨issues_of rfl (by decide), structIs (by decide +kernel)⟩, ⟨issues_of rfl (by decide), by decide +kernel, rfl⟩,
    ⟨issues_of rfl (by decide), by decide +kernel⟩, ⟨issues_of rfl (by decide), by decide, by decide, by decide, rfl, rfl⟩,
    ⟨issues_of rfl (by decide), by decide +kernel, rfl, by decide, rfl, rfl, rfl, rfl, rfl, by decide +kernel, by decide +kernel,
      by decide +kernel⟩, ⟨issues_of rfl (by decide), rfl, rfl⟩, ⟨issues_of rfl (by decide), by decide⟩, ⟨issues_of rfl (by decide), rfl⟩,
    ⟨issues_of rfl (by decide), by decide, by decide, by decide⟩, issues_of rfl (by decide), issues_of rfl (by decide)⟩

/-! ### Scratchpads and parameters -/

/-- v1 the offset 16,380 in lane 0 and another in lane 31, the two active lanes of a wave with a scratchpad of 16,384 bytes. -/
def padWave (o : W32) (w : Wave) : Wave :=
  { w with v := w.v.set 1 ((Vector.replicate 32 o).set 0 16380) }
def ends (sp : Split) : Split := { sp with mask := 0x80000001 }
def L (o : W32) : State := S (padWave o) ends
def LX (o : W32) : Iss := X (padWave o) ends

/-- The faults of those lanes in an access of `w` bytes. -/
def faultsOf (x : Iss) (w : Nat) : List LaneFault := scratchFaultsOf x w (scratchOffset x 0 w false 1)

theorem witness_ScratchpadLoad :
    (Issues (.lds 0 .b32 false 1 2 false) (L 0) (LX 0) ∧ faultsOf (LX 0) 4 = []) ∧
    Issues (.lds 0 .b32 false 1 2 false) (L 16381) (LX 16381) ∧ faultsOf (LX 16381) 4 = [⟨31, 0x20, 0x101F, 16381⟩] ∧
    faultsOf (LX 16378) 4 = [⟨31, 0x24, 0x101F, 16378⟩] :=
  ⟨⟨issues_of rfl (by decide), by decide +kernel⟩, issues_of rfl (by decide), by decide +kernel, by decide +kernel⟩

theorem witness_ScratchpadStore :
    (Issues (.sts 0 .b32 false 1 2 false) (L 0) (LX 0) ∧ (LX 0).scratch.wf = true ∧ faultsOf (LX 0) 4 = [] ∧
      scratchFits (LX 0) 4 (scratchOffset (LX 0) 0 4 false 1) 0 = true ∧ scratchOffset (LX 0) 0 4 false 1 31 = 0) ∧
    Issues (.sts 0 .b32 false 1 2 false) (L 16378) (LX 16378) ∧ (LX 16378).scratch.wf = true ∧ faultsOf (LX 16378) 4 ≠ [] ∧
    scratchFits (LX 16380) 4 (scratchOffset (LX 16380) 0 4 false 1) 31 = true ∧
    scratchOffset (LX 16380) 0 4 false 1 31 = scratchOffset (LX 16380) 0 4 false 1 0 :=
  ⟨⟨issues_of rfl (by decide), by decide, by decide +kernel, by decide +kernel, by decide +kernel⟩,
    issues_of rfl (by decide), by decide, by decide +kernel, by decide +kernel, by decide +kernel⟩

theorem witness_ScratchpadAtomic :
    (Instr.wellFormed (.atoms false .cas 1 62 false) = true ∧ Issues (.atoms false .cas 1 62 false) (L 16380) (LX 16380) ∧
      (LX 16380).scratch.wf = true ∧ faultsOf (LX 16380) 4 = []) ∧
    Instr.wellFormed (.atoms true .add 1 2 false) = true ∧ Issues (.atoms true .add 1 2 false) (L 0) (LX 0) ∧
    faultsOf (LX 0) 8 ≠ [] :=
  ⟨⟨rfl, issues_of rfl (by decide), by decide, by decide +kernel⟩, rfl, issues_of rfl (by decide), by decide +kernel⟩

/-- A window of six bytes bound as number 0. -/
def windowed (t : Team) : Team := { t with windows := t.windows.set 0 (some [1, 2, 3, 4, 5, 6]) }

theorem witness_ParameterLoad :
    (Issues (.ldp 3 .b32 false 1 2 false) (S (h := windowed)) (X (h := windowed)) ∧ (X (h := windowed)).tm.windows[(1 : Fin 8)] = none) ∧
    (Issues (.ldp 3 .b32 false 0 2 false) (S (h := windowed)) (X (h := windowed)) ∧
      (X (h := windowed)).tm.windows[(0 : Fin 8)] = some [1, 2, 3, 4, 5, 6] ∧ [1, 2, 3, 4, 5, 6].length < (3 : BitVec 12).toNat + 4) ∧
    Issues (.ldp 2 .b32 true 0 2 false) (S (h := windowed)) (X (h := windowed)) ∧
    ¬ [1, 2, 3, 4, 5, 6].length < (2 : BitVec 12).toNat + 4 :=
  ⟨⟨issues_of rfl (by decide), rfl⟩, ⟨issues_of rfl (by decide), rfl, by decide⟩, issues_of rfl (by decide), by decide⟩

/-! ### System registers -/

/-- A shoot-down that the split asked for, acknowledged or not. -/
def asked (r : Option W64) : ShootDown := ⟨4, false, some (0, 0, 0, 0), false, r⟩
def shooting (r : Option W64) (s : State) : State := { s with contexts := s.contexts.set 0 { s.ctx 0 with shoot := [asked r] } }

/-- The condition of OINV's two first clauses. -/
def NotAsked (x : Iss) : Prop :=
  ∀ e ∈ (x.st.ctx x.tm.ctx).shoot, e.asker ≠ some (x.tm.die, x.tm.serial, x.wv.number.val, x.slot)

/-- Counter 0 counts for context 0, or for another context's owner. -/
def counting (own : Bool) (s : State) : State :=
  core0 (fun c => { c with cntsel := c.cntsel.set 0 ⟨true, 0, own, 1⟩ }) s

theorem witness_SystemRegisterEntries :
    (Issues (.mfsr .fpflags 2 false) (S (k := core0 fun c => { c with queue := [pass] }))
        (X (k := core0 fun c => { c with queue := [pass] })) ∧
      ¬ NoPasses (X (k := core0 fun c => { c with queue := [pass] }))) ∧
    (Issues (.mfsr .fpflags 2 false) S X ∧ NoPasses X) ∧ Issues (.mfsr .wid 2 false) S X ∧
    (Issues (.mtsr .ltile 2 false) (S (sreg 2 5)) (X (sreg 2 5)) ∧
      sysWritten (X (sreg 2 5)) .ltile 5 = some { X (sreg 2 5) with wv := { (X (sreg 2 5)).wv with tile := .l32 } } ∧
      (X (sreg 2 5)).s 2 = 5) ∧
    (Issues (.mtsr .ltile 2 false) (S (sreg 2 6)) (X (sreg 2 6)) ∧ sysWritten (X (sreg 2 6)) .ltile ((X (sreg 2 6)).s 2) = none) ∧
    (Issues (.mtsr (.cntsel 3) 2 false) (S (svc ∘ sreg 2 16)) (X (svc ∘ sreg 2 16)) ∧
      sysWritten (X (svc ∘ sreg 2 16)) (.cntsel 3) ((X (svc ∘ sreg 2 16)).s 2) = none) ∧
    (Issues (.cntrd 0 2 false) (S (k := counting true)) (X (k := counting true)) ∧
      Issues (.cntrd 0 2 false) (S (k := counting false)) (X (k := counting false))) ∧
    (Issues (.oinv 2 false) (S svc) (X svc) ∧ NotAsked (X svc) ∧ (X svc).st.entry 0 0 = none) ∧
    (Issues (.oinv 2 false) (S (svc ∘ sreg 2 4) id id (mapped [])) (X (svc ∘ sreg 2 4) id id (mapped [])) ∧
      NotAsked (X (svc ∘ sreg 2 4) id id (mapped [])) ∧ ((X (svc ∘ sreg 2 4) id id (mapped [])).st.entry 0 4).isSome = true) ∧
    (Issues (.oinv 2 false) (S svc id id (shooting none)) (X svc id id (shooting none)) ∧ asked none ∈ ((X svc id id (shooting none)).st.ctx 0).shoot) ∧
    (Issues (.oinv 2 false) (S svc id id (shooting (some 3))) (X svc id id (shooting (some 3))) ∧
      asked (some 3) ∈ ((X svc id id (shooting (some 3))).st.ctx 0).shoot ∧
      ∀ f ∈ ((X svc id id (shooting (some 3))).st.ctx 0).shoot, f = asked (some 3)) := by
  refine ⟨⟨issues_of rfl (by decide), fun h => h _ List.mem_cons_self rfl pass List.mem_cons_self ⟨rfl, rfl⟩⟩, ⟨issues_of rfl (by decide), ?_⟩,
    issues_of rfl (by decide), ⟨issues_of rfl (by decide), rfl, rfl⟩, ⟨issues_of rfl (by decide), rfl⟩,
    ⟨issues_of rfl (by decide), rfl⟩, ⟨issues_of rfl (by decide), issues_of rfl (by decide)⟩,
    ⟨issues_of rfl (by decide), (fun _ h => nomatch h), by decide +kernel⟩,
    ⟨issues_of rfl (by decide), (fun _ h => nomatch h), by decide +kernel⟩,
    ⟨issues_of rfl (by decide), List.mem_cons_self⟩,
    ⟨issues_of rfl (by decide), List.mem_cons_self, fun f h => List.mem_singleton.mp h⟩⟩
  exact fun _ h => nomatch h

/-! ### Steps of the engines -/

/-- A command of the wave's core over object 4, its parameters given, changed by `f`. -/
def cmd (sub : Nat) (ps : List Nat) (f : EngineCmd → EngineCmd) : EngineCmd :=
  f { (X).engineCmd sub 0 ps.length 0 0 with serial := 5, params := ps, src := cap4 15, dst := cap4 15, zero := false }

/-- The machine whose core 0 holds that command. -/
def E (e : EngineCmd) : State :=
  S (k := fun s =>
    let t := mapped [0, 0, 0, 0, 9] s
    core0 (fun c => { c with engines := [e] }) { t with joined := true, contexts := t.contexts.set 0 { t.ctx 0 with peers := [(9, 0)] } })

/-- It is there and may run. -/
def Runs (e : EngineCmd) : Prop := ((E e).core 0 0).engines[0]? = some e ∧ (E e).mayRun 0 0 e = true

/-- A split fetches that instruction, which goes on. -/
theorem fetch_of {o : Option (State × Instr)} (i : Instr)
    (h : (match o with
      | some (t, j) => decide (j = i) && (match exec i t with | .next _ => true | _ => false)
      | none => false) = true) : ∃ t, o = some (t, i) ∧ ∃ u, exec i t = .next u := by
  obtain _ | ⟨t, j⟩ := o
  · cases h
  · simp only [Bool.and_eq_true, decide_eq_true_eq] at h
    obtain ⟨rfl, h2⟩ := h
    exact ⟨t, rfl, next_of h2⟩

/-- CPY s1, s8, k0, k1 in the code, its wave waiting for admission. -/
def waitingCpy (f : Wave → Wave) : State :=
  S (f ∘ sreg 10 0x100 ∘ k1 (cap4 15)) (stands (.waiting .admission)) id fun s =>
    let t := mapped [] s
    t.setCtx 0 { t.ctx 0 with code := [{ obj := 2, texts := Vector.replicate 4 (leBytes 4 0x048010D1), rings := [], safe := [] }] }

/-- Zeros copied; 16 bytes copied; one row gathered by the index at offset 0; a block built from scratchpad; a source without its
capability; a source whose page is not there; a COLL whose home is another module, with and without its contribution sent. -/
def cpyZeros : EngineCmd := cmd 0 [0, 0, 16] fun e => { e with zero := true }
def cpyBytes : EngineCmd := cmd 0 [0, 256, 16] id
def gather : EngineCmd := cmd 1 [16 * 2 ^ 32 + 16 * 2 ^ 48, 0, 16, 0] id
def build : EngineCmd := cmd 2 [2 ^ 32, 0, 0] fun e => { e with data := some (zeros 256) }
def stale : EngineCmd := cmd 0 [0, 256, 16] fun e => { e with src := capMake 4 0 0x10000 15 false 2 }
def absent : EngineCmd := cmd 0 [0, 256, 16] fun e => { e with src := capMake 6 0 0x10000 15 false 1 }
def contribute : EngineCmd := cmd 3 [0, 16, 0, 256, 9 * 2 ^ 32] id

/-- A COLL of 16 bytes whose collective, at its home here, has its result. -/
def received : EngineCmd := cmd 3 [0, 16, 0, 256, 0] fun e => { e with sent := true }
def R3 : State :=
  let s := E received
  s.setDie 0 { s.dies[0] with collectives := [⟨0, 0, false, 1, 0, 16, [⟨0, zeros 16, some (0, 0, 0, 0, 5), true⟩], some (List.replicate 16 9)⟩] }

theorem witness_EngineSteps :
    (∃ (t : State) (i : Instr), (waitingCpy id).fetchAt ⟨0, 0, 0⟩ = some (t, i) ∧ (waitingCpy id).serving ⟨0, 0, 0⟩ = false ∧
      (engineForm i).isSome = true ∧ ∃ u, exec i t = .next u) ∧
    (∃ (t : State) (i : Instr), (waitingCpy fun w => { w with svc := some 1 }).fetchAt ⟨0, 0, 0⟩ = some (t, i) ∧
      (engineForm i).isSome = true ∧ (waitingCpy fun w => { w with svc := some 1 }).serving ⟨0, 0, 0⟩ = true) ∧
    ((R3.core 0 0).engines[0]? = some received ∧ R3.mayRun 0 0 received = true ∧ received.sub = 3 ∧ R3.homeLost received = false ∧
      R3.collEnds 0 received = none ∧ R3.collBytes 0 received = some (List.replicate 16 9) ∧
      ∃ u, R3.engineWrite 0 0 received (List.replicate 16 9) = (u, none)) ∧
    (Runs cpyZeros ∧ ∃ u ps, (E cpyZeros).enginePlaces 0 0 0 5 [] cpyZeros.dst 2 0 (List.replicate 16 0) = (u, .ok ps)) ∧
    (Runs cpyBytes ∧ ∃ t data, (E cpyBytes).engineRead 0 0 0 5 [] cpyBytes.src 2 0 16 = (t, .ok data) ∧
      ∃ u ps, t.enginePlaces 0 0 0 5 [] cpyBytes.dst 2 256 data = (u, .ok ps)) ∧
    (Runs gather ∧ ∃ t f, (E gather).gathIndices 0 0 gather = (t, .ok f) ∧
      (∀ j ∈ f.indices.getD [], f.rowFits j = true) ∧ ∃ u, (t.setEngine 0 0 f).gathRows 0 0 f 0 (f.indices.getD []) = (u, none)) ∧
    (Runs build ∧ build.fromScratch = true ∧ build.data = some (zeros 256) ∧ (zeros 256).length = build.bldSpread ∧
      ((E build).core 0 0).slices.wf = true ∧ ((E build).findTeam 0 build.team).isSome = true ∧ build.col0 + build.colCount ≤ 64 ∧ build.block0 + build.blockCount ≤ 128) ∧
    (Runs stale ∧ ∃ t, (E stale).runEngine 0 0 stale = (t, some (.fault 0x22))) ∧
    (Runs absent ∧ ∃ t g, (E absent).runEngine 0 0 absent = (t, some (.stall 0x26 g 6 0 3)) ∧
      (t.core 0 0).engines[0]? = some absent) ∧
    (Runs contribute ∧ contribute.sent = false ∧ (E contribute).homeLost contribute = false ∧
      (∃ t data, (E contribute).engineRead 0 0 0 5 [] contribute.src 2 0 16 = (t, .ok data) ∧
        contribute.homeModule ≠ t.module.toNat)) ∧
    (E contribute).dies[(0 : Fin 4)].collectives = [] ∧ (E contribute).dies[(0 : Fin 4)].waitingParts = [] ∧
    (E contribute).phase = .running ∧ (E contribute).joined = true := by
  refine ⟨?_, ?_, ⟨by decide +kernel, by decide +kernel, rfl, by decide +kernel, by decide +kernel, by decide +kernel, _,
      pair_of (by decide +kernel)⟩, ⟨by unfold Runs; decide +kernel, _, _, ok_of [(page4, List.replicate 16 0)] (by decide +kernel)⟩,
    ⟨by unfold Runs; decide +kernel, _, _, ok_of ([0, 0, 0, 0, 9] ++ zeros 11) (by decide +kernel), _, _,
      ok_of [(page4 + 256, [0, 0, 0, 0, 9] ++ zeros 11)] (by decide +kernel)⟩,
    ⟨by unfold Runs; decide +kernel, _, _, ok_of { gather with indices := some [0] } (by decide +kernel), by decide +kernel, _,
      pair_of (by decide +kernel)⟩,
    by unfold Runs; decide +kernel, ⟨by unfold Runs; decide +kernel, _, pair_of (by decide +kernel)⟩,
    ⟨by unfold Runs; decide +kernel, _, 3, pair_of (by decide +kernel), by decide +kernel⟩,
    ⟨by unfold Runs; decide +kernel, rfl, by decide +kernel, _, _, ok_of ([0, 0, 0, 0, 9] ++ zeros 11) (by decide +kernel),
      by decide +kernel⟩, rfl, rfl, rfl, rfl⟩
  · obtain ⟨t, h1, h2⟩ := fetch_of (o := (waitingCpy id).fetchAt ⟨0, 0, 0⟩) (.cpy 1 8 0 1 false) (by decide +kernel)
    exact ⟨t, _, h1, rfl, rfl, h2⟩
  · obtain ⟨t, h1, -⟩ := fetch_of (o := (waitingCpy fun w => { w with svc := some 1 }).fetchAt ⟨0, 0, 0⟩) (.cpy 1 8 0 1 false)
      (by decide +kernel)
    exact ⟨t, _, h1, rfl, rfl⟩

/-! ### The module and the memory system -/

/-- An image of 12 rows of three quads a die, version `v`. -/
def flashOf (v : Nat) : FlashImage :=
  ⟨v, true, true, true, Vector.replicate 4 ((List.range 12).map fun r => 13 * r + 12),
    Vector.replicate 4 ((List.range 12).map fun r => (List.range 3).map fun q =>
      ((13 * r + 4 * q, 13 * r + 4 * q + 1), (13 * r + 4 * q + 2, 13 * r + 4 * q + 3))).flatten, Vector.replicate 4 []⟩

def flash2 (a b : Option FlashImage) : State := { State.reset with flash := #v[a, b] }

theorem images_fit : bootCode 0 (some (flashOf 5)) = 0 ∧ bootCode 5 (some (flashOf 5)) = 0 ∧ bootCode 6 (some (flashOf 5)) = 3 := by
  decide +kernel

theorem witness_ModuleSteps :
    ((flash2 (some (flashOf 5)) none).flash[(0 : Fin 2)] = some (flashOf 5) ∧ (flash2 (some (flashOf 5)) none).minver = 0 ∧
      (flash2 (some (flashOf 5)) none).flash[(1 : Fin 2)] = none ∧ (flashOf 5).version < 2 ^ 16) ∧
    (ComesFirst (flash2 none none).flash 0 ∧ ∀ k : Fin 2, bootCode (flash2 none none).minver.toNat (flash2 none none).flash[k] ≠ 0) ∧
    ((1 : Nat) ≤ 1 ∧ (7 : Nat) ≤ 7) ∧ (S.phase = .running ∧ State.reset.phase ≠ .running) ∧ (([(3, 0), (4, 1)] : List (Nat × Nat)).map Prod.fst).Nodup ∧
    (cmd 0 [0, 0, 16] fun e => { e with waiting := some (2 ^ 23 + 3 * 2 ^ 10) }).waiting = some (2 ^ 23 + 3 * 2 ^ 10) ∧
    (2 ^ 23 + 3 * 2 ^ 10) / 2 ^ 10 % 2 ^ 13 = 3 ∧
    ({ State.reset with config := some (flashOf 5) }).config = some (flashOf 5) ∧ 0 ∈ quadCores (flashOf 5) 0 0 := by
  refine ⟨⟨rfl, rfl, rfl, by decide⟩, ⟨Or.inr ⟨rfl, ?_⟩, ?_⟩, by decide, ⟨rfl, by decide⟩, by decide, rfl, by decide, rfl,
    by decide +kernel⟩
  · intro k g h
    have hk : k = 0 ∨ k = 1 := by omega
    rcases hk with rfl | rfl <;> cases h
  · intro k
    have hk : k = 0 ∨ k = 1 := by omega
    rcases hk with rfl | rfl <;> decide

/-- Object 4 mapped in a machine of one core. -/
def V (bs : List Byte) (k : State → State := id) : State := S (k := fun s => k (mapped bs (core0 id s)))

/-- A dirty sector of that page in the L1. -/
def dirtySector : L1Sector := ⟨1, 4, 0, 1, page4, zeros 256, true⟩

/-- Bank 0 with its slice 0 full, or with one entry that a line points at. -/
def fullSlice (n : Nat) (s : State) : State :=
  s.setDie 0 { s.dies[0] with l2 := { L2.empty with entries := List.replicate n ⟨0, 0, [], 1, false⟩ } }
def oneEntry (poison : Bool) (s : State) : State :=
  s.setDie 0 { s.dies[0] with l2 := { L2.empty with
    tags := [⟨0, 1, Vector.replicate 4 (.data 7), Vector.replicate 4 true⟩], entries := [⟨0, 7, zeros 256, 4, poison⟩] } }

/-- Object 4 a stream of one slot, with HEAD 1 and TAIL 2 and that KIND, attached or not. -/
def ring4 (kind : Nat) (attached : Nat) : State :=
  V (block 2 1 (cfg kind 1 + attached * 2 ^ 44)) fun s => s.setCtx 0 { s.ctx 0 with streams := [4] }

/-- The hub holds one version, of one sector, poisoned or not. -/
def hubVersion (bad : Bool) : State :=
  V [] fun s => { s with lp6 := [⟨page4, 1, 1, 0, #v[some (zeros 256), none, none, none], Vector.replicate 4 1, Vector.replicate 4 bad⟩] }

theorem reserve_full (n : Nat) : (V [] (fullSlice n)).reserveLow 0 0 = decide (16384 < n + 256) := by
  have h : ({ L2.empty with entries := List.replicate n ⟨0, 0, [], 1, false⟩ } : L2).used 0 = n := by
    simp [L2.used, L2.empty]
  show decide (16384 < ({ L2.empty with entries := List.replicate n ⟨0, 0, [], 1, false⟩ } : L2).used 0 + 256) = _
  rw [h]

theorem noStreams (c : Nat) : ((V []).ctx c).streams = [] := by
  have h : ∀ c : Fin 64, ((V []).ctx c.val).streams = [] := by decide +kernel
  by_cases hc : c < 64
  · exact h ⟨c, hc⟩
  · simp [State.ctx, hc, Context.none]

/-- A store to the leaf of object 4 that says its page moves. -/
def moveLeaf : BusOp := .store (leBytes 8 ((lp6 / 65536 + 16) * 2 ^ 32 + 2 ^ 61))

/-- A walk that gives no page. -/
theorem noWalk {s : State} {ctx obj off : Nat} (h : (match s.walk ctx obj off with | .ok _ _ _ => true | _ => false) = false) :
    ∀ (p : Nat) (f : Entry) (m : Leaf), s.walk ctx obj off ≠ .ok p f m := by
  intro p f m e; rw [e] at h; cases h

theorem witness_MemorySteps :
    (∀ (p : Nat) (f : Entry) (m : Leaf), (V []).walk 0 6 0 ≠ .ok p f m) ∧
    (QuietHome (V []) (lp6 + 0x1000) ∧ busSpan moveLeaf ≠ 0 ∧ ∃ l : Leaf, l ∈ (V []).movingAt (lp6 + 0x1000) (busSpan moveLeaf) ++
      ((V []).busAccess (lp6 + 0x1000) moveLeaf).movingAt (lp6 + 0x1000) (busSpan moveLeaf)) ∧
    (QuietHome { V [] with phase := .reset } page4 ∧ ({ V [] with phase := .reset } : State).phase ≠ .running) ∧
    ((V []).movingAt (page4 + 192) 64 = [] ∧ ((V []).busAccess (page4 + 192) (.store (zeros 64))).movingAt (page4 + 192) 64 = []) ∧
    ((cap4 15).getLsbD 109 = true ∧ (cap4 15).getLsbD 104 = true ∧ 0 < ((cap4 15).extractLsb' 64 40).toNat ∧
      remoteObj (capObj (cap4 15)) = false ∧ capTent (cap4 15) = false ∧ ((V []).core 0 0).otb = [] ∧ QuietHome (V []) page4 ∧
      ∃ e l, (V []).walk 0 (capObj (cap4 15)) (capBase (cap4 15) + 0) = .ok page4 e l ∧
        (e.cgen == capGen (cap4 15) && !e.alias_ && e.mgen == 3) = true) ∧
    (((V [] (core0 fun c => { c with l1 := [dirtySector] })).core 0 0).l1[0]? = some dirtySector ∧ dirtySector.dirty = true ∧ dirtySector.pa % 256 = 0 ∧ dirtySector.data.length = 256 ∧ homeOf dirtySector.pa = some .lp6) ∧
    (QuietHome (V []) (page4 + 192) ∧ (page4 + 192) % 64 + 64 ≤ 64 ∧ (page4 + 192) % 256 + 64 ≤ 256 ∧ (V []).phase = .running ∧
      ∀ c : Nat, ((V []).ctx c).streams = []) ∧
    (atomNew .cas 32 ((V []).peekNat page4 4) 1 0 = some 1 ∧ atomNew .cas 32 ((V []).peekNat page4 4) 1 2 = none) ∧
    ((ring4 2 0).blockAt page4 = some page4 ∧ page4 % 64 = 0 ∧ QuietHome (ring4 2 0) page4 ∧
      bitsOf ((ring4 2 0).peekNat (page4 + 24) 8) 44 1 = 0 ∧ bitsOf ((ring4 2 0).peekNat (page4 + 24) 8) 41 2 ≠ 0 ∧
      (ring4 2 0).peekNat page4 8 = 2 ∧ 3 ≤ (ring4 2 0).peekNat (page4 + 8) 8 + 2 ^ bitsOf ((ring4 2 0).peekNat (page4 + 24) 8) 36 5) ∧
    ((ring4 0 1).blockAt page4 = some page4 ∧ bitsOf ((ring4 0 1).peekNat (page4 + 24) 8) 44 1 = 1 ∧
      bitsOf ((ring4 0 1).peekNat (page4 + 24) 8) 41 2 = 0) ∧
    ((V [] fun s => { s with joined := true }).joined = true ∧ QuietHome (V [] fun s => { s with joined := true }) page4 ∧
      ∃ e l, (V [] fun s => { s with joined := true }).walk 0 (4 % 1024) 0 = .ok page4 e l ∧ (e.cgen == 1) = true) ∧
    ((V [] (fullSlice 16384)).reserveLow 0 0 = true ∧ ((V [] (fullSlice 16384)).dies[(0 : Fin 4)]).l2.tags = [] ∧ (V []).reserveLow 0 0 = false) ∧
    ((V [] (oneEntry false)).dies[(0 : Fin 4)].l2.content 0 (.data 7) = some (zeros 256, false) ∧
      (V [] (oneEntry true)).dies[(0 : Fin 4)].l2.content 0 (.data 7) = some (zeros 256, true) ∧ (7 : Nat) < 16384 ∧
      (V []).dies[(0 : Fin 4)].l2.content 23 .zero = some (zeros 256, false)) ∧
    (homeOf page4 = some .lp6 ∧ (hubVersion false).lp6.length = 1 ∧ ((hubVersion false).versionOf 1 0 page4).isSome = true ∧
      (∀ v ∈ (hubVersion false).lp6, ∀ k : Fin 4, v.data[k] ≠ none → k = sectorOf page4) ∧
      (hubVersion false).versionBad 1 0 page4 = false ∧ (hubVersion true).versionBad 1 0 page4 = true) := by
  refine ⟨noWalk (by decide +kernel), ⟨quiet4 (by decide +kernel), by decide, List.exists_mem_of_ne_nil _ (by decide +kernel)⟩,
    ⟨quiet4 (by decide +kernel), nofun⟩, by decide +kernel,
    ⟨by decide, by decide, by decide, by decide, by decide, rfl, quiet4 (by decide +kernel), walk_of (by decide +kernel)⟩,
    by decide +kernel, ⟨quiet4 (by decide +kernel), by decide, by decide, rfl, noStreams⟩,
    by decide +kernel, ⟨by decide +kernel, by decide, quiet4 (by decide +kernel), by decide +kernel, by decide +kernel,
      by decide +kernel, by decide +kernel⟩, by decide +kernel,
    ⟨rfl, quiet4 (by decide +kernel), walk_of (by decide +kernel)⟩, ⟨?_, rfl, by decide +kernel⟩, by decide +kernel, by decide +kernel⟩
  rw [reserve_full]; decide

/-! ### What writes elsewhere leave -/

/-- In the sectors of some addresses two states read alike. -/
def Alike (s s' : State) (far : Nat → Prop) : Prop := ∀ a : Nat, far a → s'.peekSector a = s.peekSector a

/-- Bytes there read alike. -/
theorem peekBytes_steady {s s' : State} {far : Nat → Prop} (h : Alike s s' far) :
    ∀ (n a : Nat), (∀ b < n, far (a + b)) → s'.peekBytes a n = s.peekBytes a n
  | 0, _, _ => rfl
  | n + 1, a, hb => by
    have h0 : s'.peek a = s.peek a := by simp only [State.peek, h a (hb 0 (by omega))]
    have h1 : s'.peekBytes (a + 1) n = s.peekBytes (a + 1) n :=
      peekBytes_steady h n (a + 1) fun b hlt => by have := hb (b + 1) (by omega); rwa [Nat.add_comm b 1, ← Nat.add_assoc] at this
    show s'.peek a :: _ = s.peek a :: _
    rw [h0, h1]

/-- They can be read alike. -/
theorem readFault_steady {s s' : State} {far : Nat → Prop} {a n : Nat} (h : Alike s s' far) (h0 : far a) (h1 : far (a + n - 1)) :
    s'.readFault a n = s.readFault a n := by
  simp only [State.readFault, h a h0, h _ h1]

/-- A table entry there is found alike. -/
theorem entry_steady {s s' : State} {far : Nat → Prop} {ctx obj : Nat} (hc : s'.contexts = s.contexts) (h : Alike s s' far)
    (ht : ∀ b < 32, far (s.entryPa ctx obj + b)) :
    s'.entry ctx obj = s.entry ctx obj ∧ s'.entryFault ctx obj = s.entryFault ctx obj := by
  have e : s'.ctx ctx = s.ctx ctx := by simp only [State.ctx, hc]
  have p : s'.entryPa ctx obj = s.entryPa ctx obj := by simp only [State.entryPa, e]
  have i : s'.inTable ctx obj = s.inTable ctx obj := by simp only [State.inTable, e]
  have f : s'.readFault (s.entryPa ctx obj) 32 = s.readFault (s.entryPa ctx obj) 32 :=
    readFault_steady h (ht 0 (by omega)) (ht 31 (by omega))
  constructor
  · simp only [State.entry, i, p, f, peekBytes_steady h 32 _ ht]
  · simp only [State.entryFault, i, p, f]

theorem length_withNeighbours : ∀ (o : Option Leaf) (ls : List Leaf), (withNeighbours o ls).length = ls.length
  | _, [] => rfl
  | _, l :: ls => congrArg Nat.succ (length_withNeighbours (some l) ls)

/-- So is a page of an object whose table entry and leaves lie there. -/
theorem walk_steady {s s' : State} {far : Nat → Prop} {ctx obj off : Nat} {e : Entry} (hc : s'.contexts = s.contexts)
    (hf : s'.free = s.free) (hp : Alike s s' far) (he : s.entry ctx obj = some e) (ht : ∀ b < 32, far (s.entryPa ctx obj + b))
    (hl : ∀ i < e.nleaf, ∀ b < 16, far (e.leafPa + 16 * i + b)) : s'.objectPa ctx obj off = s.objectPa ctx obj off := by
  have h1 := entry_steady (obj := obj) hc hp ht
  have h2 : s'.leaves e = s.leaves e := by
    simp only [State.leaves]
    exact List.map_congr_left fun i hi => by rw [peekBytes_steady hp 16 _ fun b hb => hl i (List.mem_range.mp hi) b hb]
  have h4 : s'.leafFaults e (s.leaves e) (off / 65536) = s.leafFaults e (s.leaves e) (off / 65536) := by
    simp only [State.leafFaults]
    have fm : ∀ {α β : Type} (f g : α → Option β) (l : List α), (∀ x ∈ l, f x = g x) → l.filterMap f = l.filterMap g := by
      intro α β f g l h
      induction l with
      | nil => rfl
      | cons x l ih => simp only [List.filterMap_cons, h x List.mem_cons_self, ih fun y hy => h y (List.mem_cons_of_mem x hy)]
    refine fm _ _ _ fun p hm => ?_
    have hi : p.2 < e.nleaf := by
      have hn : (withNeighbours none (s.leaves e)).length = e.nleaf := by
        rw [length_withNeighbours]; simp [State.leaves]
      have := List.snd_lt_of_mem_zipIdx hm
      omega
    have f : s'.readFault (e.leafPa + 16 * p.2) 16 = s.readFault (e.leafPa + 16 * p.2) 16 :=
      readFault_steady hp (hl _ hi 0 (by omega)) (hl _ hi 15 (by omega))
    rw [f]
  have h5 : s'.walkLeaves e off = s.walkLeaves e off := by simp only [State.walkLeaves, h2, h4, State.judge, hf]
  have h3 : s'.walk ctx obj off = s.walk ctx obj off := by
    simp only [State.walk, h1.1, h1.2, he]
    cases s.entryFault ctx obj <;> simp only [h5]
  simp only [State.objectPa, h3]

/-- Out of the sector of one address. -/
theorem objectPa_steady {s : State} {pa ctx obj off slot : Nat} {e : Entry} (he : s.entry ctx obj = some e)
    (ht : (List.range 32).all (fun b => (s.entryPa ctx obj + b) / 256 != pa / 256) = true)
    (hl : (List.range e.nleaf).all (fun i => (List.range 16).all fun b => (e.leafPa + 16 * i + b) / 256 != pa / 256) = true)
    (hv : s.objectPa ctx obj off = some slot) : Steady s pa (fun s' => s'.objectPa ctx obj off) slot := by
  intro s' hc hf hp
  simp only [List.all_eq_true, List.mem_range, bne_iff_ne, ne_eq] at ht hl
  exact (walk_steady (far := fun a => a / 256 ≠ pa / 256) hc hf hp he ht hl).trans hv

/-- A translation with its offset in the page. -/
def shift (off : Nat) : Trans → Trans
  | .ok pa e l => .ok (pa + off) e l
  | .retired => .retired
  | .notPresent g => .notPresent g
  | .migrating g => .migrating g
  | .failed c => .failed c

theorem judgeLeaf_shift (e : Entry) (b : Option Leaf) (l : Leaf) (a : Option Leaf) {off : Nat} (h : off < 65536) :
    judgeLeaf e b l a off = shift off (judgeLeaf e b l a 0) := by
  unfold judgeLeaf
  have h0 : off / 65536 = 0 := by omega
  have h1 : off % 65536 = off := by omega
  rw [h0, h1]
  split
  · rfl
  · split
    · rfl
    · split
      · exact congrArg (Trans.ok · e l) (by omega)
      · rfl

theorem judge_shift (s : State) (e : Entry) (ls : List Leaf) {off : Nat} (h : off < 65536) :
    s.judge e ls off = shift off (s.judge e ls 0) := by
  have h0 : off / 65536 = 0 := by omega
  have hm : ∀ xs : List (Option Leaf × Leaf × Option Leaf), xs.map (fun t => judgeLeaf e t.1 t.2.1 t.2.2 off) =
      (xs.map fun t => judgeLeaf e t.1 t.2.1 t.2.2 0).map (shift off) := by
    intro xs; rw [List.map_map]; exact List.map_congr_left fun t _ => judgeLeaf_shift e t.1 t.2.1 t.2.2 h
  simp only [State.judge, h0, hm, Nat.zero_div]
  generalize ((withNeighbours none ls).filter fun t => t.2.1.covers 0).map (fun t => judgeLeaf e t.1 t.2.1 t.2.2 0) = cov
  have hd : ∀ (xs : List Trans) (d : Trans), shift off d = d → (xs.map (shift off)).headD d = shift off (xs.headD d) := by
    intro xs d hd; cases xs <;> simp [hd]
  split
  · exact hd cov _ rfl
  · rw [List.isEmpty_map]
    have hg : ∀ (xs : List Trans) (n : Nat), (xs.map (shift off)).getD n (.failed 0x29) = shift off (xs.getD n (.failed 0x29)) := by
      intro xs n
      simp only [List.getD_eq_getElem?_getD, List.getElem?_map]
      cases xs[n]? <;> rfl
    split
    · exact hg (.failed 0x29 :: cov) _ |> fun q => by simpa [shift] using q
    · exact hg (.failed 0x29 :: .notPresent e.mgen :: .migrating e.mgen :: cov) _ |> fun q => by simpa [shift] using q

/-- The bytes of a page follow each other. -/
theorem objectPa_shift (s : State) (ctx obj : Nat) {off : Nat} (h : off < 65536) :
    s.objectPa ctx obj off = (s.objectPa ctx obj 0).map (· + off) := by
  have h0 : off / 65536 = 0 := by omega
  have hw : s.walk ctx obj off = shift off (s.walk ctx obj 0) := by
    simp only [State.walk]
    split
    · rfl
    · rfl
    · simp only [State.walkLeaves, h0, judge_shift s _ _ h, Nat.zero_div]
      split
      · rfl
      · split
        · rfl
        · split <;> rfl
  simp only [State.objectPa, hw]
  cases s.walk ctx obj 0 <;> rfl

/-- The first page of an object in the LP6 tier, apart from its entry and its leaves. -/
theorem backed {s : State} {ctx obj n pa : Nat} {e : Entry} (he : s.entry ctx obj = some e) (hn : n ≤ 65536)
    (ht : (List.range 32).all (fun b => decide (s.entryPa ctx obj + b < pa)) = true)
    (hl : (List.range e.nleaf).all (fun i => (List.range 16).all fun b => decide (e.leafPa + 16 * i + b < pa)) = true)
    (hp : pa % 256 = 0) (ha : 0x10000000000 ≤ pa ∧ pa + 65536 ≤ 0x30000000000) (hv : s.objectPa ctx obj 0 = some pa) :
    Backed s ctx obj n (fun o => pa + o) := by
  simp only [List.all_eq_true, List.mem_range, decide_eq_true_eq] at ht hl
  intro o ho
  have far : ∀ a : Nat, a < pa → ∀ b : Nat, (∃ c < n, b = pa + c) → a / 256 ≠ b / 256 := by
    rintro a hlt b ⟨c, _, rfl⟩; omega
  refine ⟨fun s' hc hf hs => ?_, ?_, (show (pa + o) % 256 = o % 256 by omega), fun b hb =>
    (show (pa + b) / 256 = (pa + o) / 256 ↔ b / 256 = o / 256 by omega)⟩
  · have h0 := walk_steady (far := fun a => ∀ b : Nat, (∃ c < n, b = pa + c) → a / 256 ≠ b / 256) (off := 0) hc hf hs he
      (fun b hb => far _ (ht b hb)) (fun i hi b hb => far _ (hl i hi b hb))
    show s'.objectPa ctx obj o = some (pa + o)
    rw [objectPa_shift s' ctx obj (by omega), h0, hv]; rfl
  · show homeOf (pa + o) = some .lp6
    unfold homeOf
    rw [if_neg (by unfold dieBytes; omega), if_pos (by omega)]

/-! ### Steps of waves -/

/-- A wave with no live split. -/
def done0 (w : Wave) : Wave := { w with splits := Vector.replicate 4 none }
/-- A team with a second wave, running or retired, and with a completion stream. -/
def beside (st : WaveStatus) (t : Team) : Team := { t with waves := t.waves ++ [{ wave done0 id with status := st, number := 1 }] }
def completes (t : Team) : Team :=
  { t with record := zeros 24 ++ [4] ++ zeros 103, events := t.events.set 0 (some ⟨0, 0, Vector.replicate 12 0⟩) }

/-- The first wave of a state of one team. -/
theorem waveAt_of (f : Wave → Wave) (g : Split → Split) (h : Team → Team) (k : State → State)
    (e : (S f g h k).waveAt ⟨0, 0, 0⟩ = some (team f g h, wave f g)) : (S f g h k).waveAt ⟨0, 0, 0⟩ = some (team f g h, wave f g) := e

theorem written_of {s : State} {t : Team} {w : Wave} (h : s.cores = []) : WaveWritten s t w := by
  intro c hc; rw [h] at hc; cases hc

/-- A launch of the context in the queue, with serial 9. -/
def launch9 : Launch :=
  ⟨0, 0, zeros 128, [], 0, Vector.replicate 4 none, none, [], 0, 0, 0, 0, Vector.replicate 4 0, none, some 9, 0, none⟩
def queued9 (s : State) : State := s.setDie 0 { s.dies[0] with queue := [launch9] }

/-- That team off its cores, swapped out for the debugger or queued to be placed again, with a command that waits for object 6. -/
def away : SavedTeam := ⟨team parkedOn id id, [], [], [(0, { eng with waiting := some 6 })]⟩
def awayIn (s : State) : State :=
  (s.setDie 0 { s.dies[0] with queue := [{ launch9 with restored := some away }] }).setCtx 0
    { s.ctx 0 with dbg := { Debug.zero with swapped := some away } }

/-- A released quorum kills team 0; a team waits to be placed again, and one that has been killed. -/
def killsTeam (s : State) : State := s.setDie 0 { s.dies[0] with quorums := [{ bound0 with killing := [(0, 0, 0)] }] }
def queuedAway (s : State) : State := s.setDie 0 { s.dies[0] with queue := [{ launch9 with restored := some away }] }
def killedAway : State :=
  S (k := fun s => s.setDie 0 { s.dies[0] with queue := [{ launch9 with
    restored := some ⟨team (fun w => w) id fun t => { t with killed := true, serial := 9 }, [], [], []⟩ }] })

theorem witness_WaveSteps :
    (((S (k := awayIn)).ctx 0).dbg.swapped = some away ∧ ((S (k := awayIn)).ctx 0).state ≠ .saved ∧
      ((S (k := awayIn)).ctx 0).state ≠ .restoring ∧ ((S (k := fun s => s.setCtx 0 { s.ctx 0 with state := .restoring })).ctx 0).state = .restoring ∧
      ((S (k := awayIn)).dies[(0 : Fin 4)]).queue[0]? = some { launch9 with restored := some away } ∧
      away.team.waves[0]? = some (wave parkedOn id)) ∧
    ((wave (handler ∘ joiner 8) (stands .parked)).splits[(0 : Fin 4)] = some (stands .parked (Split.launched 0 0xFFFFFFFF)) ∧
      ∀ (k : Fin 4), ((wave (handler ∘ joiner 8) (stands .parked)).splits[k]).all
        (fun o => o.status == .parked || o.status == .atJoin) = true) ∧
    ((S (fun w => { w with marker := true })).waveAt ⟨0, 0, 0⟩ =
        some (team (fun w => { w with marker := true }) id id, wave (fun w => { w with marker := true }) id) ∧
      (wave (fun w => { w with marker := true }) id).marker = true ∧
      WaveWritten (S (fun w => { w with marker := true })) (team (fun w => { w with marker := true }) id id)
        (wave (fun w => { w with marker := true }) id) ∧ S.waveAt ⟨0, 0, 0⟩ = some (team id id id, wave id id) ∧
      (wave id id).status = .running ∧ (wave id id).marker = false) ∧
    ((S handler (stands .trapped)).waveAt ⟨0, 0, 0⟩ = some (team handler (stands .trapped) id, wave handler (stands .trapped)) ∧
      (wave handler (stands .trapped)).svc = none ∧ (wave handler (stands .trapped)).park = none ∧
      (wave handler (stands .trapped)).yielded = false ∧ (wave handler (stands .trapped)).cc.p = false ∧
      WaveWritten (S handler (stands .trapped)) (team handler (stands .trapped) id) (wave handler (stands .trapped)) ∧
      (wave handler (stands .trapped)).tvecObj ≠ 0 ∧
      (wave handler (stands .trapped)).splits[(0 : Fin 4)] = some (stands .trapped (Split.launched 0 0xFFFFFFFF)) ∧
      (wave handler (stands .parked)).splits[(0 : Fin 4)] = some (stands .parked (Split.launched 0 0xFFFFFFFF)) ∧
      ∀ k : Fin 4, k ≠ 0 → (wave handler (stands .parked)).splits[k] = none) ∧
    ((S done0 id (beside .running)).waveAt ⟨0, 0, 0⟩ = some (team done0 id (beside .running), wave done0 id) ∧
      Finished (S done0 id (beside .running)) (team done0 id (beside .running)) (wave done0 id) ∧
      (S done0 id (beside .running)).findTeam 0 0 = some (0, team done0 id (beside .running)) ∧
      (S done0 id (beside .running)).barriers = [] ∧ (team done0 id (beside .running)).waves[1]?.any (fun o => o.status == .running)) ∧
    ((S done0 id (completes ∘ beside .retired)).waveAt ⟨0, 0, 0⟩ = some (team done0 id (completes ∘ beside .retired), wave done0 id) ∧
      Finished (S done0 id (completes ∘ beside .retired)) (team done0 id (completes ∘ beside .retired)) (wave done0 id) ∧
      (S done0 id (completes ∘ beside .retired)).findTeam 0 0 = some (0, team done0 id (completes ∘ beside .retired)) ∧
      ((team done0 id (completes ∘ beside .retired)).waves.drop 1).all (fun o => o.status != .running && o.stores.isEmpty) = true ∧
      (team done0 id (completes ∘ beside .retired)).member = none ∧ (team done0 id (completes ∘ beside .retired)).held = [] ∧
      (team done0 id (completes ∘ beside .retired)).halt = .none ∧ (team done0 id (completes ∘ beside .retired)).killed = false ∧
      (team done0 id (completes ∘ beside .retired)).waves.all (fun o => !o.traceobj.getLsbD 31) = true ∧
      bytesNat (team done0 id (completes ∘ beside .retired)).record 24 3 = 4 ∧ bytesNat (team done0 id (beside .retired)).record 24 3 = 0 ∧
      (team done0 id (completes ∘ beside .retired)).events[(0 : Fin 4)] = some ⟨0, 0, Vector.replicate 12 0⟩) ∧
    (((S (k := fun s => s.setCtx 0 { s.ctx 0 with state := .saved })).ctx 0).state = .saved ∧
      (S parkedOn).phase = .running ∧ ((S parkedOn).ctx 0).state ≠ .saved ∧ (S parkedOn).teams[0]? = some (team parkedOn id id) ∧
      (team parkedOn id id).waves[0]? = some (wave parkedOn id) ∧ (wave parkedOn id).park = some (.replayable 0 1 (6 : BitVec 24).toNat)) ∧
    (S.findTeam 0 0 = some (0, team id id id) ∧ (team id id id).waves.all (fun w => !w.stopsNow) = true ∧
      (team id id id).ctx = 0 ∧ (team id id id).killed = false ∧ S.awayTeams = []) ∧
    ((S (k := killsTeam)).findTeam 0 0 = some (0, team id id id) ∧ (S (k := killsTeam)).awayTeams = [] ∧
      ∃ q ∈ (S (k := killsTeam)).dies[(0 : Fin 4)].quorums, q.ctx = 0 ∧ (0, (0 : Fin 4).val, (0 : W32)) ∈ q.killing) ∧
    ((S (k := queuedAway)).findTeam 0 9 = none ∧
      ((S (k := queuedAway)).dies[(0 : Fin 4)]).launchOf 9 = some { launch9 with restored := some away } ∧
      (S (k := queuedAway)).swapper 0 9 = none ∧ away.engines = [(0, { eng with waiting := some 6 })] ∧ (S (k := queuedAway)).barriers = []) ∧
    (killedAway.awayTeams = [team (fun w => w) id fun t => { t with killed := true, serial := 9 }]) ∧
    ((S (k := queued9)).findTeam 0 9 = none ∧ ((S (k := queued9)).dies[(0 : Fin 4)]).launchOf 9 = some launch9 ∧
      launch9.ctx = 0 ∧ launch9.member = none ∧ launch9.held = [] ∧ launch9.restored = none ∧ (S (k := queued9)).swapper 0 9 = none) ∧
    S.findTeam 0 5 = none ∧ (S.dies[(0 : Fin 4)]).launchOf 5 = none := by
  refine ⟨⟨rfl, by decide, by decide, rfl, rfl, rfl⟩, by decide, ⟨rfl, rfl, written_of rfl, rfl, rfl, rfl⟩,
    ⟨rfl, rfl, rfl, rfl, rfl, written_of rfl, by decide, rfl, rfl, by decide⟩,
    ⟨rfl, ⟨rfl, rfl, rfl, written_of rfl, fun _ h => nomatch h⟩, by decide, rfl, by decide⟩,
    ⟨rfl, ⟨rfl, rfl, rfl, written_of rfl, fun _ h => nomatch h⟩, by decide, by decide, rfl, rfl, rfl, rfl, by decide, by decide,
      by decide, rfl⟩,
    ⟨rfl, rfl, by decide, rfl, rfl, rfl⟩, ⟨by decide, by decide, rfl, rfl, by decide +kernel⟩,
    ⟨rfl, by decide +kernel, _, List.mem_cons_self, by decide⟩, ⟨by decide, by decide, by decide +kernel, rfl, rfl⟩, by decide +kernel,
    by decide +kernel, by decide⟩

/-! ### Steps of contexts -/

/-- The header of an image of context 0 that answers the first save. -/
def header1 : List Byte := leBytes 4 0x43475843 ++ leBytes 2 1 ++ [0, 0] ++ leBytes 8 1 ++ zeros 48
def image1 : SavedImage := ⟨1, header1, [], [], [], [], [], [], [], [], [], [], []⟩

/-- Context 0 in a phase of a save, its image object 4 (whose page is there), 6 (whose page is not) or 0; its image saved. -/
def saving (st : CtxState) (obj : BitVec 24) (img : Option SavedImage) (bs : List Byte) (s : State) : State :=
  let t := mapped bs s
  t.setCtx 0 { t.ctx 0 with state := st, imgObj := obj, saveCtr := 1, saved := img }

/-- A wave asked to yield whose time is up. -/
def due (w : Wave) : Wave := { w with cc := { w.cc with p := true } }
def yields (w : Wave) : Wave := { due w with yielded := true }

/-- Nobody waits in a wave whose splits and handler do not. -/
theorem no_wait {w : Wave} (h0 : w.svcWait = none)
    (h : ∀ j : Fin 4, (w.splits[j]).all (fun sp => match sp.status with | .waiting _ => false | _ => true) = true) :
    ∀ (j : Fin 4) (k : Wait), ¬ WaitsFor w j k := by
  intro j k hw
  unfold WaitsFor at hw
  split at hw
  · rw [h0] at hw; cases hw
  · obtain ⟨sp, h1, h2⟩ := hw
    have := h j
    rw [h1] at this
    simp only [Option.all_some, h2] at this
    cases this

/-- An image of 300 bytes. -/
def long (s : State) : State := s.setCtx 0 { s.ctx 0 with imgLen := 300 }

/-- An image with more versions of LP6 lines than the hub has tags. -/
def tooMany : SavedImage :=
  { image1 with versions := List.replicate 1025 (none, ⟨page4, 1, 1, 0, Vector.replicate 4 none, Vector.replicate 4 0, Vector.replicate 4 false⟩) }

/-- Two bytes of text, and a kernel of one entry. -/
def codeImage : CodeImage := { text := [0, 0], relocs := [], pairs := [], kernels := [], objects := [], automata := [], leafPa := 0, page := 16 }

/-- A context of a table of 16 entries, everything else left to its default. -/
def spec16 : CtxSpec :=
  { tableBase := lp6, tableLen := 16, consts := [], service := 0, tvecObj := 0, tvecEntry := 0, pdead := none, allowT := none
    debuggable := false, trace := 0, dump := 0, logn := none, home := none, rights := none, leafPa := lp6 + 0x1000, page := 0 }

/-- A stream of two slots in the LP6 tier; the code object that declares it; a context whose table has only its first two entries. -/
def streamObj : ObjDecl :=
  ⟨192, false, false, false, false, true, 0, lp6 + 0x3000, lp6 / 65536 + 32, [], some ⟨1, 0, 1, false, []⟩⟩
def codeStream : CodeImage := { codeImage with objects := [streamObj] }
def noRoom (s : State) : State :=
  let t := mapped [] s
  t.setCtx 0 { t.ctx 0 with tableLen := 2 }

/-- No command is off its core where nothing of the context is. -/
theorem no_away {s : State} {c : Nat} (h1 : (s.ctx c).dbg.swapped = none) (h2 : (s.ctx c).saved = none)
    (h3 : ∀ d : Fin 4, s.dies[d].queue ++ s.dies[d].overflow = []) : ∀ e : EngineCmd, ¬ AwayCommand s c e := by
  rintro e (⟨x, h, -⟩ | ⟨d, l, x, h, -, -⟩ | ⟨i, h, -⟩)
  · rw [h1] at h; cases h
  · rw [h3 d] at h; cases h
  · rw [h2] at h; cases h

theorem fits : DeclFits streamObj := by
  refine ⟨fun t ht => ?_, fun a ha => ?_⟩
  · cases ht; decide
  · have h : homeOf (streamObj.page * 65536) = some .lp6 ∧ homeOf (streamObj.page * 65536 + (streamObj.size - 1)) = some .lp6 := by
      decide +kernel
    rcases ha with rfl | rfl
    · exact h.1
    · exact h.2

theorem free_ids : FreeIds (S (k := mapped [])) 0 [2, 3] := by
  refine ⟨by decide, by decide +kernel, ?_⟩
  rintro n h1 - ⟨i, h2, h3⟩
  simp only [List.mem_cons, List.not_mem_nil, or_false] at h2 ⊢
  omega

theorem witness_CodeLoads :
    (S (k := fun s => { mapped [] s with config := some (flashOf 5) })).config = some (flashOf 5) ∧
    relocAll (flashOf 5) 0 codeImage.text [(0, .imm10)] = none ∧
    (∀ ids : List Nat, FreeIds (S (k := noRoom)) 0 ids → ids.length < codeImage.objects.length + 1) ∧
    ¬ DeclFits { streamObj with size := 191 } ∧ ¬ DeclFits { streamObj with lp6 := false } ∧
    (FreeIds (S (k := mapped [])) 0 (2 :: [3]) ∧ [3].length = codeStream.objects.length ∧ codeStream.relocs = [] ∧ codeStream.pairs = [] ∧
      codeStream.automata = [] ∧ codeStream.kernels = [] ∧ (∀ o ∈ codeStream.objects, DeclFits o ∧ ∀ p ∈ o.data, p.2.2 = []) ∧
      (∀ a : Nat, a = codeStream.page * 65536 ∨ a = codeStream.page * 65536 + (codeStream.text.length - 1) → homeOf a = some (.die 0))) ∧
    ((S (k := mapped [])).phys.wf = true ∧ (S (k := mapped [])).cores = [] ∧ (∀ d : Fin 4, ((S (k := mapped [])).dies[d]).l2 = L2.empty) ∧
      ((S (k := mapped [])).ctx 0).tableBase = lp6 ∧ lp6 % 32 = 0 ∧ ((S (k := mapped [])).ctx 0).tableLen = 16 ∧
      (∀ a : Nat, lp6 ≤ a → a < lp6 + 32 * 16 → homeOf a = some .lp6 ∧
        ApartFrom a codeStream.page codeStream.text.length codeStream.leafPa ∧
        ∀ o ∈ codeStream.objects, ApartFrom a o.page o.size o.leafPa) ∧ streamObj.size < 2 ^ 40) := by
  refine ⟨rfl, by decide +kernel, ?_, ?_, ?_, ⟨free_ids, rfl, rfl, rfl, rfl, rfl, ?_, ?_⟩,
    ⟨by decide +kernel, rfl, by decide, by decide +kernel, by decide, by decide +kernel, ?_, by decide⟩⟩
  · intro ids h
    have ht : ((S (k := noRoom)).ctx 0).tableLen = 2 := by decide +kernel
    match ids, h with
    | [], _ => decide
    | i :: _, h => have := (h.2.1 i List.mem_cons_self); rw [ht] at this; omega
  · intro h
    have := (h.1 _ rfl).1
    revert this; decide
  · intro h
    have := h.2 _ (Or.inl rfl)
    revert this; decide +kernel
  · intro o ho
    obtain rfl := List.mem_singleton.mp ho
    exact ⟨fits, fun _ hp => nomatch hp⟩
  · rintro a (rfl | rfl) <;> decide +kernel
  · intro a h1 h2
    unfold lp6 at h1 h2
    refine ⟨?_, ?_, fun o ho => ?_⟩
    · unfold homeOf dieBytes; rw [if_neg (by omega), if_pos (by omega)]
    · unfold ApartFrom; simp only [codeStream, codeImage, List.length_cons, List.length_nil]; omega
    · obtain rfl := List.mem_singleton.mp ho
      unfold ApartFrom; simp only [streamObj, lp6]; omega

theorem witness_ContextSteps :
    (2 ^ 23 ≤ ({ spec16 with tableLen := 2 ^ 23 } : CtxSpec).tableLen ∧ 6 ≤ spec16.logn.getD 12 ∧ spec16.logn.getD 12 ≤ 20 ∧
      2 ≤ spec16.tableLen ∧ spec16.tableLen < 2 ^ 23) ∧
    (S.phase = .running ∧ ((S (k := saving .running 0 none [])).ctx 0).state = .running ∧
      ((S (k := saving .running 0 none [])).objectSize 0 (((S (k := saving .running 0 none [])).ctx 0).imgObj).toNat = 0) ∧
      ((S (k := saving .saving 0 none [])).ctx 0).state = .saving ∧ (S (k := saving .saving 0 none [])).teams[0]? = some (team id id id)) ∧
    ((S due id id (saving .saving 4 none [])).waveAt ⟨0, 0, 0⟩ = some (team due id id, wave due id) ∧
      ((S due id id (saving .saving 4 none [])).ctx (team due id id).ctx).state = .saving ∧ (wave due id).status = .running ∧
      (wave due id).cc.p = true ∧ (wave due id).left = 0 ∧ (wave due id).yielded = false ∧ (wave due id).park = none ∧
      (wave due id).svc = none ∧ (wave due id).splits = #v[some (Split.launched 0 0xFFFFFFFF), none, none, none] ∧
      (Split.launched 0 0xFFFFFFFF).status = .ready ∧ (∀ (j : Fin 4) (k : Wait), ¬ WaitsFor (wave due id) j k) ∧
      (S due id id (saving .saving 4 none [])).cores = []) ∧
    ((wave (due ∘ svc) id).svc = some 0 ∧ (wave (due ∘ svc) id).svcWait = none ∧ ∀ (j : Fin 4) (k : Wait), ¬ WaitsFor (wave (due ∘ svc) id) j k) ∧
    ((S yields id id (saving .saving 6 none [])).saveReady 0 = true ∧
      (S yields id id (saving .saving 6 none [])).objectPa 0 (((S yields id id (saving .saving 6 none [])).ctx 0).imgObj).toNat 0 = none) ∧
    ((S yields id id (saving .saving 4 none [])).saveReady 0 = true ∧
      (S yields id id (saving .saving 4 none [])).objectPa 0 (((S yields id id (saving .saving 4 none [])).ctx 0).imgObj).toNat 0 = some page4 ∧
      QuietHome (S yields id id (saving .saving 4 none [])) page4 ∧ ((S yields id id (saving .saving 4 none [])).ctx 0).imgLen ≤ 192 ∧
      ∀ d : Fin 4, ((S yields id id (saving .saving 4 none [])).dies[d]).quorums = []) ∧
    ((S yields id id (long ∘ saving .saving 4 none [])).saveReady 0 = true ∧
      ((S yields id id (long ∘ saving .saving 4 none [])).ctx 0).imgLen = 300 ∧
      Backed (S yields id id (long ∘ saving .saving 4 none [])) 0 4 (64 + 300) (fun o => page4 + o) ∧
      (S yields id id (long ∘ saving .saving 4 none [])).phys.wf = true ∧ (S yields id id (long ∘ saving .saving 4 none [])).cores = []) ∧
    (((S (k := saving .saved 4 (some image1) header1)).ctx 0).saved = some image1 ∧
      (S (k := saving .saved 4 (some image1) header1)).readObject 0 4 1 0 64 = some header1 ∧
      HeaderFits (S (k := saving .saved 4 (some image1) header1)) 0 header1 ∧
      (S (k := saving .saved 4 (some image1) header1)).tagHolds 0 image1 = true ∧
      (S (k := saving .saved 4 (some image1) header1)).restoreFits 0 image1 = true ∧
      ((S (k := saving .saved 4 (some image1) header1)).ctx 0).state = .saved) ∧
    (((S (k := saving .saved 4 (some tooMany) header1)).ctx 0).saved = some tooMany ∧
      (S (k := saving .saved 4 (some tooMany) header1)).tagHolds 0 tooMany = true ∧
      (S (k := saving .saved 4 (some tooMany) header1)).restoreFits 0 tooMany = false) ∧
    (((S (k := saving .restoring 4 (some image1) header1)).ctx 0).state = .restoring ∧
      (S (k := saving .restoring 4 (some image1) header1)).restoreFits 0 image1 = true ∧
      ((S (k := saving .restoring 4 (some tooMany) header1)).ctx 0).state = .restoring ∧
      (S (k := saving .restoring 4 (some tooMany) header1)).restoreFits 0 tooMany = false) ∧
    ((S (k := saving .saved 4 (some image1) (zeros 64))).readObject 0 4 1 0 64 = some (zeros 64) ∧
      ¬ HeaderFits (S (k := saving .saved 4 (some image1) (zeros 64))) 0 (zeros 64)) ∧
    (S (k := saving .saved 4 (some { image1 with bytes := header1 ++ [1] }) header1)).tagHolds 0 { image1 with bytes := header1 ++ [1] } = false ∧
    ((S (k := mapped [])).ctx 0).state ≠ .none ∧ (S.ctx 0).state = .none ∧
    (S (k := fun s => { mapped [] s with config := some (flashOf 5) })).config = some (flashOf 5) ∧
    (relocated (flashOf 5) 0 3 = none ∧ codeImage.pairs = [] ∧ codeImage.relocs = [] ∧ (S (k := mapped [])).entry 0 2 = none ∧
      2 < ((S (k := mapped [])).ctx 0).tableLen) ∧
    (((S (k := mapped [])).ctx 0).shoot = [] ∧ (S (k := mapped [])).entry 0 (4 : BitVec 24).toNat ≠ none ∧
      ((S (k := mapped [])).ctx 0).tableBase % 32 = 0 ∧ QuietHome (S (k := mapped [])) ((S (k := mapped [])).entryPa 0 (4 : BitVec 24).toNat)) ∧
    (((S (k := shooting none)).ctx 0).shoot = [asked none] ∧ ({ asked none with raised := true }).result = none ∧
      (S.teams.all fun t => t.waves.all fun w => w.stores.isEmpty) = true ∧ S.cores = [] ∧
      (∀ d : Fin 4, ((S (k := shooting none)).dies[d]).records = []) ∧ ∀ e : EngineCmd, ¬ AwayCommand (S (k := shooting none)) 0 e) ∧
    (((S (storing none) (k := shooting none)).ctx 0).shoot = [asked none] ∧ (store4 none) ∈ (wave (storing none) id).stores ∧
      (store4 none).obj = (asked none).obj) := by
  refine ⟨by decide, ⟨rfl, rfl, by decide +kernel, rfl, rfl⟩, ⟨rfl, rfl, rfl, rfl, rfl, rfl, rfl, rfl, rfl, rfl, no_wait rfl (by decide), rfl⟩,
    ⟨rfl, rfl, no_wait rfl (by decide)⟩,
    ⟨by decide +kernel, by decide +kernel⟩, ⟨by decide +kernel, by decide +kernel, quiet4 (by decide +kernel), by decide +kernel, ?_⟩,
    ⟨by decide +kernel, by decide +kernel, backed (e := entry4) (by decide +kernel) (by decide) (by decide +kernel) (by decide +kernel)
      (by decide) (by decide) (by decide +kernel), by decide +kernel, rfl⟩,
    ⟨by decide +kernel, by decide +kernel, by unfold HeaderFits; decide +kernel, by decide +kernel, by decide +kernel, by decide +kernel⟩,
    ⟨by rfl, by decide +kernel, by decide +kernel⟩, ⟨by decide +kernel, by decide +kernel, by rfl, by decide +kernel⟩,
    ⟨by decide +kernel, by unfold HeaderFits; decide +kernel⟩, by decide +kernel, by decide +kernel, by decide +kernel, rfl,
    by decide +kernel, ⟨rfl, by decide +kernel, by decide +kernel, quiet4 (by decide +kernel)⟩,
    ⟨rfl, rfl, by decide +kernel, rfl, by decide +kernel, no_away (by decide +kernel) (by decide +kernel) (by decide +kernel)⟩,
    ⟨rfl, List.mem_cons_self, rfl⟩⟩
  decide +kernel

/-! ### Steps of a sequencer -/

/-- An item at the head of core 0's queue. -/
def item (op : Nat) (f : SeqItem → SeqItem) : SeqItem := f { pass with op := op, paired := false }
def working (q : SeqItem) : State := S (k := core0 fun c => { c with queue := [q] })

/-- The machine's sequencer of core 0 has that item at its head. -/
def Heads (q : SeqItem) : Prop :=
  (working q).seqHead 0 0 = some (q, 0, team id id id) ∧ (∃ c ∈ (team id id id).cores, c.core = 0) ∧
    ((team id id id).onCore 0).tiles.wf = true ∧ (working q).teams[0]? = some (team id id id)

/-- A paired team of cores 0 and 1 with a pass at the head of its leader's queue. -/
def both (t : Team) : Team := { t with follower := some 1 }
def workingBoth : State := S (h := both) (k := core0 fun c => { c with queue := [{ pass with op := 0, paired := true }] })

theorem heads_of {q : SeqItem} (h : (working q).seqHead 0 0 = some (q, 0, team id id id)) : Heads q :=
  ⟨h, ⟨_, List.mem_cons_self, rfl⟩, by decide, rfl⟩

theorem none_due : NoneDue (team id id id) := by
  intro w hw j m o c g p a h
  obtain rfl : w = wave id id := by simpa [team] using hw
  cases h

theorem witness_MatrixSteps :
    (NoneDue (team id id id) ∧ NoneDue (team id id both) ∧
      workingBoth.seqHead 0 0 = some ({ pass with op := 0, paired := true }, 0, team id id both) ∧ (team id id both).follower = some 1 ∧
      bitsOf pass.word.toNat 25 1 = 0) ∧
    (Heads (item 2 id) ∧ (item 2 id).op < 3 ∧ (item 2 id).paired = false ∧ bitsOf (item 2 id).desc.toNat 16 6 + (bitsOf (item 2 id).desc.toNat 8 6 + 1) ≤ 64) ∧
    (Heads (item 0 fun q => { q with desc := 0x3F3F00 }) ∧ ¬ bitsOf 0x3F3F00 16 6 + (bitsOf 0x3F3F00 8 6 + 1) ≤ 64 ∧
      bitsOf 0x3F0000 16 6 + (bitsOf 0x3F0000 8 6 + 1) ≤ 64) ∧
    (Heads (item 4 id) ∧ (item 4 id).op = 4) ∧
    (Heads (item 5 fun q => { q with fmt := 2, rg := 7 }) ∧ (item 5 fun q => { q with fmt := 2, rg := 7 }).rg < 8) ∧
    (Heads (item 6 fun q => { q with fmt := 2, vreg := 48 }) ∧ 48 + rowGroupRegs 2 ≤ 64) ∧
    Heads (item 3 id) ∧ (item 3 id).step + 1 < (mmaxSteps 1).length ∧ (mmaxSteps 0).length ≤ (item 3 id).step + 1 := by
  refine ⟨⟨none_due, none_due, by decide, rfl, by decide⟩, ⟨heads_of (by decide), by decide, rfl, by decide⟩, ⟨heads_of (by decide), by decide, by decide⟩, ⟨heads_of (by decide), rfl⟩,
    ⟨heads_of (by decide), by decide⟩, ⟨heads_of (by decide), by decide⟩, heads_of (by decide), by decide, by decide⟩

/-! ### Steps of streams, Frames and dispatchers -/

/-- A record of object 4 at position 0, or of the G9's own; its place among the publications of its wave. -/
def record4 (posted : Bool) (order : Option Nat := none) : PendingRecord :=
  ⟨0, 4, if posted then some 0 else none, 64, zeros 64, 0, 0, posted, none, order⟩
def withRecord (posted : Bool) (tail : Nat) : State :=
  V (block tail 0 (cfg 0 1)) fun s => s.setDie 0 { s.dies[0] with records := [record4 posted] }

/-- Object 4 attached, with one published record of that depth. -/
def attached4 (depth : Byte) : State :=
  V (block 1 0 (cfg 0 1 + 2 ^ 44) ++ zeros 32 ++ [0, depth] ++ zeros 12 ++ [1, 0]) fun s =>
    (s.setDie 0 { s.dies[0] with attached := [⟨0, 4, none⟩] }).setCtx 0 { s.ctx 0 with streams := [4] }

/-- An image whose one transition, from state 1, is a timeout of that action after five ticks, its rod and its bead. -/
def timeoutImage (act : Nat) : List Byte :=
  bytesAt 1472 [(6, [2, 1, 1]), (64, leBytes 4 (1 + act * 2 ^ 8 + 2 ^ 10)), (68, leBytes 4 (3 * 2 ^ 16)), (76, [5])]
def bead1 : Bead := ⟨1, 0, Vector.replicate 4 0, Vector.replicate 4 none, []⟩
def timeoutRod (act : Nat) : Rod := ⟨0, 0, 1, timeoutImage act, false, true, 1, 0, 0, 0, 0, 0, none, [bead1]⟩
def ticking (act : Nat) : State := V [] fun s => s.setDie 0 { s.dies[0] with ticks := 5, rods := [timeoutRod act] }

/-- A launch of one wave of 64 registers, code object 2; one of no register. -/
def recordOf (vregs : Nat) : List Byte := bytesAt 128 [(0, [2]), (8, leBytes 8 (32 + vregs * 2 ^ 16 + 2 ^ 24))]
def launchOf (vregs : Nat) (n : Option W32) : Launch :=
  ⟨0, 0, recordOf vregs, [], 0, Vector.replicate 4 none, none, [], 0, 0, 0, 0, Vector.replicate 4 0, none, n, 0, none⟩
def accepting (l : Launch) : State := V [] fun s => s.setDie 0 { s.dies[0] with accepted := [l], teamCounter := 7 }
def refilling : State := V [] fun s => s.setDie 0 { s.dies[0] with overflow := [launchOf 64 (some 9)] }
def placing : State :=
  V [] fun s => ({ s with config := some (flashOf 5) }.setDie 0 { s.dies[0] with queue := [launchOf 64 (some 9)] }).setCtx 0
    { s.ctx 0 with weight := 1 }

/-- A quorum of two members; its member 0, the team, waits for its answer. -/
def arriving : State :=
  S (g := stands (.waiting (.quorumAnswer false))) (h := fun t => { t with member := some (0x80000000, 0) })
    (k := open2)
def expiring (b : List (Nat × Nat × W32)) : State :=
  V [] fun s => s.setDie 0 { s.dies[0] with quorums := [{ bound0 with bound := b }] }

theorem witness_FrameSteps :
    (((withRecord true 1).dies[(0 : Fin 4)]).records = [record4 true] ∧ (withRecord true 1).objectPa 0 4 0 = some page4 ∧
      (withRecord true 1).objectPa 0 4 (64 + 64 * (0 % 2 ^ bitsOf ((withRecord true 1).peekNat (page4 + 24) 8) 36 5)) = some (page4 + 64) ∧
      ((withRecord true 1).peekSector page4).2 = false ∧ ((withRecord true 1).ctx 0).shoot = [] ∧
      (record4 true).slot = 64 + 64 * (0 % 2 ^ bitsOf ((withRecord true 1).peekNat (page4 + 24) 8) 36 5) ∧
      QuietHome (withRecord true 1) (page4 + 64) ∧ bitsOf ((withRecord true 1).peekNat (page4 + 24) 8) 41 2 ≠ 1 ∧
      (∀ d : Fin 4, ∀ q ∈ ((withRecord true 1).dies[d]).records, (record4 true).after q = false) ∧
      (record4 true (some 2)).after (record4 true (some 1)) = true ∧ (record4 false (some 1)).after (record4 true (some 1)) = false) ∧
    (((withRecord false 2).dies[(0 : Fin 4)]).records = [record4 false] ∧ (withRecord false 2).objectPa 0 4 0 = some page4 ∧
      2 ^ bitsOf ((withRecord false 2).peekNat (page4 + 24) 8) 36 5 ≤ (withRecord false 2).peekNat page4 8 - (withRecord false 2).peekNat (page4 + 8) 8) ∧
    ((withRecord false 1).peekNat page4 8 - (withRecord false 1).peekNat (page4 + 8) 8 < 2 ^ bitsOf ((withRecord false 1).peekNat (page4 + 24) 8) 36 5 ∧
      Steady (withRecord false 1) page4 (fun s' => s'.objectPa 0 4 (64 + 64 * (1 % 2))) (page4 + 128) ∧
      (page4 + 128) / 64 ≠ page4 / 64 ∧ homeOf (page4 + 128) = some .lp6) ∧
    (((attached4 0).ingestable 0 0 4).any (fun p => p.1 == page4 && p.2.1.kind == 0 && p.2.1.maxd == 1 && p.2.2 == page4 + 64) = true ∧
      ((attached4 2).ingestable 0 0 4).any (fun p => p.1 == page4 && p.2.1.kind == 0 && p.2.1.maxd == 1 && p.2.2 == page4 + 64) = true ∧
      (∀ d : Fin 4, ((attached4 0).dies[d]).held = []) ∧ ((attached4 0).dies[(0 : Fin 4)]).rods = []) ∧
    ((timeoutRod 0).firstTimeout none = some (5, 0, edgeAt (timeoutImage 0) 0) ∧ (edgeAt (timeoutImage 0) 0).act = 0 ∧
      (timeoutRod 1).firstTimeout none = some (5, 0, edgeAt (timeoutImage 1) 0) ∧ (edgeAt (timeoutImage 1) 0).act = 1 ∧
      (timeoutRod 2).firstTimeout none = some (5, 0, edgeAt (timeoutImage 2) 0) ∧ (edgeAt (timeoutImage 2) 0).act = 2 ∧
      (timeoutRod 0).stamped = false ∧ ((ticking 0).ctx 0).state = .running ∧ ((ticking 0).dies[(0 : Fin 4)]).ticks = 5) ∧
    ((accepting (launchOf 64 none)).refillDie = none ∧ (accepting (launchOf 64 none)).launchHeld 0 = false ∧
      ((accepting (launchOf 64 none)).ctx 0).state = .running ∧ (accepting (launchOf 64 none)).refusesLaunch (launchOf 64 none) = false ∧
      (launchOf 64 none).memberEvent = none ∧ recHome (launchOf 64 none).record = 0 ∧ (accepting (launchOf 64 none)).serialHeld 0 7 = false) ∧
    (recVregs (recordOf 0) = 0 ∧ (accepting (launchOf 0 none)).refillDie = none ∧ (accepting (launchOf 0 none)).launchHeld 0 = false) ∧
    (refilling.refillDie = some 0 ∧ (refilling.dies[(0 : Fin 4)]).overflow = [launchOf 64 (some 9)]) ∧
    ((placing.dies[(0 : Fin 4)]).queue = [launchOf 64 (some 9)] ∧ (placing.ctx 0).weight ≠ 0 ∧ (placing.ctx 0).state = .running ∧
      recPaired (recordOf 64) = false ∧ placing.config = some (flashOf 5) ∧ (placing.ctx 0).dbg.trace.getLsbD 31 = false ∧
      recLanes (recordOf 64) ≤ 1024 ∧ placing.coreFits 0 0 (recordOf 64) (recWaves (recordOf 64)) = true ∧
      placing.slotsFrom 0 0 0 0 (recWaves (recordOf 64)) [] ≠ none) ∧
    (arriving.waveAt ⟨0, 0, 0⟩ = some (team id (stands (.waiting (.quorumAnswer false))) (fun t => { t with member := some (0x80000000, 0) }),
        wave id (stands (.waiting (.quorumAnswer false)))) ∧
      arriving.quorum 0 0x80000000 = some quorum2 ∧ (0, (0 : Fin 4).val, (0 : W32)) ∈ quorum2.bound ∧ quorum2.due = 1 ∧ (arriving.ctx 0).clocks = none ∧
      (quorum2.arrived ||| BitVec.ofNat 64 (2 ^ 0)).cpop.toNat ≠ descKreq quorum2.desc) ∧
    ((expiring []).quorumReg 0 0 = some { bound0 with bound := [] } ∧ ((expiring []).ctx 0).state = .running ∧ bound0.due = -1) ∧
    (expiring [(0, 0, 0)]).quorumReg 0 0 = some bound0 := by
  have hs : Steady (withRecord false 1) page4 (fun s' => s'.objectPa 0 4 (64 + 64 * (1 % 2))) (page4 + 128) :=
    objectPa_steady (e := entry4) (by decide +kernel) (by decide +kernel)
      (by decide +kernel) (by decide +kernel)
  refine ⟨⟨rfl, by decide +kernel, by decide +kernel, by decide +kernel, by decide +kernel, by decide +kernel, quiet4 (by decide +kernel), by decide +kernel, by decide +kernel, by decide, by decide⟩,
    ⟨rfl, by decide +kernel, by decide +kernel⟩, ⟨by decide +kernel, hs, by decide, by decide +kernel⟩, by decide +kernel,
    by decide +kernel, by decide +kernel, by decide +kernel, by decide +kernel, by decide +kernel,
    ⟨rfl, by decide +kernel, by decide +kernel, by decide +kernel, rfl, by decide +kernel⟩, by decide +kernel, by decide +kernel⟩

/-! ### The debugger and the register window -/

/-- The context under a debugger that has attached to team 0. -/
def debugged (s : State) : State := s.setCtx 0 { s.ctx 0 with dbg := { Debug.zero with attach := true } }
/-- The team stopping, its split held. -/
def halting : State := S (g := stands .held) (h := fun t => { t with halt := .stopping 2 none 7 false })
/-- The team swapped out, its block STOPPED and its target or not; its dumps go to object 7, the page of object 4. -/
def swapped : SavedTeam := ⟨team (fun w => { w with dumpobj := 7 }) id id, [], [], []⟩
def stopped (s : State) : State :=
  let t := mapped [] s
  ({ t with phys := t.phys.writeBytes (lp6 + 224) entry4.toBytes }).setCtx 0 { t.ctx 0 with
    dbg := { Debug.zero with state := .stopped, swapped := some swapped } }

theorem witness_DebugSteps :
    ((S (k := debugged)).findTeam (Fin.ofNat 4 ((S (k := debugged)).ctx 0).dbg.die.toNat) ((S (k := debugged)).ctx 0).dbg.team =
        some (0, team id id id) ∧ (S (k := debugged)).phase = .running ∧ ((S (k := debugged)).ctx 0).dbg.attach = true ∧
      ((S (k := debugged)).ctx 0).dbg.state = .none ∧ (team id id id).halt = .none ∧ (team id id id).killed = false ∧ (team id id id).ctx = 0) ∧
    (halting.teams[0]? = some (team id (stands .held) fun t => { t with halt := .stopping 2 none 7 false }) ∧ halting.cores = [] ∧
      (team id (stands .held) fun t => { t with halt := .stopping 2 none 7 false }).killed = false ∧
      (wave id (stands .held)).traceobj.getLsbD 31 = false ∧ (wave id (stands .held)).stores = [] ∧
      (wave id (stands .held)).status = .running ∧ (wave id (stands .held)).yielded = false ∧ (wave id (stands .held)).park = none ∧ (wave id (stands .held)).svc = none ∧
      (wave id (stands .held)).splits = #v[some (stands .held (Split.launched 0 0xFFFFFFFF)), none, none, none]) ∧
    (((S (k := stopped)).ctx 0).dbg.swapped = some swapped ∧ ((S (k := stopped)).ctx 0).state = .running ∧
      ((S (k := stopped)).ctx 0).dbg.state = .stopped ∧ (((S (k := stopped)).dies[swapped.team.die]).queue).length < 4096) ∧
    (((S (k := stopped)).ctx 0).dbg.die.toNat = swapped.team.die.val ∧ ((S (k := stopped)).ctx 0).dbg.team = swapped.team.serial ∧
      ¬ ({ ((S (k := stopped)).ctx 0).dbg with team := 1 }).team = swapped.team.serial) ∧
    (swapped.team.waves = [wave (fun w => { w with dumpobj := 7 }) id] ∧ (S (k := stopped)).phys.wf = true ∧ (S (k := stopped)).cores = [] ∧
      Backed (S (k := stopped)) 0 7 65536 (fun o => page4 + o) ∧
      SteadyIn (S (k := stopped)) (fun a => ∃ b < 65536, a = page4 + b) (fun s' => s'.objectSize 0 7) 65536 ∧
      fitting 65536 64 (dumpLengths swapped.team) = 5 ∧ 5 < (dumpLengths swapped.team).length) ∧
    ((0x5000 : W64).extractLsb' 0 5).toNat < 10 ∧ 24 < (25 : W64).toNat ∧ 10 ≤ ((24 : W64).extractLsb' 0 5).toNat ∧
    ((S (k := fun s => s.setCtx 0 { s.ctx 0 with debuggable := true })).ctx 0).debuggable = true ∧
    (0x40 ≤ ((0x10046 : W64).extractLsb' 0 8).toNat ∧ ((0x10046 : W64).extractLsb' 0 8).toNat ≤ 0x46 ∧ (0x10046 : W64).getLsbD 16 = true ∧
      (0x47 : W64).getLsbD 16 = false ∧
      ((S.core 0 143).cntsel[(7 : Fin 8)]).src.toNat < 0x40) ∧
    ((S (k := core0 id ∘ fun s => { s with samp := ⟨true, 10⟩ })).samp.en = true ∧
      (S (k := core0 id ∘ fun s => { s with samp := ⟨true, 10⟩ })).quarterWaves 0 0 0 = [(team id id id, wave id id)] ∧
      (wave id id).traceobj.getLsbD 31 = false ∧
      (wave id id).wslot = ((S (k := core0 id ∘ fun s => { s with samp := ⟨true, 10⟩ })).core 0 0).samplePos[(0 : Fin 4)] + 0) := by
  have he : (S (k := stopped)).entry 0 7 = some entry4 := by decide +kernel
  have ht : ∀ b < 32, (S (k := stopped)).entryPa 0 7 + b < page4 := by decide +kernel
  have hs : SteadyIn (S (k := stopped)) (fun a => ∃ b < 65536, a = page4 + b) (fun s' => s'.objectSize 0 7) 65536 := by
    intro s' hc _ hp
    have h1 : s'.entry 0 7 = (S (k := stopped)).entry 0 7 :=
      (entry_steady (far := fun a => ∀ b : Nat, (∃ c < 65536, b = page4 + c) → a / 256 ≠ b / 256) hc hp (by
        intro b hb x hx
        obtain ⟨c, -, rfl⟩ := hx
        have := ht b hb
        have hm : page4 % 256 = 0 := by decide
        omega)).1
    simp only [State.objectSize, h1, he]; rfl
  refine ⟨⟨by decide +kernel, rfl, rfl, rfl, rfl, rfl, rfl⟩, ⟨rfl, rfl, rfl, by decide, rfl, rfl, rfl, rfl, rfl, rfl⟩, ⟨rfl, rfl, rfl, by decide⟩,
    by decide +kernel,
    ⟨rfl, by decide +kernel, rfl, backed he (by decide) (by decide +kernel) (by decide +kernel) (by decide) (by decide) (by decide +kernel), hs,
      by decide +kernel, by decide +kernel⟩,
    by decide, by decide, by decide, by decide +kernel, by decide, ⟨rfl, by decide +kernel, by decide, by decide +kernel⟩⟩

/-! ### Decoding, the step and the invariants -/

/-- VADD i32 v1, v2, v3 in the code, or SADD s1, s2, s3 at the handler of a wave in service mode, and a move that issues it. -/
def issuing (w : Nat) (f : Wave → Wave) (k : State → State := id) : State :=
  { S f id id (k ∘ code (leBytes 4 w)) with moves := [.issue ⟨0, 0, 0⟩] }

/-- What a step asks of the state before it runs the instruction at its PC. -/
def RunsAt (s : State) (c : Cursor) (service busy : Bool) (i : Instr) : Prop :=
  let r : State := { s.pass with moves := [] }
  let t : State := { (if (r.newIssue c).isSome then r.countIssue c else r) with cur := c }
  r.debugBars c = false ∧ r.holdsAt c = none ∧ ∃ x, checkout t = some x ∧ x.inService = service ∧ x.sp.repActive = false ∧
    decodeBytes (x.text.drop x.pc.toNat) = some (.ok i, []) ∧
    (service = true → serviceWord (leNat ((x.text.drop x.pc.toNat).take 4)) = true) ∧
    ((r.newIssue c).isSome && r.unitBusy c i) = busy

theorem decodes_of {bs : List Byte} (i : Instr)
    (h : (match decodeBytes bs with | some (.ok j, []) => decide (j = i) | _ => false) = true) : decodeBytes bs = some (.ok i, []) := by
  generalize decodeBytes bs = o at h ⊢
  match o, h with
  | some (.ok j, []), h => simp only [decide_eq_true_eq] at h; rw [h]

theorem witness_StepRunsDecoded :
    (issuing vaddWord id).moves = [.issue ⟨0, 0, 0⟩] ∧ RunsAt (issuing vaddWord id) ⟨0, 0, 0⟩ false false (.vadd .i32 0 3 2 1 false) ∧
    RunsAt (issuing 0x00308171 handling) ⟨0, 0, 0⟩ true false (.sadd 3 2 1 false) ∧
    RunsAt (issuing 0x00000DD9 id fullQueue) ⟨0, 0, 0⟩ false true (.aclr 13 false) ∧
    RunsAt (issuing 0x00000DD9 id) ⟨0, 0, 0⟩ false false (.aclr 13 false) ∧
    ({ S with moves := [.event (.markerWaitComplete 0 0)] }).moves = .event (.markerWaitComplete 0 0) :: [] := by
  refine ⟨rfl, ⟨by decide +kernel, by decide +kernel, _, rfl, by decide +kernel, by decide +kernel, decodes_of _ (by decide +kernel),
      (fun h => nomatch h), by decide +kernel⟩,
    ⟨by decide +kernel, by decide +kernel, _, rfl, by decide +kernel, by decide +kernel, decodes_of _ (by decide +kernel),
      fun _ => by decide +kernel, by decide +kernel⟩,
    ⟨by decide +kernel, by decide +kernel, _, rfl, by decide +kernel, by decide +kernel, decodes_of _ (by decide +kernel),
      (fun h => nomatch h), by decide +kernel⟩,
    ⟨by decide +kernel, by decide +kernel, _, rfl, by decide +kernel, by decide +kernel, decodes_of _ (by decide +kernel),
      (fun h => nomatch h), by decide +kernel⟩, rfl⟩

theorem witness_DecodeInvertsEncode : Instr.wellFormed (.smxu 1 2 3 4 true) = true ∧ (encode (.smxu 1 2 3 4 true)).isSome = true := by decide

/-- The invariants hold at reset, and a machine goes on from there: host traffic before PHASE 2. -/
def firstEvent : State := { State.reset with moves := [.event .hostTrafficBeforeRun] }

theorem firstEvent_ok : MemoriesOk firstEvent := by
  have e1 : ∀ d : Fin 4, (firstEvent.dies[d]).queue ++ (firstEvent.dies[d]).overflow ++ (firstEvent.dies[d]).accepted = [] := by
    decide
  have e2 : ∀ c : Fin 64, (firstEvent.contexts[c]).dbg.swapped = none ∧ (firstEvent.contexts[c]).saved = none := by decide
  refine ⟨by unfold Safety.MemoryOk; decide, fun _ h => (nomatch h), fun _ h => (nomatch h), ?_, ?_⟩
  · intro d l x hl
    rw [e1 d] at hl; cases hl
  · intro c x
    rw [(e2 c).1, (e2 c).2]
    exact ⟨fun h => (nomatch h), fun _ h => (nomatch h)⟩

theorem witness_BootInvariant : BootOk firstEvent ∧ ∃ t, step firstEvent = .next t :=
  ⟨by unfold BootOk; decide, next_of (by decide +kernel)⟩

theorem witness_MemoryInvariant : MemoriesOk firstEvent ∧ ∃ t, step firstEvent = .next t := ⟨firstEvent_ok, next_of (by decide +kernel)⟩

end Sys2Proof.Tests
end

/-! ## What writes of registers change (R57, R85, R284) -/

namespace Sys2Proof.RegisterWrites

open Sys2Proof.Machine

/-- A component of a vector of registers after a write of one of them. -/
theorem getElem_set_fin {α : Type} {n : Nat} (v : Vector α n) (d r : Fin n) (a : α) :
    (v.set d a)[r] = if r = d then a else v[r] := by
  by_cases h : r = d
  · subst h; simp
  · rw [if_neg h]
    exact Vector.getElem_set_ne d.isLt r.isLt fun e => h (Fin.ext e.symm)

/-! ### Scalars -/

theorem s_eq (x : Iss) (n : SReg) :
    x.s n = if x.inService = true ∧ 48 ≤ n.val then x.wv.bankS[Fin.ofNat 16 (n.val - 48)] else x.wv.s[n] := by
  simp only [Iss.s, Bool.and_eq_true, decide_eq_true_eq]

theorem setS_of_bank (x : Iss) (d : SReg) (w : W64) (h : x.inService = true ∧ 48 ≤ d.val) :
    x.setS d w = { x with wv := { x.wv with bankS := x.wv.bankS.set (Fin.ofNat 16 (d.val - 48)) w } } := by
  simp only [Iss.setS, Bool.and_eq_true, decide_eq_true_eq, if_pos h]

theorem setS_of_own (x : Iss) (d : SReg) (w : W64) (h : ¬ (x.inService = true ∧ 48 ≤ d.val)) :
    x.setS d w = { x with wv := { x.wv with s := x.wv.s.set d w } } := by
  simp only [Iss.setS, Bool.and_eq_true, decide_eq_true_eq, if_neg h]

theorem setS_frame (x : Iss) (d : SReg) (w : W64) :
    x.setS d w = { x with wv := { x.wv with s := (x.setS d w).wv.s, bankS := (x.setS d w).wv.bankS } } := by
  by_cases h : x.inService = true ∧ 48 ≤ d.val
  · rw [setS_of_bank x d w h]
  · rw [setS_of_own x d w h]

/-! ### Masks -/

theorem m_setM_eq (x : Iss) (d n : MReg) (w : Mask) :
    (x.setM d w).m n = if n = 0 then BitVec.allOnes 32 else if n = d then w else x.m n := by
  by_cases hn : n = 0
  · rw [if_pos hn, hn, Iss.m_zero]; rfl
  · rw [if_neg hn]
    by_cases hd : d = 0
    · rw [hd, Iss.setM_zero, if_neg hn]
    · exact Iss.m_setM x d n w hd

theorem setM_frame (x : Iss) (d : MReg) (w : Mask) :
    x.setM d w = { x with wv := { x.wv with m := (x.setM d w).wv.m } } := by
  by_cases hd : d = 0
  · rw [hd, Iss.setM_zero]
  · simp only [Iss.setM, if_neg hd]

/-! ### Capability registers -/

theorem k_eq (x : Iss) (n : KReg) :
    x.k n = if x.inService = true ∧ n = 15 then x.wv.bankK else x.wv.k[n] := by
  simp only [Iss.k, Bool.and_eq_true, decide_eq_true_eq]

theorem setK_of_bank (x : Iss) (d : KReg) (c : Cap) (h : x.inService = true ∧ d = 15) :
    x.setK d c = { x with wv := { x.wv with bankK := c } } := by
  simp only [Iss.setK, Bool.and_eq_true, decide_eq_true_eq, if_pos h]

theorem setK_of_own (x : Iss) (d : KReg) (c : Cap) (h : ¬ (x.inService = true ∧ d = 15)) :
    x.setK d c = { x with wv := { x.wv with k := x.wv.k.set d c } } := by
  simp only [Iss.setK, Bool.and_eq_true, decide_eq_true_eq, if_neg h]

theorem setK_frame (x : Iss) (d : KReg) (c : Cap) :
    x.setK d c = { x with wv := { x.wv with k := (x.setK d c).wv.k, bankK := (x.setK d c).wv.bankK } } := by
  by_cases h : x.inService = true ∧ d = 15
  · rw [setK_of_bank x d c h]
  · rw [setK_of_own x d c h]

/-! ### Blocks of vector registers -/

theorem vNext_val (d : VReg) (i : Nat) (h : d.val + i < 64) : (vNext d i).val = d.val + i := Nat.mod_eq_of_lt h

@[simp] theorem vNext_zero (d : VReg) : vNext d 0 = d := Fin.ext (vNext_val d 0 d.isLt)

@[simp] theorem setWords_zero (x : Iss) (d : VReg) (lanes : Mask) (f : Fin 32 → Nat) : x.setWords 0 d lanes f = x := rfl

theorem setWords_succ (x : Iss) (n : Nat) (d : VReg) (lanes : Mask) (f : Fin 32 → Nat) :
    x.setWords (n + 1) d lanes f =
      (x.setWords n d lanes f).setV (vNext d n) lanes fun L => BitVec.ofNat 32 (f L / 2 ^ (32 * n)) := by
  simp only [Iss.setWords, List.range_succ, List.foldl_append, List.foldl_cons, List.foldl_nil]

theorem setWords_frame (x : Iss) (n : Nat) (d : VReg) (lanes : Mask) (f : Fin 32 → Nat) :
    x.setWords n d lanes f = { x with wv := { x.wv with v := (x.setWords n d lanes f).wv.v } } := by
  induction n with
  | zero => rfl
  | succ n ih => rw [setWords_succ, ih]; rfl

theorem v_setWords (x : Iss) (n : Nat) (d : VReg) (hd : d.val + n ≤ 64) (lanes : Mask) (f : Fin 32 → Nat)
    (r : VReg) (L : Fin 32) :
    (x.setWords n d lanes f).v r L =
      if lanes.getLsbD L.val = true ∧ d.val ≤ r.val ∧ r.val < d.val + n then BitVec.ofNat 32 (f L / 2 ^ (32 * (r.val - d.val)))
      else x.v r L := by
  induction n with
  | zero => rw [setWords_zero, if_neg (by omega)]
  | succ n ih =>
    have hlast : r = vNext d n ↔ r.val = d.val + n := by rw [Fin.ext_iff, vNext_val d n (by omega)]
    rw [setWords_succ, Iss.v_setV, ih (by omega)]
    by_cases hr : r.val = d.val + n
    · -- the word just written: no earlier one lies in this register
      simp only [hlast, hr, true_and]
      by_cases hl : lanes.getLsbD L.val = true
      · rw [if_pos hl, if_pos ⟨hl, by omega⟩, Nat.add_sub_cancel_left]
      · rw [if_neg hl, if_neg fun h => hl h.1, if_neg fun h => hl h.1]
    · have hlt : r.val < d.val + (n + 1) ↔ r.val < d.val + n := by omega
      simp only [hlast, hr, false_and, if_false, hlt]

theorem setLane_eq_setWords (x : Iss) (wide : Bool) (d : VReg) (lanes : Mask) (f : Fin 32 → Nat) :
    x.setLane wide d lanes f = x.setWords (if wide then 2 else 1) d lanes f := by
  cases wide with
  | false => simp [Iss.setLane, setWords_succ]
  | true => simp [Iss.setLane, setWords_succ]

/-- Settles O24: each register file by its read after a write and its frame, blocks of vector registers by induction on their words. -/
theorem registerWrites : Obligations.RegisterWrites := by
  intro x svc hsvc
  subst hsvc
  refine ⟨s_eq x, k_eq x, x.s_setS, fun d w => ⟨setS_frame x d w, fun h => ?_, fun h => ?_⟩, m_setM_eq x,
    fun d w => ⟨setM_frame x d w, x.setM_zero w⟩, x.k_setK, fun d c => ⟨setK_frame x d c, fun h => ?_, fun h => ?_⟩,
    fun n d hd hn lanes f => ⟨setWords_frame x n _ lanes f, v_setWords x n _ hd lanes f⟩,
    fun wide d lanes f _ => setLane_eq_setWords x wide d lanes f⟩
  · rw [setS_of_bank x d w h]
  · rw [setS_of_own x d w h]
    exact ⟨rfl, fun n => getElem_set_fin x.wv.s d n w⟩
  · rw [setK_of_bank x d c h]
  · rw [setK_of_own x d c h]
    exact ⟨rfl, fun n => getElem_set_fin x.wv.k d n c⟩

end Sys2Proof.RegisterWrites
